-- ==== Sys2Proof/Word.lean ====
section
/-! DEFINITION. The word types of the ULN-8 and the small shared types that both the instruction
syntax and the machine state use: engines, ports, page kinds, peer packets (spec/00, 02 R14, R15). -/
namespace Sys2Proof

/-- A byte (R4). -/
abbrev Byte := BitVec 8
/-- An instruction word or a lane, 32 bits (R4, R14). -/
abbrev W32 := BitVec 32
/-- A doubleword: scalar registers, addresses, control registers (R4, R128). -/
abbrev Word := BitVec 64

/-- The four engines of a core, named by the tag field (R14, R15). -/
inductive Engine where
  | s | v | m | x
  deriving DecidableEq, Repr

/-- The number R183 and R189 give an engine: 0 S, 1 V, 2 M, 3 X. -/
def Engine.num : Engine → Nat
  | .s => 0
  | .v => 1
  | .m => 2
  | .x => 3

/-- The partners A, B, C of an engine (R23). -/
def Engine.partner : Engine → Nat → Engine
  | .s, 0 => .v | .s, 1 => .m | .s, _ => .x
  | .v, 0 => .s | .v, 1 => .m | .v, _ => .x
  | .m, 0 => .s | .m, 1 => .v | .m, _ => .x
  | .x, 0 => .s | .x, 1 => .v | .x, _ => .m

/-- The place of partner `p` among the partners of `e`: 0 A, 1 B, 2 C (R23). -/
def Engine.letter (e p : Engine) : Nat :=
  if e.partner 0 = p then 0 else if e.partner 1 = p then 1 else 2

/-- Memory type of a page mapping (R216). -/
inductive PageKind where
  | device | host | peer | plane | code
  deriving DecidableEq, Repr

/-- One page mapping of the host's page tables (R211, R216). `frame` is the machine's own address of
the page's first byte (log 15), `key` its key slot (R331); `bits` is 12, 16, 21 or 30. `readOnly` marks a PEER page over
a PLANE or CODE page of its peer, which grants no write (R311). -/
structure Page where
  pasid : BitVec 20
  va    : Nat
  bits  : Nat
  kind  : PageKind
  r     : Bool
  w     : Bool
  x     : Bool
  frame : Nat
  key   : Nat
  dieLocal : Option Nat
  readOnly : Bool
  deriving DecidableEq, Repr

/-- The two management ports (R335): 1 host link, 2 I3C. -/
inductive Port where
  | hostLink | i3c
  deriving DecidableEq, Repr

/-- How a PCIe AtomicOp completed (R309). -/
inductive AtomicAnswer where
  | success | unsupported | abort
  deriving DecidableEq, Repr

/-- The read-modify-write operations of atomics, OP packets and XRED (R221, R225, R312); the last three are
XRED's floating-point ones. -/
inductive AmoOp where
  | add | swap | cas | min | max | minu | maxu | and | or | xor | fadd | fmin | fmax
  deriving DecidableEq, Repr

/-- A packet that an Eproth flit carries (R311). -/
inductive Packet where
  | read (req tag : BitVec 8) (addr : Word) (len : Nat)
  | readData (tag : BitVec 8) (data : List Byte) (poison : Bool)
  | write (req tag : BitVec 8) (addr : Word) (mask : List Bool) (data : List Byte) (scope : BitVec 2)
  | op (req tag : BitVec 8) (addr : Word) (operation : AmoOp) (wide : Bool) (x y : Word) (acq rel : Bool)
  | opData (tag : BitVec 8) (old : Word) (status : BitVec 8)
  | ack (tag : BitVec 8) (status : BitVec 8)
  deriving DecidableEq, Repr

/-- What a received flit shows: a CRC that fails, or one that is right, with its retry request (R310). -/
inductive FlitCheck where
  | bad
  | good (retry : Bool)
  deriving DecidableEq, Repr

/-- A TOLERANT range of frames (R326): base and count in 2 MiB units and its element format code. -/
structure Tolerant where
  base  : Nat
  count : Nat
  fmt   : Nat
  deriving DecidableEq, Repr

/-- The kinds of signed images (R337). -/
inductive ImageKind where
  | firmware | baseDie | decodeTable
  deriving DecidableEq, Repr

end Sys2Proof
end

