-- ==== Sys2Proof/Config.lean ====
section
/-! DEFINITION. What an implementation fixes and what the manual leaves open: the free values (opaque,
so that no proof sees them) and the latencies that the manual does not fix (logs 8, 12, 18). -/
namespace Sys2Proof.Config

/-- The raw choice behind VRCP (0), VRSQ (1), VEX2 (2) and VLG2 (3) of an operand: the manual fixes the
result only to within 1 ulp, the same on every part (R70). Free value, log 12. -/
opaque special : Nat → W32 → W32

/-- Whether a staged image is one of a kind (0 firmware, 1 base-die firmware, 2 decode table) whose ML-DSA-65
signature verifies under the fused public key (R337). Free value, log 18. -/
opaque signatureOk : Nat → List Byte → Bool

/-- The signed measurement of an index (R338). Free value, log 18. -/
opaque measurement : Nat → List Byte → List Byte

/-- The record that the spill engine reads back from a Spillway address it cannot read: the manual states no
value (R266). Free value, log 29. -/
opaque lostRecord : Nat → BitVec 512

/-- What DRES0 and DRES1 hold after a driver command that names no result: the manual states none (R295).
Free value, drawn by a counter, log 37. -/
opaque freeResult : Nat → Word

/-- The version (0) and security version (1) in the header of a staged image: the manual gives the fields and
no layout (R337). Free value, log 18. -/
opaque imageField : Nat → List Byte → W32

/-- The contents of a replay slot that no trap has used, where a descriptor that the handler has rewritten names it: the
manual states none (R184, R185). Free value, log 81. -/
opaque unusedSlot : Nat → BitVec 8192

/-- What errors a cycle brings to memory: a 64-byte line, one of its thirty-two 16-bit symbols, and the bits that flip
(R325, R326). Free value, log 85. -/
opaque upset : Nat → Option (Nat × Nat × BitVec 16)

/-- The bank of its stack that holds a line: the manual gives no map and no number of banks (R340). Free value, log 85. -/
opaque bank : Nat → Nat

/-- The temperature of a die in °C at a sample, and the droop events it has had since the last (R340). Free values,
log 86. -/
opaque temperature : Nat → Nat → Nat
opaque droops : Nat → Nat → Nat

/-- Whether an isolated die still owns a line dirty when its isolation is confirmed, of those it wrote last: caches may
have written it back meanwhile (R334). Free value, log 94. -/
opaque stillDirty : Nat → Nat → Bool

/-- How long, in units of wall time, the clock gaps of a throttled die make a core cycle (R2). Free value, log 60. -/
opaque gap : Nat → Nat

/-- The device ID and the route table (a link toward each ID) that bring-up assigns (R310). Free values, log 92. -/
opaque deviceId : BitVec 8
opaque routes : List (Nat × Nat)

/-- What a byte of a peer's memory holds in a cycle, where the device itself reads it; none for poison (R246, R311). Free value,
log 48. -/
opaque peerByte : Nat → Nat → Option Byte

/-- Whether the line of a deferred release is evicted, or a host thread reads it, in a cycle (R252, R316). Free value, log 101. -/
opaque evicted : Nat → Nat → Bool

/-- Cycles from issue to data return of a load or atomic (R219: not fixed; 110 ns at class 0). Log 8. -/
def loadLatency : Nat := 193

/-- Cycles from issue to retirement of a FENCE, CFENCE or STL (R252, R255: not fixed). Log 8. -/
def fenceLatency : Nat := 2

/-- Cycles from issue to the answer of a Q word, WNEXT, RSPAWN or TSYNC (R265, R284: not fixed). Log 8. -/
def answerLatency : Nat := 2

/-- Cycles of a page walk, and of a trap frame write's aftermath (R124, R212: not fixed). Log 8. -/
def walkLatency : Nat := 2

end Sys2Proof.Config
end

