-- ==== Sys2Proof/Syntax.lean ====
section
/-! DEFINITION. The instruction syntax: one constructor for each row of spec/opcode_table.json. The
first 200 are instruction words (spec/02 R31 to R36); their first argument is the tok field (R24). The
rest are the device's other whole steps, which the table lists without an encoding: first those with operands. A register pair
is held as its number divided by 2; a field the format splits is held joined. -/
namespace Sys2Proof

/-- Every step of the ULN-8 that the opcode table names. -/
inductive Instr where
  /-- ADD, R134. -/
  | add (t : BitVec 3) (d a b : BitVec 6)
  /-- SUB, R134. -/
  | sub (t : BitVec 3) (d a b : BitVec 6)
  /-- AND, R134. -/
  | and (t : BitVec 3) (d a b : BitVec 6)
  /-- OR, R134. -/
  | or (t : BitVec 3) (d a b : BitVec 6)
  /-- XOR, R134. -/
  | xor (t : BitVec 3) (d a b : BitVec 6)
  /-- SHL, R134. -/
  | shl (t : BitVec 3) (d a b : BitVec 6)
  /-- SHR, R134. -/
  | shr (t : BitVec 3) (d a b : BitVec 6)
  /-- SRA, R134. -/
  | sra (t : BitVec 3) (d a b : BitVec 6)
  /-- MUL, R134. -/
  | mul (t : BitVec 3) (d a b : BitVec 6)
  /-- MULH, R134. -/
  | mulh (t : BitVec 3) (d a b : BitVec 6)
  /-- MULHU, R134. -/
  | mulhu (t : BitVec 3) (d a b : BitVec 6)
  /-- DIV, R134. -/
  | div (t : BitVec 3) (d a b : BitVec 6)
  /-- DIVU, R134. -/
  | divu (t : BitVec 3) (d a b : BitVec 6)
  /-- REM, R134. -/
  | rem (t : BitVec 3) (d a b : BitVec 6)
  /-- REMU, R134. -/
  | remu (t : BitVec 3) (d a b : BitVec 6)
  /-- MIN, R134. -/
  | min (t : BitVec 3) (d a b : BitVec 6)
  /-- MAX, R134. -/
  | max (t : BitVec 3) (d a b : BitVec 6)
  /-- MINU, R134. -/
  | minu (t : BitVec 3) (d a b : BitVec 6)
  /-- MAXU, R134. -/
  | maxu (t : BitVec 3) (d a b : BitVec 6)
  /-- SLT, R134. -/
  | slt (t : BitVec 3) (d a b : BitVec 6)
  /-- SLTU, R134. -/
  | sltu (t : BitVec 3) (d a b : BitVec 6)
  /-- CEQ, R137. -/
  | ceq (t : BitVec 3) (a b : BitVec 6)
  /-- CNE, R137. -/
  | cne (t : BitVec 3) (a b : BitVec 6)
  /-- CLT, R137. -/
  | clt (t : BitVec 3) (a b : BitVec 6)
  /-- CGE, R137. -/
  | cge (t : BitVec 3) (a b : BitVec 6)
  /-- CLTU, R137. -/
  | cltu (t : BitVec 3) (a b : BitVec 6)
  /-- CGEU, R137. -/
  | cgeu (t : BitVec 3) (a b : BitVec 6)
  /-- ADDI, R135. -/
  | addi (t : BitVec 3) (d a : BitVec 6) (i : BitVec 9)
  /-- ANDI, R135. -/
  | andi (t : BitVec 3) (d a : BitVec 6) (i : BitVec 9)
  /-- ORI, R135. -/
  | ori (t : BitVec 3) (d a : BitVec 6) (i : BitVec 9)
  /-- XORI, R135. -/
  | xori (t : BitVec 3) (d a : BitVec 6) (i : BitVec 9)
  /-- SHLI, R135. -/
  | shli (t : BitVec 3) (d a i : BitVec 6)
  /-- SHRI, R135. -/
  | shri (t : BitVec 3) (d a i : BitVec 6)
  /-- SRAI, R135. -/
  | srai (t : BitVec 3) (d a i : BitVec 6)
  /-- CEQI, R137. -/
  | ceqi (t : BitVec 3) (a : BitVec 6) (i : BitVec 9)
  /-- CLTI, R137. -/
  | clti (t : BitVec 3) (a : BitVec 6) (i : BitVec 9)
  /-- LUI, R136. -/
  | lui (t : BitVec 3) (d : BitVec 6) (i : BitVec 15)
  /-- LSH, R136. -/
  | lsh (t : BitVec 3) (d : BitVec 6) (i : BitVec 15)
  /-- ADDPC, R136. -/
  | addpc (t : BitVec 3) (d : BitVec 6) (i : BitVec 15)
  /-- BCQ, R138. -/
  | bcq (t : BitVec 3) (o : BitVec 21)
  /-- BCQN, R138. -/
  | bcqn (t : BitVec 3) (o : BitVec 21)
  /-- JMP, R138. -/
  | jmp (t : BitVec 3) (o : BitVec 21)
  /-- CALL, R138. -/
  | call (t : BitVec 3) (o : BitVec 21)
  /-- JR, R139. -/
  | jr (t : BitVec 3) (a : BitVec 6)
  /-- CALLR, R139. -/
  | callr (t : BitVec 3) (a : BitVec 6)
  /-- CALLK, R143. -/
  | callk (t : BitVec 3) (a : BitVec 5) (b : BitVec 6)
  /-- CRR, R145. -/
  | crr (t : BitVec 3) (d : BitVec 6) (n : BitVec 9)
  /-- CRW, R145. -/
  | crw (t : BitVec 3) (a : BitVec 6) (n : BitVec 9)
  /-- CRW_TIMER, R122. -/
  | crwTimer (t : BitVec 3) (a : BitVec 6)
  /-- CRW_SLIP, R19. -/
  | crwSlip (t : BitVec 3) (a : BitVec 6)
  /-- CRW_FPFLAGS, R48. -/
  | crwFpflags (t : BitVec 3) (a : BitVec 6)
  /-- CRW_IEN, R147. -/
  | crwIen (t : BitVec 3) (a : BitVec 6)
  /-- TRAP, R149. -/
  | trap (t : BitVec 3) (i : BitVec 9)
  /-- NOP, R148. -/
  | nop (t : BitVec 3)
  /-- TRET, R185. -/
  | tret (t : BitVec 3)
  /-- HALT, R18. -/
  | halt (t : BitVec 3)
  /-- PAUSE, R150. -/
  | pause (t : BitVec 3)
  /-- TWAIT, R144. -/
  | twait (t m : BitVec 3)
  /-- TSIG, R144. -/
  | tsig (t m : BitVec 3)
  /-- SCFG, R82. -/
  | scfg (t : BitVec 3) (q : BitVec 4) (a : BitVec 6) (f : BitVec 9)
  /-- NCFG, R83. -/
  | ncfg (t : BitVec 3) (a : BitVec 6) (l : BitVec 3)
  /-- NMASK_FIRST, R84. -/
  | nmaskFirst (t : BitVec 3) (a : BitVec 6) (l : BitVec 3)
  /-- NMASK_LAST, R84. -/
  | nmaskLast (t : BitVec 3) (a : BitVec 6) (l : BitVec 3)
  /-- NEST, R86. -/
  | nest (t : BitVec 3) (r i : BitVec 6) (s : BitVec 1)
  /-- LDB, R219. -/
  | ldb (t : BitVec 3) (d a : BitVec 6) (h : BitVec 4) (i : BitVec 5)
  /-- LDBU, R219. -/
  | ldbu (t : BitVec 3) (d a : BitVec 6) (h : BitVec 4) (i : BitVec 5)
  /-- LDH, R219. -/
  | ldh (t : BitVec 3) (d a : BitVec 6) (h : BitVec 4) (i : BitVec 5)
  /-- LDHU, R219. -/
  | ldhu (t : BitVec 3) (d a : BitVec 6) (h : BitVec 4) (i : BitVec 5)
  /-- LDW, R219. -/
  | ldw (t : BitVec 3) (d a : BitVec 6) (h : BitVec 4) (i : BitVec 5)
  /-- LDWU, R219. -/
  | ldwu (t : BitVec 3) (d a : BitVec 6) (h : BitVec 4) (i : BitVec 5)
  /-- LDD, R219. -/
  | ldd (t : BitVec 3) (d a : BitVec 6) (h : BitVec 4) (i : BitVec 5)
  /-- STB, R219. -/
  | stb (t : BitVec 3) (d a : BitVec 6) (h : BitVec 4) (i : BitVec 5)
  /-- STH, R219. -/
  | sth (t : BitVec 3) (d a : BitVec 6) (h : BitVec 4) (i : BitVec 5)
  /-- STW, R219. -/
  | stw (t : BitVec 3) (d a : BitVec 6) (h : BitVec 4) (i : BitVec 5)
  /-- STD, R219. -/
  | std (t : BitVec 3) (d a : BitVec 6) (h : BitVec 4) (i : BitVec 5)
  /-- LDS, R205. -/
  | lds (t : BitVec 3) (d a : BitVec 6) (i : BitVec 9)
  /-- STS, R205. -/
  | sts (t : BitVec 3) (d a : BitVec 6) (i : BitVec 9)
  /-- LDA, R220. -/
  | lda (t : BitVec 3) (d a : BitVec 6) (h : BitVec 4) (w : BitVec 1) (c : BitVec 2) (q : BitVec 1)
  /-- STL, R220. -/
  | stl (t : BitVec 3) (d a : BitVec 6) (h : BitVec 4) (w : BitVec 1) (c : BitVec 2) (q : BitVec 1)
  /-- AMOADD, R221. -/
  | amoadd (t : BitVec 3) (d a : BitVec 6) (h : BitVec 3) (w o : BitVec 1) (c : BitVec 2)
  /-- AMOSWP, R221. -/
  | amoswp (t : BitVec 3) (d a : BitVec 6) (h : BitVec 3) (w o : BitVec 1) (c : BitVec 2)
  /-- AMOCAS, R221. -/
  | amocas (t : BitVec 3) (d : BitVec 5) (a : BitVec 6) (h : BitVec 3) (w o : BitVec 1) (c : BitVec 2)
  /-- AMOMIN, R221. -/
  | amomin (t : BitVec 3) (d a : BitVec 6) (h : BitVec 3) (w o : BitVec 1) (c : BitVec 2)
  /-- AMOMAX, R221. -/
  | amomax (t : BitVec 3) (d a : BitVec 6) (h : BitVec 3) (w o : BitVec 1) (c : BitVec 2)
  /-- AMOMINU, R221. -/
  | amominu (t : BitVec 3) (d a : BitVec 6) (h : BitVec 3) (w o : BitVec 1) (c : BitVec 2)
  /-- AMOMAXU, R221. -/
  | amomaxu (t : BitVec 3) (d a : BitVec 6) (h : BitVec 3) (w o : BitVec 1) (c : BitVec 2)
  /-- AMOAND, R221. -/
  | amoand (t : BitVec 3) (d a : BitVec 6) (h : BitVec 3) (w o : BitVec 1) (c : BitVec 2)
  /-- AMOOR, R221. -/
  | amoor (t : BitVec 3) (d a : BitVec 6) (h : BitVec 3) (w o : BitVec 1) (c : BitVec 2)
  /-- AMOXOR, R221. -/
  | amoxor (t : BitVec 3) (d a : BitVec 6) (h : BitVec 3) (w o : BitVec 1) (c : BitVec 2)
  /-- XLAT_R, R212. -/
  | xlatR (t : BitVec 3) (h : BitVec 4) (a b : BitVec 6)
  /-- XLAT_RW, R212. -/
  | xlatRw (t : BitVec 3) (h : BitVec 4) (a b : BitVec 6)
  /-- XLAT_RWA, R212. -/
  | xlatRwa (t : BitVec 3) (h : BitVec 4) (a b : BitVec 6)
  /-- PROBE, R209. -/
  | probe (t : BitVec 3) (d a o : BitVec 6) (c : BitVec 3)
  /-- TREL, R210. -/
  | trel (t : BitVec 3) (a : BitVec 6)
  /-- TSTAT, R210. -/
  | tstat (t : BitVec 3) (d a : BitVec 6)
  /-- TCLEAN, R210. -/
  | tclean (t : BitVec 3) (a : BitVec 6)
  /-- TDIRTY, R210. -/
  | tdirty (t : BitVec 3) (a : BitVec 6)
  /-- HREL, R214. -/
  | hrel (t : BitVec 3) (h : BitVec 4)
  /-- HQRY, R214. -/
  | hqry (t : BitVec 3) (d : BitVec 5) (h : BitVec 4)
  /-- FENCE, R255. -/
  | fence (t : BitVec 3) (c : BitVec 2)
  /-- CFENCE, R257. -/
  | cfence (t : BitVec 3) (a b : BitVec 6) (c : BitVec 2)
  /-- BAR, R238. -/
  | bar (t g : BitVec 3)
  /-- BARA, R238. -/
  | bara (t : BitVec 3) (a : BitVec 6) (g : BitVec 3)
  /-- BARW, R238. -/
  | barw (t g : BitVec 3)
  /-- BARQ, R241. -/
  | barq (t : BitVec 3) (d : BitVec 5) (g : BitVec 3)
  /-- STEP, R238. -/
  | step (t g : BitVec 3)
  /-- STWP, R242. -/
  | stwp (t : BitVec 3) (d : BitVec 5) (a : BitVec 6) (h : BitVec 4) (i : BitVec 5)
  /-- QPUSH, R265. -/
  | qpush (t : BitVec 3) (a : BitVec 6)
  /-- QPOP, R265. -/
  | qpop (t : BitVec 3) (d a : BitVec 6)
  /-- QSTEAL, R265. -/
  | qsteal (t : BitVec 3) (d a : BitVec 6)
  /-- QLEN, R265. -/
  | qlen (t : BitVec 3) (d : BitVec 6)
  /-- WNEXT, R285. -/
  | wnext (t : BitVec 3) (d : BitVec 6)
  /-- RSPAWN, R286. -/
  | rspawn (t : BitVec 3) (d a : BitVec 6)
  /-- TSYNC_JOIN, R288. -/
  | tsyncJoin (t h : BitVec 3) (a b : BitVec 6)
  /-- TSYNC_ARRIVE, R288. -/
  | tsyncArrive (t h : BitVec 3) (a b : BitVec 6)
  /-- VADD, R161. -/
  | vadd (t e : BitVec 3) (y : BitVec 2) (d a b : BitVec 5)
  /-- VSUB, R161. -/
  | vsub (t e : BitVec 3) (y : BitVec 2) (d a b : BitVec 5)
  /-- VMUL, R161. -/
  | vmul (t e : BitVec 3) (y : BitVec 2) (d a b : BitVec 5)
  /-- VFMA, R161. -/
  | vfma (t e : BitVec 3) (y : BitVec 2) (d a b : BitVec 5)
  /-- VFMS, R161. -/
  | vfms (t e : BitVec 3) (y : BitVec 2) (d a b : BitVec 5)
  /-- VFNMA, R161. -/
  | vfnma (t e : BitVec 3) (y : BitVec 2) (d a b : BitVec 5)
  /-- VMIN, R71. -/
  | vmin (t e : BitVec 3) (y : BitVec 2) (d a b : BitVec 5)
  /-- VMAX, R71. -/
  | vmax (t e : BitVec 3) (y : BitVec 2) (d a b : BitVec 5)
  /-- VABS, R161. -/
  | vabs (t e : BitVec 3) (y : BitVec 2) (d a : BitVec 5)
  /-- VNEG, R161. -/
  | vneg (t e : BitVec 3) (y : BitVec 2) (d a : BitVec 5)
  /-- VRCP, R70. -/
  | vrcp (t e : BitVec 3) (d a : BitVec 5)
  /-- VRSQ, R70. -/
  | vrsq (t e : BitVec 3) (d a : BitVec 5)
  /-- VEX2, R70. -/
  | vex2 (t e : BitVec 3) (d a : BitVec 5)
  /-- VLG2, R70. -/
  | vlg2 (t e : BitVec 3) (d a : BitVec 5)
  /-- VIADD, R162. -/
  | viadd (t e : BitVec 3) (y : BitVec 2) (d a b : BitVec 5) (f : BitVec 1)
  /-- VISUB, R162. -/
  | visub (t e : BitVec 3) (y : BitVec 2) (d a b : BitVec 5) (f : BitVec 1)
  /-- VIMUL, R162. -/
  | vimul (t e : BitVec 3) (y : BitVec 2) (d a b : BitVec 5)
  /-- VIMAD, R162. -/
  | vimad (t e : BitVec 3) (y : BitVec 2) (d a b : BitVec 5)
  /-- VAND, R162. -/
  | vand (t e : BitVec 3) (y : BitVec 2) (d a b : BitVec 5)
  /-- VOR, R162. -/
  | vor (t e : BitVec 3) (y : BitVec 2) (d a b : BitVec 5)
  /-- VXOR, R162. -/
  | vxor (t e : BitVec 3) (y : BitVec 2) (d a b : BitVec 5)
  /-- VSHL, R162. -/
  | vshl (t e : BitVec 3) (y : BitVec 2) (d a b : BitVec 5)
  /-- VSHR, R162. -/
  | vshr (t e : BitVec 3) (y : BitVec 2) (d a b : BitVec 5)
  /-- VSRA, R162. -/
  | vsra (t e : BitVec 3) (y : BitVec 2) (d a b : BitVec 5)
  /-- VIMIN, R162. -/
  | vimin (t e : BitVec 3) (y : BitVec 2) (d a b : BitVec 5) (f : BitVec 1)
  /-- VIMAX, R162. -/
  | vimax (t e : BitVec 3) (y : BitVec 2) (d a b : BitVec 5) (f : BitVec 1)
  /-- VCMP, R163. -/
  | vcmp (t : BitVec 3) (y : BitVec 2) (c : BitVec 3) (m : BitVec 2) (a b : BitVec 5) (f : BitVec 1)
  /-- VSEL, R164. -/
  | vsel (t e : BitVec 3) (k : BitVec 2) (d a b : BitVec 5)
  /-- VCQ_ANY, R166. -/
  | vcqAny (t : BitVec 3) (m : BitVec 2)
  /-- VCQ_ALL, R166. -/
  | vcqAll (t : BitVec 3) (m : BitVec 2)
  /-- VMSK_AND, R165. -/
  | vmskAnd (t : BitVec 3) (d a b : BitVec 2)
  /-- VMSK_OR, R165. -/
  | vmskOr (t : BitVec 3) (d a b : BitVec 2)
  /-- VMSK_XOR, R165. -/
  | vmskXor (t : BitVec 3) (d a b : BitVec 2)
  /-- VMSK_ANDN, R165. -/
  | vmskAndn (t : BitVec 3) (d a b : BitVec 2)
  /-- VMSK_NOT, R165. -/
  | vmskNot (t : BitVec 3) (d a : BitVec 2)
  /-- VMSK_SET, R165. -/
  | vmskSet (t : BitVec 3) (d : BitVec 2)
  /-- VMSK_CLR, R165. -/
  | vmskClr (t : BitVec 3) (d : BitVec 2)
  /-- VMOV, R167. -/
  | vmov (t e : BitVec 3) (d a : BitVec 5)
  /-- VMOVI, R167. -/
  | vmovi (t e : BitVec 3) (w : BitVec 2) (d : BitVec 5) (i : BitVec 11)
  /-- VWIN, R178. -/
  | vwin (t n : BitVec 3)
  /-- VWAIT, R179. -/
  | vwait (t m : BitVec 3)
  /-- VSIG, R179. -/
  | vsig (t m : BitVec 3)
  /-- VNOP, R179. -/
  | vnop (t : BitVec 3)
  /-- VCVT, R170. -/
  | vcvt (t e : BitVec 3) (y : BitVec 2) (d a v : BitVec 5) (f : BitVec 1)
  /-- VPACK, R171. -/
  | vpack (t e : BitVec 3) (y : BitVec 2) (d a : BitVec 5) (f : BitVec 4)
  /-- VUNPK, R172. -/
  | vunpk (t e : BitVec 3) (y : BitVec 2) (d a : BitVec 5) (f : BitVec 4)
  /-- VRSUM, R173. -/
  | vrsum (t e : BitVec 3) (y : BitVec 2) (d a : BitVec 5) (f : BitVec 1)
  /-- VRMAX, R173. -/
  | vrmax (t e : BitVec 3) (y : BitVec 2) (d a : BitVec 5) (f : BitVec 1)
  /-- VRMIN, R173. -/
  | vrmin (t e : BitVec 3) (y : BitVec 2) (d a : BitVec 5) (f : BitVec 1)
  /-- VPERM, R167. -/
  | vperm (t e : BitVec 3) (d a i : BitVec 5)
  /-- VBCAST, R167. -/
  | vbcast (t e : BitVec 3) (w : BitVec 2) (d a i : BitVec 5)
  /-- VSLIDE, R167. -/
  | vslide (t e : BitVec 3) (d a : BitVec 5) (n : BitVec 8)
  /-- VIOTA, R167. -/
  | viota (t e : BitVec 3) (w : BitVec 2) (d : BitVec 5)
  /-- VSLD, R174. -/
  | vsld (t e : BitVec 3) (d : BitVec 5) (q : BitVec 4) (r : BitVec 5)
  /-- VSST, R174. -/
  | vsst (t e : BitVec 3) (d : BitVec 5) (q : BitVec 4) (r : BitVec 5)
  /-- VGATH, R175. -/
  | vgath (t e : BitVec 3) (d i : BitVec 5) (q : BitVec 4)
  /-- VSCAT, R175. -/
  | vscat (t e : BitVec 3) (d i : BitVec 5) (q : BitVec 4)
  /-- VPART, R176. -/
  | vpart (t : BitVec 3) (k : BitVec 2) (d : BitVec 4) (i : BitVec 5)
  /-- VXS, R168. -/
  | vxs (t : BitVec 3) (w : BitVec 2) (d : BitVec 6) (a : BitVec 5)
  /-- VXS_PART, R168. -/
  | vxsPart (t : BitVec 3) (d : BitVec 6)
  /-- VSX, R167. -/
  | vsx (t e : BitVec 3) (w : BitVec 2) (d : BitVec 5) (a : BitVec 6)
  /-- MMA, R106. -/
  | mma (t : BitVec 3) (c : BitVec 7) (a b : BitVec 4) (n m e s : BitVec 1)
  /-- MMAS_N4, R112. -/
  | mmasN4 (t : BitVec 3) (c : BitVec 7) (a b : BitVec 4) (n m e s : BitVec 1)
  /-- MMAS_N8, R112. -/
  | mmasN8 (t : BitVec 3) (c : BitVec 7) (a b : BitVec 4) (n m e s : BitVec 1)
  /-- MZERO, R113. -/
  | mzero (t : BitVec 3) (c : BitVec 7) (k : BitVec 4)
  /-- MLOAD, R114. -/
  | mload (t : BitVec 3) (c : BitVec 7) (a : BitVec 4)
  /-- MOUT, R115. -/
  | mout (t : BitVec 3) (c : BitVec 7) (a : BitVec 4) (s : BitVec 1) (y : BitVec 2)
  /-- MCOPY, R116. -/
  | mcopy (t : BitVec 3) (c s : BitVec 7) (y : BitVec 1)
  /-- MADD, R117. -/
  | madd (t : BitVec 3) (c s : BitVec 7) (n u : BitVec 1) (y : BitVec 2)
  /-- MBIAS, R118. -/
  | mbias (t : BitVec 3) (c : BitVec 7) (a : BitVec 4) (n l u : BitVec 1) (y : BitVec 2)
  /-- MSCALE, R118. -/
  | mscale (t : BitVec 3) (c : BitVec 7) (a : BitVec 4) (n l : BitVec 1) (y : BitVec 2)
  /-- MWAIT, R119. -/
  | mwait (t k : BitVec 3)
  /-- MSIG, R119. -/
  | msig (t k : BitVec 3)
  /-- MNOP, R120. -/
  | mnop (t : BitVec 3)
  /-- XMOV, R224. -/
  | xmov (t : BitVec 3) (s d : BitVec 4) (q r : BitVec 1) (c : BitVec 2) (b : BitVec 1) (g : BitVec 3)
  /-- XGATH, R224. -/
  | xgath (t : BitVec 3) (s d : BitVec 4) (q r : BitVec 1) (c : BitVec 2) (b : BitVec 1) (g : BitVec 3) (i : BitVec 4)
  /-- XSCAT, R224. -/
  | xscat (t : BitVec 3) (s d : BitVec 4) (q r : BitVec 1) (c : BitVec 2) (b : BitVec 1) (g : BitVec 3) (i : BitVec 4)
  /-- XSET, R224. -/
  | xset (t : BitVec 3) (s d : BitVec 4) (q r : BitVec 1) (c : BitVec 2) (b : BitVec 1) (g : BitVec 3)
  /-- XRED, R225. -/
  | xred (t : BitVec 3) (s d : BitVec 4) (q r : BitVec 1) (c : BitVec 2) (b : BitVec 1) (g o : BitVec 3)
  /-- XFILL, R226. -/
  | xfill (t : BitVec 3) (n : BitVec 6) (q r : BitVec 1) (c : BitVec 2) (b : BitVec 1) (g : BitVec 3)
  /-- XDRAIN, R226. -/
  | xdrain (t : BitVec 3) (n : BitVec 6) (q r : BitVec 1) (c : BitVec 2) (b : BitVec 1) (g : BitVec 3)
  /-- XSYNC, R227. -/
  | xsync (t : BitVec 3) (q r : BitVec 1) (c : BitVec 2)
  /-- XWAIT, R227. -/
  | xwait (t k : BitVec 3)
  /-- XSIG, R227. -/
  | xsig (t k : BitVec 3)
  /-- XNOP, R227. -/
  | xnop (t : BitVec 3)
  /-- PHASE_COMPLETE, R239. -/
  | phaseComplete (g : BitVec 3)
  /-- BARRIER_RELEASE, R239. -/
  | barrierRelease (g : BitVec 3)
  /-- PATH_ENTRY_POP, R20. -/
  | pathEntryPop (e : Engine)
  /-- WATCHDOG, R22. -/
  | watchdog (e : Engine)
  /-- RESTORE, R198. -/
  | restore (rcb : Nat)
  /-- DISPATCH, R277. -/
  | dispatch (rcb : Nat)
  /-- REGION_COMPLETE, R272. -/
  | regionComplete (rcb : Nat)
  /-- PRIORITY_PREEMPT_WAIT, R281. -/
  | priorityPreemptWait (rcb : Nat)
  /-- POLICY_CHECK, R303. -/
  | policyCheck (slot : Nat)
  /-- JOIN, R300. -/
  | join (slot : Nat)
  /-- REMOTE_WRITE_APPLY, R251. -/
  | remoteWriteApply (die : Nat)
  /-- RILL_LINK_DOWN, R333. -/
  | rillLinkDown (link : Nat)
  /-- DIE_ISOLATION_STOP, R334. -/
  | dieIsolationStop (die : Nat)
  /-- ISOLATION_CONFIRM, R334. -/
  | isolationConfirm (die : Nat)
  /-- INSTRUCTION_FETCH, R140. -/
  | instructionFetch (va : Word)
  /-- ATOMICOP_COMPLETION, R309. -/
  | atomicopCompletion (c : Nat) (answer : AtomicAnswer)
  /-- PRI_RESPONSE, R212. -/
  | priResponse (c : Nat) (page : Option Page)
  /-- REVOCATION, R215. -/
  | revocation (pasid : BitVec 20) (va : Nat)
  /-- PAGE_MOVE_REQUEST, R229. -/
  | pageMoveRequest (pasid : BitVec 20) (va frame : Nat)
  /-- START, R299. -/
  | start (slot : Nat) (gate : Bool) (seq : BitVec 32)
  /-- ABORT, R302. -/
  | abort (slot : Nat) (seq : BitVec 32)
  /-- SIGNAL, R301. -/
  | signal (slot : Nat) (seq : BitVec 32)
  /-- CCB_NOOP, R298. -/
  | ccbNoop (slot : Nat) (seq : BitVec 32)
  /-- CCB_RESERVED_OP, R299. -/
  | ccbReservedOp (slot : Nat) (code : BitVec 4) (seq : BitVec 32)
  /-- QUERY, R300. -/
  | query (slot : Nat)
  /-- REGCCB, R296. -/
  | regccb (seq : BitVec 32) (a0 a1 a2 a3 : Word)
  /-- UNREGCCB, R296. -/
  | unregccb (seq : BitVec 32) (a0 a1 a2 a3 : Word)
  /-- SETSEGTAB, R296. -/
  | setsegtab (seq : BitVec 32) (a0 a1 a2 a3 : Word)
  /-- REGSEG, R296. -/
  | regseg (seq : BitVec 32) (a0 a1 a2 a3 : Word)
  /-- BUMPGEN, R296. -/
  | bumpgen (seq : BitVec 32) (a0 a1 a2 a3 : Word)
  /-- DECLWIN, R296. -/
  | declwin (seq : BitVec 32) (a0 a1 a2 a3 : Word)
  /-- PEERAP, R296. -/
  | peerap (seq : BitVec 32) (a0 a1 a2 a3 : Word)
  /-- SETPLANE, R296. -/
  | setplane (seq : BitVec 32) (a0 a1 a2 a3 : Word)
  /-- PLANEALLOC, R296. -/
  | planealloc (seq : BitVec 32) (a0 a1 a2 a3 : Word)
  /-- PLANEFREE, R296. -/
  | planefree (seq : BitVec 32) (a0 a1 a2 a3 : Word)
  /-- DCMD_RESERVED_OP, R296. -/
  | dcmdReservedOp (code : BitVec 8) (seq : BitVec 32) (a0 a1 a2 a3 : Word)
  /-- HOST_MEMORY_WRITE, R307. -/
  | hostMemoryWrite (addr : Nat) (data : List Byte)
  /-- MSIX_VECTOR_UNMASK, R305. -/
  | msixVectorUnmask (vec : Nat)
  /-- RILL_LINK_RETRAINING, R333. -/
  | rillLinkRetraining (link : Nat)
  /-- RILL_LINK_UP, R333. -/
  | rillLinkUp (link : Nat)
  /-- DIE_THROTTLE, R305. -/
  | dieThrottle (die : Nat) (begins : Bool)
  /-- SEMGET, R336. -/
  | semget (port : Port) (lease : Nat)
  /-- SEMPUT, R335. -/
  | semput (port : Port)
  /-- DEBUG, R335. -/
  | debug (port : Port) (c : Nat)
  /-- RESET, R335. -/
  | reset (port : Port)
  /-- FLIT_RECEIVE, R310. -/
  | flitReceive (link : Nat) (seq ackd : BitVec 12) (crc : FlitCheck) (packets : List Packet)
  /-- READ, R311. -/
  | read (req tag : BitVec 8) (addr : Word) (len : Nat)
  /-- READDATA, R311. -/
  | readdata (tag : BitVec 8) (data : List Byte) (poison : Bool)
  /-- WRITE, R311. -/
  | write (req tag : BitVec 8) (addr : Word) (mask : List Bool) (data : List Byte) (scope : BitVec 2)
  /-- OP, R312. -/
  | op (req tag : BitVec 8) (addr : Word) (operation : AmoOp) (wide : Bool) (x y : Word) (acq rel : Bool)
  /-- OPDATA, R312. -/
  | opdata (tag : BitVec 8) (old : Word) (status : BitVec 8)
  /-- ACK, R311. -/
  | ack (tag status : BitVec 8)
  /-- PEER_LINK_FAIL, R313. -/
  | peerLinkFail (link : Nat)
  /-- GETENUM, R335. -/
  | getenum (port : Port)
  /-- GETCOUNTERS, R340. -/
  | getcounters (port : Port)
  /-- IMAGESTAGE, R335. -/
  | imagestage (port : Port) (offset : Nat) (data : List Byte)
  /-- IMAGECOMMIT, R337. -/
  | imagecommit (port : Port) (kind : ImageKind)
  /-- KEYINSTALL, R331. -/
  | keyinstall (port : Port) (secured : Bool) (slot : Nat) (key : BitVec 512)
  /-- KEYDESTROY, R332. -/
  | keydestroy (port : Port) (secured : Bool) (slot : Nat)
  /-- SETPOLICY, R335. -/
  | setpolicy (port : Port) (ranges : List Tolerant) (undoMib : Nat)
  /-- GET_MEASUREMENTS, R338. -/
  | getMeasurements (index : Nat)
  /-- TRAINING_COMPLETE, R339. -/
  | trainingComplete (failedDies failedLinks : List Nat)
  /-- CALLK_RETIRE, R143. -/
  | callkRetire
  /-- NEST_CYCLE, R88. -/
  | nestCycle
  /-- NEST_EXIT, R95. -/
  | nestExit
  /-- LOAD_DATA_RETURN, R219. -/
  | loadDataReturn
  /-- XLAT_RETIRE, R212. -/
  | xlatRetire
  /-- FENCE_RETIRE, R255. -/
  | fenceRetire
  /-- ARRIVAL_REGISTER, R238. -/
  | arrivalRegister
  /-- PLANE_STORE_SETTLE, R236. -/
  | planeStoreSettle
  /-- MULDIV_RESULT, R131. -/
  | muldivResult
  /-- V_RESULT_LAND, R155. -/
  | vResultLand
  /-- CONDITION_PUSH_DEFERRED, R27. -/
  | conditionPushDeferred
  /-- PENDING_TOKEN_PUSH, R25. -/
  | pendingTokenPush
  /-- M_WORD_COMPLETE, R98. -/
  | mWordComplete
  /-- X_CHUNK, R224. -/
  | xChunk
  /-- X_COMMAND_COMPLETE, R222. -/
  | xCommandComplete
  /-- TIMER, R122. -/
  | timer
  /-- INTERRUPT_TAKE, R123. -/
  | interruptTake
  /-- TRAP_ENTRY, R182. -/
  | trapEntry
  /-- REPLAY_ENTRY_LAND, R126. -/
  | replayEntryLand
  /-- FATAL_ERROR, R192. -/
  | fatalError
  /-- PAUSE_HOLD_END, R150. -/
  | pauseHoldEnd
  /-- HALT_RETIRE, R18. -/
  | haltRetire
  /-- PREEMPTION, R194. -/
  | preemption
  /-- FAIRNESS_PERIOD, R280. -/
  | fairnessPeriod
  /-- ATOMICOP_REQUEST, R306. -/
  | atomicopRequest
  /-- LAZY_RELEASE_FLUSH, R252. -/
  | lazyReleaseFlush
  /-- SEMAPHORE_LEASE_EXPIRY, R336. -/
  | semaphoreLeaseExpiry
  /-- DEVICE_RESET, R41. -/
  | deviceReset
  /-- POWER_ON, R339. -/
  | powerOn
  /-- COUNTER_PERSIST, R340. -/
  | counterPersist
  /-- TRANSLATION_WALK_COMPLETE, R212. -/
  | translationWalkComplete
  /-- CFENCE_RETIRE, R257. -/
  | cfenceRetire
  /-- STL_RETIRE, R252. -/
  | stlRetire
  /-- SLUICE_OR_HOME_ANSWER, R284. -/
  | sluiceOrHomeAnswer
  /-- POWER_LOSS, R340. -/
  | powerLoss
  deriving DecidableEq, Repr

end Sys2Proof
end

