-- ==== Sys2Proof/WellFormed.lean ====
section
/-! DEFINITION. Well-formedness: which operand values an instruction word may carry (spec/02 R33 to R37
and the reserved values of the instruction chapters), and the ranges of the operands of the other steps. -/
namespace Sys2Proof

/-- tok 0b100 is reserved (R24). -/
def tokOk (t : BitVec 3) : Bool := t ≠ 4

/-- Assigned control register numbers (R146). -/
def crReadable (n : Nat) : Bool := n ≤ 0x0E || n = 0x10 || n = 0x11

/-- Control registers that the general CRW row writes: FPMODE and TVEC. SLIP, FPFLAGS, TIMER and IEN have
rows of their own; every other number is unassigned or read-only (R121, R145, R146). -/
def crPlainWritable (n : Nat) : Bool := n = 0x05 || n = 0x08

/-- The conditions VCMP accepts, by `f` (R163). -/
def vcmpOk (c : BitVec 3) (f : BitVec 1) : Bool :=
  if f = 0 then c.toNat ≤ 3 || c = 6 else c.toNat ≤ 5

/-- The element format code (R42) of an integer typ. -/
def intFmt (y : BitVec 2) : Nat :=
  match y.toNat with
  | 0 => 4
  | 1 => 5
  | 2 => 6
  | _ => 8

/-- The conversions VCVT accepts (R67). -/
def vcvtOk (y : BitVec 2) (v : BitVec 5) (f : BitVec 1) : Bool :=
  let dst := v.toNat % 16
  let isInt := v.getLsbD 4
  let src := if isInt then intFmt y else y.toNat
  let floatDst := dst ≤ 3 || dst = 10 || dst = 11
  dst ≤ 11 && dst ≠ src && !(!isInt && floatDst && f = 1)

/-- The formats and destination types VUNPK accepts (R172). -/
def vunpkOk (y : BitVec 2) (f : BitVec 4) : Bool :=
  match f.toNat with
  | 7 => y ≠ 2
  | 9 | 10 | 11 | 12 | 13 | 14 => true
  | _ => false

/-- The type field of MOUT, MADD and MBIAS: 3 is reserved and a pair must be even (R103). -/
def accTypeOk (y : BitVec 2) (c : BitVec 7) : Bool := y ≠ 3 && (y ≠ 2 || c.getLsbD 0 = false)

/-- acq, rel, scope, bar and tag of a copying command (R223). -/
def xcOk (q r : BitVec 1) (c : BitVec 2) (b : BitVec 1) (g : BitVec 3) : Bool :=
  ((q = 1 || r = 1) || c = 0) && (b = 1 || g = 0)

/-- What R37 leaves to the operand values of a word, and the ranges of the other steps' operands. -/
def Instr.wellFormed : Instr → Bool
  | .add t _ _ _ => tokOk t
  | .sub t _ _ _ => tokOk t
  | .and t _ _ _ => tokOk t
  | .or t _ _ _ => tokOk t
  | .xor t _ _ _ => tokOk t
  | .shl t _ _ _ => tokOk t
  | .shr t _ _ _ => tokOk t
  | .sra t _ _ _ => tokOk t
  | .mul t _ _ _ => tokOk t
  | .mulh t _ _ _ => tokOk t
  | .mulhu t _ _ _ => tokOk t
  | .div t _ _ _ => tokOk t
  | .divu t _ _ _ => tokOk t
  | .rem t _ _ _ => tokOk t
  | .remu t _ _ _ => tokOk t
  | .min t _ _ _ => tokOk t
  | .max t _ _ _ => tokOk t
  | .minu t _ _ _ => tokOk t
  | .maxu t _ _ _ => tokOk t
  | .slt t _ _ _ => tokOk t
  | .sltu t _ _ _ => tokOk t
  | .ceq t _ _ => tokOk t
  | .cne t _ _ => tokOk t
  | .clt t _ _ => tokOk t
  | .cge t _ _ => tokOk t
  | .cltu t _ _ => tokOk t
  | .cgeu t _ _ => tokOk t
  | .addi t _ _ _ => tokOk t
  | .andi t _ _ _ => tokOk t
  | .ori t _ _ _ => tokOk t
  | .xori t _ _ _ => tokOk t
  | .shli t _ _ _ => tokOk t
  | .shri t _ _ _ => tokOk t
  | .srai t _ _ _ => tokOk t
  | .ceqi t _ _ => tokOk t
  | .clti t _ _ => tokOk t
  | .lui t _ _ => tokOk t
  | .lsh t _ _ => tokOk t
  | .addpc t _ _ => tokOk t
  | .bcq t _ => tokOk t
  | .bcqn t _ => tokOk t
  | .jmp t _ => tokOk t
  | .call t _ => tokOk t
  | .jr t _ => tokOk t
  | .callr t _ => tokOk t
  | .callk t _ _ => tokOk t
  | .crr t _ n => tokOk t && crReadable n.toNat
  | .crw t _ n => tokOk t && crPlainWritable n.toNat
  | .crwTimer t _ => tokOk t
  | .crwSlip t _ => tokOk t
  | .crwFpflags t _ => tokOk t
  | .crwIen t _ => tokOk t
  | .trap t _ => tokOk t
  | .nop t => tokOk t
  | .tret t => tokOk t
  | .halt t => tokOk t && decide (t.toNat < 4)
  | .pause t => tokOk t
  | .twait t m => tokOk t && decide (m ≠ 0)
  | .tsig t m => tokOk t && decide (m ≠ 0)
  | .scfg t _ _ f => tokOk t && decide (f.toNat ≤ 17)
  | .ncfg t _ l => tokOk t && decide (l.toNat ≤ 5)
  | .nmaskFirst t _ l => tokOk t && decide (l.toNat ≤ 5)
  | .nmaskLast t _ l => tokOk t && decide (l.toNat ≤ 5)
  | .nest t _ _ _ => tokOk t
  | .ldb t _ _ _ _ => tokOk t
  | .ldbu t _ _ _ _ => tokOk t
  | .ldh t _ _ _ _ => tokOk t
  | .ldhu t _ _ _ _ => tokOk t
  | .ldw t _ _ _ _ => tokOk t
  | .ldwu t _ _ _ _ => tokOk t
  | .ldd t _ _ _ _ => tokOk t
  | .stb t _ _ _ _ => tokOk t
  | .sth t _ _ _ _ => tokOk t
  | .stw t _ _ _ _ => tokOk t
  | .std t _ _ _ _ => tokOk t
  | .lds t _ _ _ => tokOk t
  | .sts t _ _ _ => tokOk t
  | .lda t _ _ _ _ _ _ => tokOk t
  | .stl t _ _ _ _ _ _ => tokOk t
  | .amoadd t _ _ _ _ _ _ => tokOk t
  | .amoswp t _ _ _ _ _ _ => tokOk t
  | .amocas t _ _ _ _ _ _ => tokOk t
  | .amomin t _ _ _ _ _ _ => tokOk t
  | .amomax t _ _ _ _ _ _ => tokOk t
  | .amominu t _ _ _ _ _ _ => tokOk t
  | .amomaxu t _ _ _ _ _ _ => tokOk t
  | .amoand t _ _ _ _ _ _ => tokOk t
  | .amoor t _ _ _ _ _ _ => tokOk t
  | .amoxor t _ _ _ _ _ _ => tokOk t
  | .xlatR t _ _ _ => tokOk t
  | .xlatRw t _ _ _ => tokOk t
  | .xlatRwa t _ _ _ => tokOk t
  | .probe t _ _ _ _ => tokOk t
  | .trel t _ => tokOk t
  | .tstat t _ _ => tokOk t
  | .tclean t _ => tokOk t
  | .tdirty t _ => tokOk t
  | .hrel t _ => tokOk t
  | .hqry t _ _ => tokOk t
  | .fence t _ => tokOk t
  | .cfence t _ _ _ => tokOk t
  | .bar t _ => tokOk t
  | .bara t _ _ => tokOk t
  | .barw t _ => tokOk t
  | .barq t _ _ => tokOk t
  | .step t _ => tokOk t
  | .stwp t _ _ _ _ => tokOk t
  | .qpush t _ => tokOk t
  | .qpop t _ _ => tokOk t
  | .qsteal t _ _ => tokOk t
  | .qlen t _ => tokOk t
  | .wnext t _ => tokOk t
  | .rspawn t _ _ => tokOk t
  | .tsyncJoin t _ _ _ => tokOk t
  | .tsyncArrive t _ _ _ => tokOk t
  | .vadd t _ _ _ _ _ => tokOk t
  | .vsub t _ _ _ _ _ => tokOk t
  | .vmul t _ _ _ _ _ => tokOk t
  | .vfma t _ _ _ _ _ => tokOk t
  | .vfms t _ _ _ _ _ => tokOk t
  | .vfnma t _ _ _ _ _ => tokOk t
  | .vmin t _ _ _ _ _ => tokOk t
  | .vmax t _ _ _ _ _ => tokOk t
  | .vabs t _ _ _ _ => tokOk t
  | .vneg t _ _ _ _ => tokOk t
  | .vrcp t _ _ _ => tokOk t
  | .vrsq t _ _ _ => tokOk t
  | .vex2 t _ _ _ => tokOk t
  | .vlg2 t _ _ _ => tokOk t
  | .viadd t _ _ _ _ _ _ => tokOk t
  | .visub t _ _ _ _ _ _ => tokOk t
  | .vimul t _ _ _ _ _ => tokOk t
  | .vimad t _ _ _ _ _ => tokOk t
  | .vand t _ _ _ _ _ => tokOk t
  | .vor t _ _ _ _ _ => tokOk t
  | .vxor t _ _ _ _ _ => tokOk t
  | .vshl t _ _ _ _ _ => tokOk t
  | .vshr t _ _ _ _ _ => tokOk t
  | .vsra t _ _ _ _ _ => tokOk t
  | .vimin t _ _ _ _ _ _ => tokOk t
  | .vimax t _ _ _ _ _ _ => tokOk t
  | .vcmp t _ c _ _ _ f => tokOk t && vcmpOk c f
  | .vsel t _ _ _ _ _ => tokOk t
  | .vcqAny t _ => tokOk t
  | .vcqAll t _ => tokOk t
  | .vmskAnd t _ _ _ => tokOk t
  | .vmskOr t _ _ _ => tokOk t
  | .vmskXor t _ _ _ => tokOk t
  | .vmskAndn t _ _ _ => tokOk t
  | .vmskNot t _ _ => tokOk t
  | .vmskSet t _ => tokOk t
  | .vmskClr t _ => tokOk t
  | .vmov t _ _ _ => tokOk t
  | .vmovi t _ _ _ _ => tokOk t
  | .vwin t _ => tokOk t
  | .vwait t m => tokOk t && decide (m ≠ 0)
  | .vsig t m => tokOk t && decide (m ≠ 0)
  | .vnop t => tokOk t
  | .vcvt t _ y _ _ v f => tokOk t && vcvtOk y v f
  | .vpack t _ _ _ _ f => tokOk t && decide (12 ≤ f.toNat ∧ f.toNat ≤ 14)
  | .vunpk t _ y _ _ f => tokOk t && vunpkOk y f
  | .vrsum t _ _ _ _ _ => tokOk t
  | .vrmax t _ _ _ _ _ => tokOk t
  | .vrmin t _ _ _ _ _ => tokOk t
  | .vperm t _ _ _ _ => tokOk t
  | .vbcast t _ _ _ _ _ => tokOk t
  | .vslide t _ _ _ _ => tokOk t
  | .viota t _ _ _ => tokOk t
  | .vsld t _ _ _ _ => tokOk t
  | .vsst t _ _ _ _ => tokOk t
  | .vgath t _ _ _ _ => tokOk t
  | .vscat t _ _ _ _ => tokOk t
  | .vpart t _ _ _ => tokOk t
  | .vxs t _ _ _ => tokOk t
  | .vxsPart t _ => tokOk t
  | .vsx t _ _ _ _ => tokOk t
  | .mma t _ _ _ _ _ _ _ => tokOk t
  | .mmasN4 t _ _ _ _ _ _ _ => tokOk t
  | .mmasN8 t _ _ _ _ _ _ _ => tokOk t
  | .mzero t _ _ => tokOk t
  | .mload t _ _ => tokOk t
  | .mout t c _ _ y => tokOk t && accTypeOk y c
  | .mcopy t c s y => tokOk t && decide (y = 1 → c.getLsbD 0 = false ∧ s.getLsbD 0 = false)
  | .madd t c s _ _ y => tokOk t && accTypeOk y c && accTypeOk y s
  | .mbias t c _ _ _ _ y => tokOk t && accTypeOk y c
  | .mscale t c _ _ _ y => tokOk t && decide (y ≠ 1 ∧ accTypeOk y c)
  | .mwait t k => tokOk t && decide (k ≠ 0)
  | .msig t k => tokOk t && decide (k ≠ 0)
  | .mnop t => tokOk t
  | .xmov t _ _ q r c b g => tokOk t && xcOk q r c b g
  | .xgath t _ _ q r c b g _ => tokOk t && xcOk q r c b g
  | .xscat t _ _ q r c b g _ => tokOk t && xcOk q r c b g
  | .xset t _ _ q r c b g => tokOk t && xcOk q r c b g
  | .xred t _ _ q r c b g _ => tokOk t && xcOk q r c b g
  | .xfill t _ q r c b g => tokOk t && xcOk q r c b g
  | .xdrain t _ q r c b g => tokOk t && xcOk q r c b g
  | .xsync t q r c => tokOk t && xcOk q r c 0 0
  | .xwait t k => tokOk t && decide (k ≠ 0)
  | .xsig t k => tokOk t && decide (k ≠ 0)
  | .xnop t => tokOk t
  | .callkRetire => true
  | .nestCycle => true
  | .nestExit => true
  | .loadDataReturn => true
  | .atomicopCompletion _ _ => true
  | .priResponse _ _ => true
  | .xlatRetire => true
  | .fenceRetire => true
  | .arrivalRegister => true
  | .phaseComplete _ => true
  | .barrierRelease _ => true
  | .planeStoreSettle => true
  | .muldivResult => true
  | .vResultLand => true
  | .conditionPushDeferred => true
  | .pendingTokenPush => true
  | .pathEntryPop _ => true
  | .mWordComplete => true
  | .xChunk => true
  | .xCommandComplete => true
  | .revocation _ _ => true
  | .pageMoveRequest _ _ _ => true
  | .timer => true
  | .interruptTake => true
  | .trapEntry => true
  | .replayEntryLand => true
  | .fatalError => true
  | .watchdog _ => true
  | .pauseHoldEnd => true
  | .haltRetire => true
  | .preemption => true
  | .restore _ => true
  | .dispatch _ => true
  | .regionComplete _ => true
  | .fairnessPeriod => true
  | .priorityPreemptWait _ => true
  | .policyCheck slot => decide (slot < 4096)
  | .start slot _ _ => decide (slot < 4096)
  | .abort slot _ => decide (slot < 4096)
  | .signal slot _ => decide (slot < 4096)
  | .ccbNoop slot _ => decide (slot < 4096)
  | .ccbReservedOp slot code _ => decide (slot < 4096 ∧ 4 ≤ code.toNat)
  | .query slot => decide (slot < 4096)
  | .join slot => decide (slot < 4096)
  | .regccb _ _ _ _ _ => true
  | .unregccb _ _ _ _ _ => true
  | .setsegtab _ _ _ _ _ => true
  | .regseg _ _ _ _ _ => true
  | .bumpgen _ _ _ _ _ => true
  | .declwin _ _ _ _ _ => true
  | .peerap _ _ _ _ _ => true
  | .setplane _ _ _ _ _ => true
  | .planealloc _ _ _ _ _ => true
  | .planefree _ _ _ _ _ => true
  | .dcmdReservedOp code _ _ _ _ _ => decide (code = 0 ∨ 10 < code.toNat)
  | .hostMemoryWrite _ _ => true
  | .atomicopRequest => true
  | .msixVectorUnmask vec => decide (vec < 2048)
  | .remoteWriteApply die => decide (die < 8)
  | .lazyReleaseFlush => true
  | .flitReceive link _ _ _ _ => decide (link < 12)
  | .read _ _ _ len => decide (len ≤ 64)
  | .readdata _ _ _ => true
  | .write _ _ _ mask data _ => decide (mask.length = data.length ∧ data.length ≤ 64)
  | .op _ _ _ _ _ _ _ _ _ => true
  | .opdata _ _ _ => true
  | .ack _ _ => true
  | .peerLinkFail link => decide (link < 12)
  | .rillLinkRetraining link => decide (link < 10)
  | .rillLinkDown link => decide (link < 10)
  | .rillLinkUp link => decide (link < 10)
  | .dieIsolationStop die => decide (die < 8)
  | .isolationConfirm die => decide (die < 8)
  | .dieThrottle die _ => decide (die < 8)
  | .semget _ _ => true
  | .semput _ => true
  | .semaphoreLeaseExpiry => true
  | .getenum _ => true
  | .getcounters _ => true
  | .imagestage _ _ _ => true
  | .imagecommit _ _ => true
  | .keyinstall _ _ _ _ => true
  | .keydestroy _ _ _ => true
  | .setpolicy _ _ _ => true
  | .debug _ _ => true
  | .reset _ => true
  | .getMeasurements _ => true
  | .deviceReset => true
  | .powerOn => true
  | .trainingComplete _ _ => true
  | .counterPersist => true
  | .translationWalkComplete => true
  | .cfenceRetire => true
  | .stlRetire => true
  | .sluiceOrHomeAnswer => true
  | .instructionFetch _ => true
  | .powerLoss => true

end Sys2Proof
end

