-- ==== Sys2Proof/Decode.lean ====
section
/-! DEFINITION. The decoder, total on every word and list of bytes, which rejects by name, and the
encoder, both from the field tables of spec/02 R14, R31 to R37 and the encodings of the instruction
chapters. The steps of the opcode table that have no encoding have no word. -/
namespace Sys2Proof

/-- Why a word is no instruction (R37). -/
inductive Reject where
  /-- an op the engine's map reserves -/
  | reservedOp
  /-- a reserved function, or a nonzero res0 field -/
  | reservedField
  /-- tok 0b100, or a reserved operand value -/
  | reservedValue
  /-- fewer than four bytes -/
  | short
  deriving DecidableEq, Repr

/-- Bits [lo+n-1:lo] of a word (R4). -/
def fld (w : W32) (lo n : Nat) : BitVec n := w.extractLsb' lo n

/-- The engine a word is tagged for (R14). -/
def wordEngine (w : W32) : Engine :=
  match (fld w 30 2).toNat with
  | 0 => .s
  | 1 => .v
  | 2 => .m
  | _ => .x

/-- The op field (R14). -/
def wordOp (w : W32) : Nat := (fld w 21 6).toNat

/-- The tok field (R14, R24). -/
def wordTok (w : W32) : BitVec 3 := fld w 27 3

/-- The S opcode map: the row of a word by op and fixed fields (R33). -/
def decodeS (w : W32) : Except Reject Instr :=
  match wordOp w with
  | 0x01 =>
    if fld w 0 3 = 0 then .ok (.add (fld w 27 3) (fld w 15 6) (fld w 9 6) (fld w 3 6))
    else if fld w 0 3 = 1 then .ok (.sub (fld w 27 3) (fld w 15 6) (fld w 9 6) (fld w 3 6))
    else if fld w 0 3 = 2 then .ok (.and (fld w 27 3) (fld w 15 6) (fld w 9 6) (fld w 3 6))
    else if fld w 0 3 = 3 then .ok (.or (fld w 27 3) (fld w 15 6) (fld w 9 6) (fld w 3 6))
    else if fld w 0 3 = 4 then .ok (.xor (fld w 27 3) (fld w 15 6) (fld w 9 6) (fld w 3 6))
    else if fld w 0 3 = 5 then .ok (.shl (fld w 27 3) (fld w 15 6) (fld w 9 6) (fld w 3 6))
    else if fld w 0 3 = 6 then .ok (.shr (fld w 27 3) (fld w 15 6) (fld w 9 6) (fld w 3 6))
    else if fld w 0 3 = 7 then .ok (.sra (fld w 27 3) (fld w 15 6) (fld w 9 6) (fld w 3 6))
    else .error .reservedField
  | 0x02 =>
    if fld w 0 3 = 0 then .ok (.mul (fld w 27 3) (fld w 15 6) (fld w 9 6) (fld w 3 6))
    else if fld w 0 3 = 1 then .ok (.mulh (fld w 27 3) (fld w 15 6) (fld w 9 6) (fld w 3 6))
    else if fld w 0 3 = 2 then .ok (.mulhu (fld w 27 3) (fld w 15 6) (fld w 9 6) (fld w 3 6))
    else if fld w 0 3 = 3 then .ok (.div (fld w 27 3) (fld w 15 6) (fld w 9 6) (fld w 3 6))
    else if fld w 0 3 = 4 then .ok (.divu (fld w 27 3) (fld w 15 6) (fld w 9 6) (fld w 3 6))
    else if fld w 0 3 = 5 then .ok (.rem (fld w 27 3) (fld w 15 6) (fld w 9 6) (fld w 3 6))
    else if fld w 0 3 = 6 then .ok (.remu (fld w 27 3) (fld w 15 6) (fld w 9 6) (fld w 3 6))
    else .error .reservedField
  | 0x03 =>
    if fld w 0 3 = 0 then .ok (.min (fld w 27 3) (fld w 15 6) (fld w 9 6) (fld w 3 6))
    else if fld w 0 3 = 1 then .ok (.max (fld w 27 3) (fld w 15 6) (fld w 9 6) (fld w 3 6))
    else if fld w 0 3 = 2 then .ok (.minu (fld w 27 3) (fld w 15 6) (fld w 9 6) (fld w 3 6))
    else if fld w 0 3 = 3 then .ok (.maxu (fld w 27 3) (fld w 15 6) (fld w 9 6) (fld w 3 6))
    else if fld w 0 3 = 4 then .ok (.slt (fld w 27 3) (fld w 15 6) (fld w 9 6) (fld w 3 6))
    else if fld w 0 3 = 5 then .ok (.sltu (fld w 27 3) (fld w 15 6) (fld w 9 6) (fld w 3 6))
    else .error .reservedField
  | 0x04 =>
    if fld w 15 6 = 0 ∧ fld w 0 3 = 0 then .ok (.ceq (fld w 27 3) (fld w 9 6) (fld w 3 6))
    else if fld w 15 6 = 0 ∧ fld w 0 3 = 1 then .ok (.cne (fld w 27 3) (fld w 9 6) (fld w 3 6))
    else if fld w 15 6 = 0 ∧ fld w 0 3 = 2 then .ok (.clt (fld w 27 3) (fld w 9 6) (fld w 3 6))
    else if fld w 15 6 = 0 ∧ fld w 0 3 = 3 then .ok (.cge (fld w 27 3) (fld w 9 6) (fld w 3 6))
    else if fld w 15 6 = 0 ∧ fld w 0 3 = 4 then .ok (.cltu (fld w 27 3) (fld w 9 6) (fld w 3 6))
    else if fld w 15 6 = 0 ∧ fld w 0 3 = 5 then .ok (.cgeu (fld w 27 3) (fld w 9 6) (fld w 3 6))
    else .error .reservedField
  | 0x05 =>
    .ok (.addi (fld w 27 3) (fld w 15 6) (fld w 9 6) (fld w 0 9))
  | 0x06 =>
    .ok (.andi (fld w 27 3) (fld w 15 6) (fld w 9 6) (fld w 0 9))
  | 0x07 =>
    .ok (.ori (fld w 27 3) (fld w 15 6) (fld w 9 6) (fld w 0 9))
  | 0x08 =>
    .ok (.xori (fld w 27 3) (fld w 15 6) (fld w 9 6) (fld w 0 9))
  | 0x09 =>
    if fld w 6 3 = 0 then .ok (.shli (fld w 27 3) (fld w 15 6) (fld w 9 6) (fld w 0 6))
    else .error .reservedField
  | 0x0A =>
    if fld w 6 3 = 0 then .ok (.shri (fld w 27 3) (fld w 15 6) (fld w 9 6) (fld w 0 6))
    else .error .reservedField
  | 0x0B =>
    if fld w 6 3 = 0 then .ok (.srai (fld w 27 3) (fld w 15 6) (fld w 9 6) (fld w 0 6))
    else .error .reservedField
  | 0x0C =>
    if fld w 15 6 = 0 then .ok (.ceqi (fld w 27 3) (fld w 9 6) (fld w 0 9))
    else .error .reservedField
  | 0x0D =>
    if fld w 15 6 = 0 then .ok (.clti (fld w 27 3) (fld w 9 6) (fld w 0 9))
    else .error .reservedField
  | 0x0E =>
    .ok (.lui (fld w 27 3) (fld w 15 6) (fld w 0 15))
  | 0x0F =>
    .ok (.lsh (fld w 27 3) (fld w 15 6) (fld w 0 15))
  | 0x10 =>
    .ok (.addpc (fld w 27 3) (fld w 15 6) (fld w 0 15))
  | 0x11 =>
    .ok (.bcq (fld w 27 3) (fld w 0 21))
  | 0x12 =>
    .ok (.bcqn (fld w 27 3) (fld w 0 21))
  | 0x13 =>
    .ok (.jmp (fld w 27 3) (fld w 0 21))
  | 0x14 =>
    .ok (.call (fld w 27 3) (fld w 0 21))
  | 0x15 =>
    if fld w 15 6 = 0 ∧ fld w 0 9 = 0 then .ok (.jr (fld w 27 3) (fld w 9 6))
    else if fld w 15 6 = 0 ∧ fld w 0 9 = 1 then .ok (.callr (fld w 27 3) (fld w 9 6))
    else .error .reservedField
  | 0x16 =>
    if fld w 15 6 = 0 ∧ fld w 9 1 = 0 ∧ fld w 0 3 = 0 then .ok (.callk (fld w 27 3) (fld w 10 5) (fld w 3 6))
    else .error .reservedField
  | 0x17 =>
    if fld w 9 6 = 0 then .ok (.crr (fld w 27 3) (fld w 15 6) (fld w 0 9))
    else .error .reservedField
  | 0x18 =>
    if fld w 15 6 = 0 ∧ fld w 0 9 = 12 then .ok (.crwTimer (fld w 27 3) (fld w 9 6))
    else if fld w 15 6 = 0 ∧ fld w 0 9 = 4 then .ok (.crwSlip (fld w 27 3) (fld w 9 6))
    else if fld w 15 6 = 0 ∧ fld w 0 9 = 6 then .ok (.crwFpflags (fld w 27 3) (fld w 9 6))
    else if fld w 15 6 = 0 ∧ fld w 0 9 = 16 then .ok (.crwIen (fld w 27 3) (fld w 9 6))
    else if fld w 15 6 = 0 then .ok (.crw (fld w 27 3) (fld w 9 6) (fld w 0 9))
    else .error .reservedField
  | 0x19 =>
    if fld w 9 12 = 0 then .ok (.trap (fld w 27 3) (fld w 0 9))
    else .error .reservedField
  | 0x1A =>
    if fld w 0 21 = 0 then .ok (.nop (fld w 27 3))
    else if fld w 0 21 = 1 then .ok (.tret (fld w 27 3))
    else if fld w 0 21 = 2 then .ok (.halt (fld w 27 3))
    else if fld w 0 21 = 3 then .ok (.pause (fld w 27 3))
    else .error .reservedField
  | 0x1B =>
    if fld w 3 18 = 0 then .ok (.twait (fld w 27 3) (fld w 0 3))
    else if fld w 3 18 = 32 then .ok (.tsig (fld w 27 3) (fld w 0 3))
    else .error .reservedField
  | 0x1C =>
    if fld w 19 2 = 0 then .ok (.scfg (fld w 27 3) (fld w 15 4) (fld w 9 6) (fld w 0 9))
    else .error .reservedField
  | 0x1D =>
    if fld w 15 6 = 0 ∧ fld w 0 6 = 0 then .ok (.ncfg (fld w 27 3) (fld w 9 6) (fld w 6 3))
    else .error .reservedField
  | 0x1E =>
    if fld w 15 6 = 0 ∧ fld w 0 6 = 0 then .ok (.nmaskFirst (fld w 27 3) (fld w 9 6) (fld w 6 3))
    else if fld w 15 6 = 0 ∧ fld w 0 6 = 1 then .ok (.nmaskLast (fld w 27 3) (fld w 9 6) (fld w 6 3))
    else .error .reservedField
  | 0x1F =>
    if fld w 0 8 = 0 then .ok (.nest (fld w 27 3) (fld w 15 6) (fld w 9 6) (fld w 8 1))
    else .error .reservedField
  | 0x20 =>
    .ok (.ldb (fld w 27 3) (fld w 15 6) (fld w 9 6) (fld w 5 4) (fld w 0 5))
  | 0x21 =>
    .ok (.ldbu (fld w 27 3) (fld w 15 6) (fld w 9 6) (fld w 5 4) (fld w 0 5))
  | 0x22 =>
    .ok (.ldh (fld w 27 3) (fld w 15 6) (fld w 9 6) (fld w 5 4) (fld w 0 5))
  | 0x23 =>
    .ok (.ldhu (fld w 27 3) (fld w 15 6) (fld w 9 6) (fld w 5 4) (fld w 0 5))
  | 0x24 =>
    .ok (.ldw (fld w 27 3) (fld w 15 6) (fld w 9 6) (fld w 5 4) (fld w 0 5))
  | 0x25 =>
    .ok (.ldwu (fld w 27 3) (fld w 15 6) (fld w 9 6) (fld w 5 4) (fld w 0 5))
  | 0x26 =>
    .ok (.ldd (fld w 27 3) (fld w 15 6) (fld w 9 6) (fld w 5 4) (fld w 0 5))
  | 0x27 =>
    .ok (.stb (fld w 27 3) (fld w 15 6) (fld w 9 6) (fld w 5 4) (fld w 0 5))
  | 0x28 =>
    .ok (.sth (fld w 27 3) (fld w 15 6) (fld w 9 6) (fld w 5 4) (fld w 0 5))
  | 0x29 =>
    .ok (.stw (fld w 27 3) (fld w 15 6) (fld w 9 6) (fld w 5 4) (fld w 0 5))
  | 0x2A =>
    .ok (.std (fld w 27 3) (fld w 15 6) (fld w 9 6) (fld w 5 4) (fld w 0 5))
  | 0x2B =>
    .ok (.lds (fld w 27 3) (fld w 15 6) (fld w 9 6) (fld w 0 9))
  | 0x2C =>
    .ok (.sts (fld w 27 3) (fld w 15 6) (fld w 9 6) (fld w 0 9))
  | 0x2D =>
    if fld w 0 1 = 0 then .ok (.lda (fld w 27 3) (fld w 15 6) (fld w 9 6) (fld w 5 4) (fld w 4 1) (fld w 2 2) (fld w 1 1))
    else .error .reservedField
  | 0x2E =>
    if fld w 0 1 = 0 then .ok (.stl (fld w 27 3) (fld w 15 6) (fld w 9 6) (fld w 5 4) (fld w 4 1) (fld w 2 2) (fld w 1 1))
    else .error .reservedField
  | 0x2F =>
    if fld w 0 2 = 0 then .ok (.amoadd (fld w 27 3) (fld w 15 6) (fld w 9 6) (fld w 6 3) (fld w 5 1) (fld w 4 1) (fld w 2 2))
    else .error .reservedField
  | 0x30 =>
    if fld w 0 2 = 0 then .ok (.amoswp (fld w 27 3) (fld w 15 6) (fld w 9 6) (fld w 6 3) (fld w 5 1) (fld w 4 1) (fld w 2 2))
    else .error .reservedField
  | 0x31 =>
    if fld w 15 1 = 0 ∧ fld w 0 2 = 0 then .ok (.amocas (fld w 27 3) (fld w 16 5) (fld w 9 6) (fld w 6 3) (fld w 5 1) (fld w 4 1) (fld w 2 2))
    else .error .reservedField
  | 0x32 =>
    if fld w 0 2 = 0 then .ok (.amomin (fld w 27 3) (fld w 15 6) (fld w 9 6) (fld w 6 3) (fld w 5 1) (fld w 4 1) (fld w 2 2))
    else if fld w 0 2 = 1 then .ok (.amomax (fld w 27 3) (fld w 15 6) (fld w 9 6) (fld w 6 3) (fld w 5 1) (fld w 4 1) (fld w 2 2))
    else if fld w 0 2 = 2 then .ok (.amominu (fld w 27 3) (fld w 15 6) (fld w 9 6) (fld w 6 3) (fld w 5 1) (fld w 4 1) (fld w 2 2))
    else if fld w 0 2 = 3 then .ok (.amomaxu (fld w 27 3) (fld w 15 6) (fld w 9 6) (fld w 6 3) (fld w 5 1) (fld w 4 1) (fld w 2 2))
    else .error .reservedField
  | 0x33 =>
    if fld w 0 2 = 0 then .ok (.amoand (fld w 27 3) (fld w 15 6) (fld w 9 6) (fld w 6 3) (fld w 5 1) (fld w 4 1) (fld w 2 2))
    else if fld w 0 2 = 1 then .ok (.amoor (fld w 27 3) (fld w 15 6) (fld w 9 6) (fld w 6 3) (fld w 5 1) (fld w 4 1) (fld w 2 2))
    else if fld w 0 2 = 2 then .ok (.amoxor (fld w 27 3) (fld w 15 6) (fld w 9 6) (fld w 6 3) (fld w 5 1) (fld w 4 1) (fld w 2 2))
    else .error .reservedField
  | 0x34 =>
    if fld w 19 2 = 0 ∧ fld w 0 3 = 0 then .ok (.xlatR (fld w 27 3) (fld w 15 4) (fld w 9 6) (fld w 3 6))
    else if fld w 19 2 = 0 ∧ fld w 0 3 = 1 then .ok (.xlatRw (fld w 27 3) (fld w 15 4) (fld w 9 6) (fld w 3 6))
    else if fld w 19 2 = 0 ∧ fld w 0 3 = 2 then .ok (.xlatRwa (fld w 27 3) (fld w 15 4) (fld w 9 6) (fld w 3 6))
    else .error .reservedField
  | 0x35 =>
    .ok (.probe (fld w 27 3) (fld w 15 6) (fld w 9 6) (fld w 3 6) (fld w 0 3))
  | 0x36 =>
    if fld w 19 2 = 0 ∧ fld w 0 15 = 4 then .ok (.hrel (fld w 27 3) (fld w 15 4))
    else if fld w 15 6 = 0 ∧ fld w 0 9 = 0 then .ok (.trel (fld w 27 3) (fld w 9 6))
    else if fld w 15 6 = 0 ∧ fld w 0 9 = 2 then .ok (.tclean (fld w 27 3) (fld w 9 6))
    else if fld w 15 6 = 0 ∧ fld w 0 9 = 3 then .ok (.tdirty (fld w 27 3) (fld w 9 6))
    else if fld w 13 3 = 0 ∧ fld w 0 9 = 5 then .ok (.hqry (fld w 27 3) (fld w 16 5) (fld w 9 4))
    else if fld w 0 9 = 1 then .ok (.tstat (fld w 27 3) (fld w 15 6) (fld w 9 6))
    else .error .reservedField
  | 0x37 =>
    if fld w 2 19 = 0 then .ok (.fence (fld w 27 3) (fld w 0 2))
    else if fld w 15 6 = 0 ∧ fld w 2 1 = 1 then .ok (.cfence (fld w 27 3) (fld w 9 6) (fld w 3 6) (fld w 0 2))
    else .error .reservedField
  | 0x38 =>
    if fld w 3 18 = 0 then .ok (.bar (fld w 27 3) (fld w 0 3))
    else if fld w 3 18 = 2 then .ok (.barw (fld w 27 3) (fld w 0 3))
    else if fld w 3 18 = 4 then .ok (.step (fld w 27 3) (fld w 0 3))
    else if fld w 3 13 = 3 then .ok (.barq (fld w 27 3) (fld w 16 5) (fld w 0 3))
    else if fld w 15 6 = 0 ∧ fld w 3 6 = 1 then .ok (.bara (fld w 27 3) (fld w 9 6) (fld w 0 3))
    else .error .reservedField
  | 0x39 =>
    if fld w 15 1 = 0 then .ok (.stwp (fld w 27 3) (fld w 16 5) (fld w 9 6) (fld w 5 4) (fld w 0 5))
    else .error .reservedField
  | 0x3A =>
    if fld w 15 6 = 0 ∧ fld w 0 9 = 0 then .ok (.qpush (fld w 27 3) (fld w 9 6))
    else if fld w 0 15 = 3 then .ok (.qlen (fld w 27 3) (fld w 15 6))
    else if fld w 0 15 = 4 then .ok (.wnext (fld w 27 3) (fld w 15 6))
    else if fld w 0 9 = 1 then .ok (.qpop (fld w 27 3) (fld w 15 6) (fld w 9 6))
    else if fld w 0 9 = 2 then .ok (.qsteal (fld w 27 3) (fld w 15 6) (fld w 9 6))
    else if fld w 0 9 = 5 then .ok (.rspawn (fld w 27 3) (fld w 15 6) (fld w 9 6))
    else if fld w 18 3 = 0 ∧ fld w 0 3 = 6 then .ok (.tsyncJoin (fld w 27 3) (fld w 15 3) (fld w 9 6) (fld w 3 6))
    else if fld w 18 3 = 1 ∧ fld w 0 3 = 6 then .ok (.tsyncArrive (fld w 27 3) (fld w 15 3) (fld w 9 6) (fld w 3 6))
    else .error .reservedField
  | _ => .error .reservedOp

/-- The V opcode map: the row of a word by op and fixed fields (R34). -/
def decodeV (w : W32) : Except Reject Instr :=
  match wordOp w with
  | 0x01 =>
    if fld w 0 1 = 0 then .ok (.vadd (fld w 27 3) (fld w 18 3) (fld w 16 2) (fld w 11 5) (fld w 6 5) (fld w 1 5))
    else .error .reservedField
  | 0x02 =>
    if fld w 0 1 = 0 then .ok (.vsub (fld w 27 3) (fld w 18 3) (fld w 16 2) (fld w 11 5) (fld w 6 5) (fld w 1 5))
    else .error .reservedField
  | 0x03 =>
    if fld w 0 1 = 0 then .ok (.vmul (fld w 27 3) (fld w 18 3) (fld w 16 2) (fld w 11 5) (fld w 6 5) (fld w 1 5))
    else .error .reservedField
  | 0x04 =>
    if fld w 0 1 = 0 then .ok (.vfma (fld w 27 3) (fld w 18 3) (fld w 16 2) (fld w 11 5) (fld w 6 5) (fld w 1 5))
    else .error .reservedField
  | 0x05 =>
    if fld w 0 1 = 0 then .ok (.vfms (fld w 27 3) (fld w 18 3) (fld w 16 2) (fld w 11 5) (fld w 6 5) (fld w 1 5))
    else .error .reservedField
  | 0x06 =>
    if fld w 0 1 = 0 then .ok (.vfnma (fld w 27 3) (fld w 18 3) (fld w 16 2) (fld w 11 5) (fld w 6 5) (fld w 1 5))
    else .error .reservedField
  | 0x07 =>
    if fld w 0 1 = 0 then .ok (.vmin (fld w 27 3) (fld w 18 3) (fld w 16 2) (fld w 11 5) (fld w 6 5) (fld w 1 5))
    else .error .reservedField
  | 0x08 =>
    if fld w 0 1 = 0 then .ok (.vmax (fld w 27 3) (fld w 18 3) (fld w 16 2) (fld w 11 5) (fld w 6 5) (fld w 1 5))
    else .error .reservedField
  | 0x09 =>
    if fld w 0 6 = 0 then .ok (.vabs (fld w 27 3) (fld w 18 3) (fld w 16 2) (fld w 11 5) (fld w 6 5))
    else .error .reservedField
  | 0x0A =>
    if fld w 0 6 = 0 then .ok (.vneg (fld w 27 3) (fld w 18 3) (fld w 16 2) (fld w 11 5) (fld w 6 5))
    else .error .reservedField
  | 0x0B =>
    if fld w 16 2 = 0 ∧ fld w 0 6 = 0 then .ok (.vrcp (fld w 27 3) (fld w 18 3) (fld w 11 5) (fld w 6 5))
    else .error .reservedField
  | 0x0C =>
    if fld w 16 2 = 0 ∧ fld w 0 6 = 0 then .ok (.vrsq (fld w 27 3) (fld w 18 3) (fld w 11 5) (fld w 6 5))
    else .error .reservedField
  | 0x0D =>
    if fld w 16 2 = 0 ∧ fld w 0 6 = 0 then .ok (.vex2 (fld w 27 3) (fld w 18 3) (fld w 11 5) (fld w 6 5))
    else .error .reservedField
  | 0x0E =>
    if fld w 16 2 = 0 ∧ fld w 0 6 = 0 then .ok (.vlg2 (fld w 27 3) (fld w 18 3) (fld w 11 5) (fld w 6 5))
    else .error .reservedField
  | 0x10 =>
    .ok (.viadd (fld w 27 3) (fld w 18 3) (fld w 16 2) (fld w 11 5) (fld w 6 5) (fld w 1 5) (fld w 0 1))
  | 0x11 =>
    .ok (.visub (fld w 27 3) (fld w 18 3) (fld w 16 2) (fld w 11 5) (fld w 6 5) (fld w 1 5) (fld w 0 1))
  | 0x12 =>
    if fld w 0 1 = 0 then .ok (.vimul (fld w 27 3) (fld w 18 3) (fld w 16 2) (fld w 11 5) (fld w 6 5) (fld w 1 5))
    else .error .reservedField
  | 0x13 =>
    if fld w 0 1 = 0 then .ok (.vimad (fld w 27 3) (fld w 18 3) (fld w 16 2) (fld w 11 5) (fld w 6 5) (fld w 1 5))
    else .error .reservedField
  | 0x14 =>
    if fld w 0 1 = 0 then .ok (.vand (fld w 27 3) (fld w 18 3) (fld w 16 2) (fld w 11 5) (fld w 6 5) (fld w 1 5))
    else .error .reservedField
  | 0x15 =>
    if fld w 0 1 = 0 then .ok (.vor (fld w 27 3) (fld w 18 3) (fld w 16 2) (fld w 11 5) (fld w 6 5) (fld w 1 5))
    else .error .reservedField
  | 0x16 =>
    if fld w 0 1 = 0 then .ok (.vxor (fld w 27 3) (fld w 18 3) (fld w 16 2) (fld w 11 5) (fld w 6 5) (fld w 1 5))
    else .error .reservedField
  | 0x17 =>
    if fld w 0 1 = 0 then .ok (.vshl (fld w 27 3) (fld w 18 3) (fld w 16 2) (fld w 11 5) (fld w 6 5) (fld w 1 5))
    else .error .reservedField
  | 0x18 =>
    if fld w 0 1 = 0 then .ok (.vshr (fld w 27 3) (fld w 18 3) (fld w 16 2) (fld w 11 5) (fld w 6 5) (fld w 1 5))
    else .error .reservedField
  | 0x19 =>
    if fld w 0 1 = 0 then .ok (.vsra (fld w 27 3) (fld w 18 3) (fld w 16 2) (fld w 11 5) (fld w 6 5) (fld w 1 5))
    else .error .reservedField
  | 0x1A =>
    .ok (.vimin (fld w 27 3) (fld w 18 3) (fld w 16 2) (fld w 11 5) (fld w 6 5) (fld w 1 5) (fld w 0 1))
  | 0x1B =>
    .ok (.vimax (fld w 27 3) (fld w 18 3) (fld w 16 2) (fld w 11 5) (fld w 6 5) (fld w 1 5) (fld w 0 1))
  | 0x20 =>
    if fld w 18 3 = 0 then .ok (.vcmp (fld w 27 3) (fld w 16 2) (fld w 13 3) (fld w 11 2) (fld w 6 5) (fld w 1 5) (fld w 0 1))
    else .error .reservedField
  | 0x21 =>
    if fld w 0 1 = 0 then .ok (.vsel (fld w 27 3) (fld w 18 3) (fld w 16 2) (fld w 11 5) (fld w 6 5) (fld w 1 5))
    else .error .reservedField
  | 0x22 =>
    if fld w 8 13 = 0 ∧ fld w 0 6 = 0 then .ok (.vcqAny (fld w 27 3) (fld w 6 2))
    else if fld w 8 13 = 0 ∧ fld w 0 6 = 1 then .ok (.vcqAll (fld w 27 3) (fld w 6 2))
    else .error .reservedField
  | 0x23 =>
    if fld w 13 8 = 5 ∧ fld w 0 11 = 0 then .ok (.vmskSet (fld w 27 3) (fld w 11 2))
    else if fld w 13 8 = 6 ∧ fld w 0 11 = 0 then .ok (.vmskClr (fld w 27 3) (fld w 11 2))
    else if fld w 13 8 = 4 ∧ fld w 8 3 = 0 ∧ fld w 0 6 = 0 then .ok (.vmskNot (fld w 27 3) (fld w 11 2) (fld w 6 2))
    else if fld w 13 8 = 0 ∧ fld w 8 3 = 0 ∧ fld w 3 3 = 0 ∧ fld w 0 1 = 0 then .ok (.vmskAnd (fld w 27 3) (fld w 11 2) (fld w 6 2) (fld w 1 2))
    else if fld w 13 8 = 1 ∧ fld w 8 3 = 0 ∧ fld w 3 3 = 0 ∧ fld w 0 1 = 0 then .ok (.vmskOr (fld w 27 3) (fld w 11 2) (fld w 6 2) (fld w 1 2))
    else if fld w 13 8 = 2 ∧ fld w 8 3 = 0 ∧ fld w 3 3 = 0 ∧ fld w 0 1 = 0 then .ok (.vmskXor (fld w 27 3) (fld w 11 2) (fld w 6 2) (fld w 1 2))
    else if fld w 13 8 = 3 ∧ fld w 8 3 = 0 ∧ fld w 3 3 = 0 ∧ fld w 0 1 = 0 then .ok (.vmskAndn (fld w 27 3) (fld w 11 2) (fld w 6 2) (fld w 1 2))
    else .error .reservedField
  | 0x24 =>
    if fld w 16 2 = 0 ∧ fld w 0 6 = 0 then .ok (.vmov (fld w 27 3) (fld w 18 3) (fld w 11 5) (fld w 6 5))
    else .error .reservedField
  | 0x25 =>
    .ok (.vmovi (fld w 27 3) (fld w 18 3) (fld w 16 2) (fld w 11 5) (fld w 0 11))
  | 0x26 =>
    if fld w 14 7 = 0 ∧ fld w 0 11 = 0 then .ok (.vwin (fld w 27 3) (fld w 11 3))
    else .error .reservedField
  | 0x27 =>
    if fld w 14 7 = 0 ∧ fld w 0 11 = 0 then .ok (.vwait (fld w 27 3) (fld w 11 3))
    else if fld w 14 7 = 0 ∧ fld w 0 11 = 1 then .ok (.vsig (fld w 27 3) (fld w 11 3))
    else .error .reservedField
  | 0x28 =>
    if fld w 0 21 = 0 then .ok (.vnop (fld w 27 3))
    else .error .reservedField
  | 0x29 =>
    .ok (.vcvt (fld w 27 3) (fld w 18 3) (fld w 16 2) (fld w 11 5) (fld w 6 5) (fld w 1 5) (fld w 0 1))
  | 0x2A =>
    if fld w 5 1 = 0 ∧ fld w 0 1 = 0 then .ok (.vpack (fld w 27 3) (fld w 18 3) (fld w 16 2) (fld w 11 5) (fld w 6 5) (fld w 1 4))
    else .error .reservedField
  | 0x2B =>
    if fld w 5 1 = 0 ∧ fld w 0 1 = 0 then .ok (.vunpk (fld w 27 3) (fld w 18 3) (fld w 16 2) (fld w 11 5) (fld w 6 5) (fld w 1 4))
    else .error .reservedField
  | 0x2C =>
    if fld w 1 5 = 0 then .ok (.vrsum (fld w 27 3) (fld w 18 3) (fld w 16 2) (fld w 11 5) (fld w 6 5) (fld w 0 1))
    else .error .reservedField
  | 0x2D =>
    if fld w 1 5 = 0 then .ok (.vrmax (fld w 27 3) (fld w 18 3) (fld w 16 2) (fld w 11 5) (fld w 6 5) (fld w 0 1))
    else .error .reservedField
  | 0x2E =>
    if fld w 1 5 = 0 then .ok (.vrmin (fld w 27 3) (fld w 18 3) (fld w 16 2) (fld w 11 5) (fld w 6 5) (fld w 0 1))
    else .error .reservedField
  | 0x2F =>
    if fld w 16 2 = 0 ∧ fld w 0 1 = 0 then .ok (.vperm (fld w 27 3) (fld w 18 3) (fld w 11 5) (fld w 6 5) (fld w 1 5))
    else .error .reservedField
  | 0x30 =>
    if fld w 0 1 = 0 then .ok (.vbcast (fld w 27 3) (fld w 18 3) (fld w 16 2) (fld w 11 5) (fld w 6 5) (fld w 1 5))
    else .error .reservedField
  | 0x31 =>
    .ok (.vslide (fld w 27 3) (fld w 18 3) (fld w 11 5) (fld w 6 5) (fld w 16 2 ++ fld w 0 6))
  | 0x32 =>
    if fld w 0 11 = 0 then .ok (.viota (fld w 27 3) (fld w 18 3) (fld w 16 2) (fld w 11 5))
    else .error .reservedField
  | 0x33 =>
    if fld w 16 2 = 0 ∧ fld w 10 1 = 0 ∧ fld w 0 1 = 0 then .ok (.vsld (fld w 27 3) (fld w 18 3) (fld w 11 5) (fld w 6 4) (fld w 1 5))
    else .error .reservedField
  | 0x34 =>
    if fld w 16 2 = 0 ∧ fld w 10 1 = 0 ∧ fld w 0 1 = 0 then .ok (.vsst (fld w 27 3) (fld w 18 3) (fld w 11 5) (fld w 6 4) (fld w 1 5))
    else .error .reservedField
  | 0x35 =>
    if fld w 16 2 = 0 ∧ fld w 5 1 = 0 ∧ fld w 0 1 = 0 then .ok (.vgath (fld w 27 3) (fld w 18 3) (fld w 11 5) (fld w 6 5) (fld w 1 4))
    else .error .reservedField
  | 0x36 =>
    if fld w 16 2 = 0 ∧ fld w 5 1 = 0 ∧ fld w 0 1 = 0 then .ok (.vscat (fld w 27 3) (fld w 18 3) (fld w 11 5) (fld w 6 5) (fld w 1 4))
    else .error .reservedField
  | 0x37 =>
    if fld w 18 3 = 0 ∧ fld w 11 1 = 0 ∧ fld w 0 6 = 0 then .ok (.vpart (fld w 27 3) (fld w 16 2) (fld w 12 4) (fld w 6 5))
    else .error .reservedField
  | 0x38 =>
    if fld w 16 5 = 0 ∧ fld w 6 5 = 0 ∧ fld w 0 5 = 1 then .ok (.vxsPart (fld w 27 3) (fld w 5 1 ++ fld w 11 5))
    else if fld w 18 3 = 0 ∧ fld w 0 5 = 0 then .ok (.vxs (fld w 27 3) (fld w 16 2) (fld w 5 1 ++ fld w 11 5) (fld w 6 5))
    else .error .reservedField
  | 0x39 =>
    if fld w 0 5 = 0 then .ok (.vsx (fld w 27 3) (fld w 18 3) (fld w 16 2) (fld w 11 5) (fld w 5 1 ++ fld w 6 5))
    else .error .reservedField
  | _ => .error .reservedOp

/-- The M opcode map: the row of a word by op and fixed fields (R35). -/
def decodeM (w : W32) : Except Reject Instr :=
  match wordOp w with
  | 0x01 =>
    if fld w 0 2 = 0 then .ok (.mma (fld w 27 3) (fld w 14 7) (fld w 10 4) (fld w 6 4) (fld w 5 1) (fld w 4 1) (fld w 3 1) (fld w 2 1))
    else .error .reservedField
  | 0x02 =>
    if fld w 0 2 = 0 then .ok (.mmasN4 (fld w 27 3) (fld w 14 7) (fld w 10 4) (fld w 6 4) (fld w 5 1) (fld w 4 1) (fld w 3 1) (fld w 2 1))
    else if fld w 0 2 = 1 then .ok (.mmasN8 (fld w 27 3) (fld w 14 7) (fld w 10 4) (fld w 6 4) (fld w 5 1) (fld w 4 1) (fld w 3 1) (fld w 2 1))
    else .error .reservedField
  | 0x03 =>
    if fld w 0 10 = 0 then .ok (.mzero (fld w 27 3) (fld w 14 7) (fld w 10 4))
    else .error .reservedField
  | 0x04 =>
    if fld w 0 10 = 0 then .ok (.mload (fld w 27 3) (fld w 14 7) (fld w 10 4))
    else .error .reservedField
  | 0x05 =>
    if fld w 3 7 = 0 then .ok (.mout (fld w 27 3) (fld w 14 7) (fld w 10 4) (fld w 2 1) (fld w 0 2))
    else .error .reservedField
  | 0x06 =>
    if fld w 13 1 = 0 ∧ fld w 2 4 = 0 ∧ fld w 0 1 = 0 then .ok (.mcopy (fld w 27 3) (fld w 14 7) (fld w 6 7) (fld w 1 1))
    else .error .reservedField
  | 0x07 =>
    if fld w 13 1 = 0 ∧ fld w 3 2 = 0 then .ok (.madd (fld w 27 3) (fld w 14 7) (fld w 6 7) (fld w 5 1) (fld w 2 1) (fld w 0 2))
    else .error .reservedField
  | 0x08 =>
    if fld w 6 4 = 0 ∧ fld w 3 1 = 0 then .ok (.mbias (fld w 27 3) (fld w 14 7) (fld w 10 4) (fld w 5 1) (fld w 4 1) (fld w 2 1) (fld w 0 2))
    else .error .reservedField
  | 0x09 =>
    if fld w 6 4 = 0 ∧ fld w 2 2 = 0 then .ok (.mscale (fld w 27 3) (fld w 14 7) (fld w 10 4) (fld w 5 1) (fld w 4 1) (fld w 0 2))
    else .error .reservedField
  | 0x0A =>
    if fld w 3 18 = 0 then .ok (.mwait (fld w 27 3) (fld w 0 3))
    else if fld w 3 18 = 1 then .ok (.msig (fld w 27 3) (fld w 0 3))
    else .error .reservedField
  | 0x0B =>
    if fld w 0 21 = 0 then .ok (.mnop (fld w 27 3))
    else .error .reservedField
  | _ => .error .reservedOp

/-- The X opcode map: the row of a word by op and fixed fields (R36). -/
def decodeX (w : W32) : Except Reject Instr :=
  match wordOp w with
  | 0x01 =>
    if fld w 0 5 = 0 then .ok (.xmov (fld w 27 3) (fld w 17 4) (fld w 13 4) (fld w 12 1) (fld w 11 1) (fld w 9 2) (fld w 8 1) (fld w 5 3))
    else .error .reservedField
  | 0x02 =>
    if fld w 4 1 = 0 then .ok (.xgath (fld w 27 3) (fld w 17 4) (fld w 13 4) (fld w 12 1) (fld w 11 1) (fld w 9 2) (fld w 8 1) (fld w 5 3) (fld w 0 4))
    else .error .reservedField
  | 0x03 =>
    if fld w 4 1 = 0 then .ok (.xscat (fld w 27 3) (fld w 17 4) (fld w 13 4) (fld w 12 1) (fld w 11 1) (fld w 9 2) (fld w 8 1) (fld w 5 3) (fld w 0 4))
    else .error .reservedField
  | 0x04 =>
    if fld w 0 5 = 0 then .ok (.xset (fld w 27 3) (fld w 17 4) (fld w 13 4) (fld w 12 1) (fld w 11 1) (fld w 9 2) (fld w 8 1) (fld w 5 3))
    else .error .reservedField
  | 0x05 =>
    if fld w 3 2 = 0 then .ok (.xred (fld w 27 3) (fld w 17 4) (fld w 13 4) (fld w 12 1) (fld w 11 1) (fld w 9 2) (fld w 8 1) (fld w 5 3) (fld w 0 3))
    else .error .reservedField
  | 0x06 =>
    if fld w 13 2 = 0 ∧ fld w 0 5 = 0 then .ok (.xfill (fld w 27 3) (fld w 15 6) (fld w 12 1) (fld w 11 1) (fld w 9 2) (fld w 8 1) (fld w 5 3))
    else .error .reservedField
  | 0x07 =>
    if fld w 13 2 = 0 ∧ fld w 0 5 = 0 then .ok (.xdrain (fld w 27 3) (fld w 15 6) (fld w 12 1) (fld w 11 1) (fld w 9 2) (fld w 8 1) (fld w 5 3))
    else .error .reservedField
  | 0x08 =>
    if fld w 13 8 = 0 ∧ fld w 0 9 = 0 then .ok (.xsync (fld w 27 3) (fld w 12 1) (fld w 11 1) (fld w 9 2))
    else .error .reservedField
  | 0x09 =>
    if fld w 3 18 = 0 then .ok (.xwait (fld w 27 3) (fld w 0 3))
    else if fld w 3 18 = 1 then .ok (.xsig (fld w 27 3) (fld w 0 3))
    else .error .reservedField
  | 0x0A =>
    if fld w 0 21 = 0 then .ok (.xnop (fld w 27 3))
    else .error .reservedField
  | _ => .error .reservedOp

/-- The instruction of a word (R14, R37). -/
def decodeWord (w : W32) : Except Reject Instr :=
  let row := match wordEngine w with
    | .s => decodeS w
    | .v => decodeV w
    | .m => decodeM w
    | .x => decodeX w
  match row with
  | .ok i => if i.wellFormed then .ok i else .error .reservedValue
  | .error e => .error e

/-- A word from four bytes, little-endian (R4, R14). -/
def wordOfBytes (b0 b1 b2 b3 : Byte) : W32 := b3 ++ b2 ++ b1 ++ b0

/-- The instruction at the front of a list of bytes, and the bytes after it. -/
def decode : List Byte → Except Reject (Instr × List Byte)
  | b0 :: b1 :: b2 :: b3 :: rest =>
    match decodeWord (wordOfBytes b0 b1 b2 b3) with
    | .ok i => .ok (i, rest)
    | .error e => .error e
  | _ => .error .short

/-- The bytes of a word as the hardware stores them (R4). -/
def bytesOfWord (w : W32) : List Byte := [fld w 0 8, fld w 8 8, fld w 16 8, fld w 24 8]

/-- The decoder on a row of the opcode table: bit 0 of `n` is bit 0 of the word. -/
def decodeTableWord (_nbits n : Nat) : Option Instr :=
  match decode (bytesOfWord (BitVec.ofNat 32 n)) with
  | .ok (i, _) => some i
  | .error _ => none

/-- A word from its fields, each given with the bit it starts at. -/
def pack (fs : List (Nat × Nat)) : W32 :=
  BitVec.ofNat 32 (fs.foldr (fun f acc => f.2 * 2 ^ f.1 + acc) 0)

/-- The word of an instruction; a step without an encoding has none. -/
def encode : Instr → Option W32
  | .add t d a b => some (pack [(27, t.toNat), (21, 1), (15, d.toNat), (9, a.toNat), (3, b.toNat)])
  | .sub t d a b => some (pack [(27, t.toNat), (21, 1), (15, d.toNat), (9, a.toNat), (3, b.toNat), (0, 1)])
  | .and t d a b => some (pack [(27, t.toNat), (21, 1), (15, d.toNat), (9, a.toNat), (3, b.toNat), (0, 2)])
  | .or t d a b => some (pack [(27, t.toNat), (21, 1), (15, d.toNat), (9, a.toNat), (3, b.toNat), (0, 3)])
  | .xor t d a b => some (pack [(27, t.toNat), (21, 1), (15, d.toNat), (9, a.toNat), (3, b.toNat), (0, 4)])
  | .shl t d a b => some (pack [(27, t.toNat), (21, 1), (15, d.toNat), (9, a.toNat), (3, b.toNat), (0, 5)])
  | .shr t d a b => some (pack [(27, t.toNat), (21, 1), (15, d.toNat), (9, a.toNat), (3, b.toNat), (0, 6)])
  | .sra t d a b => some (pack [(27, t.toNat), (21, 1), (15, d.toNat), (9, a.toNat), (3, b.toNat), (0, 7)])
  | .mul t d a b => some (pack [(27, t.toNat), (21, 2), (15, d.toNat), (9, a.toNat), (3, b.toNat)])
  | .mulh t d a b => some (pack [(27, t.toNat), (21, 2), (15, d.toNat), (9, a.toNat), (3, b.toNat), (0, 1)])
  | .mulhu t d a b => some (pack [(27, t.toNat), (21, 2), (15, d.toNat), (9, a.toNat), (3, b.toNat), (0, 2)])
  | .div t d a b => some (pack [(27, t.toNat), (21, 2), (15, d.toNat), (9, a.toNat), (3, b.toNat), (0, 3)])
  | .divu t d a b => some (pack [(27, t.toNat), (21, 2), (15, d.toNat), (9, a.toNat), (3, b.toNat), (0, 4)])
  | .rem t d a b => some (pack [(27, t.toNat), (21, 2), (15, d.toNat), (9, a.toNat), (3, b.toNat), (0, 5)])
  | .remu t d a b => some (pack [(27, t.toNat), (21, 2), (15, d.toNat), (9, a.toNat), (3, b.toNat), (0, 6)])
  | .min t d a b => some (pack [(27, t.toNat), (21, 3), (15, d.toNat), (9, a.toNat), (3, b.toNat)])
  | .max t d a b => some (pack [(27, t.toNat), (21, 3), (15, d.toNat), (9, a.toNat), (3, b.toNat), (0, 1)])
  | .minu t d a b => some (pack [(27, t.toNat), (21, 3), (15, d.toNat), (9, a.toNat), (3, b.toNat), (0, 2)])
  | .maxu t d a b => some (pack [(27, t.toNat), (21, 3), (15, d.toNat), (9, a.toNat), (3, b.toNat), (0, 3)])
  | .slt t d a b => some (pack [(27, t.toNat), (21, 3), (15, d.toNat), (9, a.toNat), (3, b.toNat), (0, 4)])
  | .sltu t d a b => some (pack [(27, t.toNat), (21, 3), (15, d.toNat), (9, a.toNat), (3, b.toNat), (0, 5)])
  | .ceq t a b => some (pack [(27, t.toNat), (21, 4), (9, a.toNat), (3, b.toNat)])
  | .cne t a b => some (pack [(27, t.toNat), (21, 4), (9, a.toNat), (3, b.toNat), (0, 1)])
  | .clt t a b => some (pack [(27, t.toNat), (21, 4), (9, a.toNat), (3, b.toNat), (0, 2)])
  | .cge t a b => some (pack [(27, t.toNat), (21, 4), (9, a.toNat), (3, b.toNat), (0, 3)])
  | .cltu t a b => some (pack [(27, t.toNat), (21, 4), (9, a.toNat), (3, b.toNat), (0, 4)])
  | .cgeu t a b => some (pack [(27, t.toNat), (21, 4), (9, a.toNat), (3, b.toNat), (0, 5)])
  | .addi t d a i => some (pack [(27, t.toNat), (21, 5), (15, d.toNat), (9, a.toNat), (0, i.toNat)])
  | .andi t d a i => some (pack [(27, t.toNat), (21, 6), (15, d.toNat), (9, a.toNat), (0, i.toNat)])
  | .ori t d a i => some (pack [(27, t.toNat), (21, 7), (15, d.toNat), (9, a.toNat), (0, i.toNat)])
  | .xori t d a i => some (pack [(27, t.toNat), (21, 8), (15, d.toNat), (9, a.toNat), (0, i.toNat)])
  | .shli t d a i => some (pack [(27, t.toNat), (21, 9), (15, d.toNat), (9, a.toNat), (0, i.toNat)])
  | .shri t d a i => some (pack [(27, t.toNat), (21, 10), (15, d.toNat), (9, a.toNat), (0, i.toNat)])
  | .srai t d a i => some (pack [(27, t.toNat), (21, 11), (15, d.toNat), (9, a.toNat), (0, i.toNat)])
  | .ceqi t a i => some (pack [(27, t.toNat), (21, 12), (9, a.toNat), (0, i.toNat)])
  | .clti t a i => some (pack [(27, t.toNat), (21, 13), (9, a.toNat), (0, i.toNat)])
  | .lui t d i => some (pack [(27, t.toNat), (21, 14), (15, d.toNat), (0, i.toNat)])
  | .lsh t d i => some (pack [(27, t.toNat), (21, 15), (15, d.toNat), (0, i.toNat)])
  | .addpc t d i => some (pack [(27, t.toNat), (21, 16), (15, d.toNat), (0, i.toNat)])
  | .bcq t o => some (pack [(27, t.toNat), (21, 17), (0, o.toNat)])
  | .bcqn t o => some (pack [(27, t.toNat), (21, 18), (0, o.toNat)])
  | .jmp t o => some (pack [(27, t.toNat), (21, 19), (0, o.toNat)])
  | .call t o => some (pack [(27, t.toNat), (21, 20), (0, o.toNat)])
  | .jr t a => some (pack [(27, t.toNat), (21, 21), (9, a.toNat)])
  | .callr t a => some (pack [(27, t.toNat), (21, 21), (9, a.toNat), (0, 1)])
  | .callk t a b => some (pack [(27, t.toNat), (21, 22), (10, a.toNat), (3, b.toNat)])
  | .crr t d n => some (pack [(27, t.toNat), (21, 23), (15, d.toNat), (0, n.toNat)])
  | .crw t a n => some (pack [(27, t.toNat), (21, 24), (9, a.toNat), (0, n.toNat)])
  | .crwTimer t a => some (pack [(27, t.toNat), (21, 24), (9, a.toNat), (0, 12)])
  | .crwSlip t a => some (pack [(27, t.toNat), (21, 24), (9, a.toNat), (0, 4)])
  | .crwFpflags t a => some (pack [(27, t.toNat), (21, 24), (9, a.toNat), (0, 6)])
  | .crwIen t a => some (pack [(27, t.toNat), (21, 24), (9, a.toNat), (0, 16)])
  | .trap t i => some (pack [(27, t.toNat), (21, 25), (0, i.toNat)])
  | .nop t => some (pack [(27, t.toNat), (21, 26)])
  | .tret t => some (pack [(27, t.toNat), (21, 26), (0, 1)])
  | .halt t => some (pack [(27, t.toNat), (21, 26), (0, 2)])
  | .pause t => some (pack [(27, t.toNat), (21, 26), (0, 3)])
  | .twait t m => some (pack [(27, t.toNat), (21, 27), (0, m.toNat)])
  | .tsig t m => some (pack [(27, t.toNat), (21, 27), (3, 32), (0, m.toNat)])
  | .scfg t q a f => some (pack [(27, t.toNat), (21, 28), (15, q.toNat), (9, a.toNat), (0, f.toNat)])
  | .ncfg t a l => some (pack [(27, t.toNat), (21, 29), (9, a.toNat), (6, l.toNat)])
  | .nmaskFirst t a l => some (pack [(27, t.toNat), (21, 30), (9, a.toNat), (6, l.toNat)])
  | .nmaskLast t a l => some (pack [(27, t.toNat), (21, 30), (9, a.toNat), (6, l.toNat), (0, 1)])
  | .nest t r i s => some (pack [(27, t.toNat), (21, 31), (15, r.toNat), (9, i.toNat), (8, s.toNat)])
  | .ldb t d a h i => some (pack [(27, t.toNat), (21, 32), (15, d.toNat), (9, a.toNat), (5, h.toNat), (0, i.toNat)])
  | .ldbu t d a h i => some (pack [(27, t.toNat), (21, 33), (15, d.toNat), (9, a.toNat), (5, h.toNat), (0, i.toNat)])
  | .ldh t d a h i => some (pack [(27, t.toNat), (21, 34), (15, d.toNat), (9, a.toNat), (5, h.toNat), (0, i.toNat)])
  | .ldhu t d a h i => some (pack [(27, t.toNat), (21, 35), (15, d.toNat), (9, a.toNat), (5, h.toNat), (0, i.toNat)])
  | .ldw t d a h i => some (pack [(27, t.toNat), (21, 36), (15, d.toNat), (9, a.toNat), (5, h.toNat), (0, i.toNat)])
  | .ldwu t d a h i => some (pack [(27, t.toNat), (21, 37), (15, d.toNat), (9, a.toNat), (5, h.toNat), (0, i.toNat)])
  | .ldd t d a h i => some (pack [(27, t.toNat), (21, 38), (15, d.toNat), (9, a.toNat), (5, h.toNat), (0, i.toNat)])
  | .stb t d a h i => some (pack [(27, t.toNat), (21, 39), (15, d.toNat), (9, a.toNat), (5, h.toNat), (0, i.toNat)])
  | .sth t d a h i => some (pack [(27, t.toNat), (21, 40), (15, d.toNat), (9, a.toNat), (5, h.toNat), (0, i.toNat)])
  | .stw t d a h i => some (pack [(27, t.toNat), (21, 41), (15, d.toNat), (9, a.toNat), (5, h.toNat), (0, i.toNat)])
  | .std t d a h i => some (pack [(27, t.toNat), (21, 42), (15, d.toNat), (9, a.toNat), (5, h.toNat), (0, i.toNat)])
  | .lds t d a i => some (pack [(27, t.toNat), (21, 43), (15, d.toNat), (9, a.toNat), (0, i.toNat)])
  | .sts t d a i => some (pack [(27, t.toNat), (21, 44), (15, d.toNat), (9, a.toNat), (0, i.toNat)])
  | .lda t d a h w c q => some (pack [(27, t.toNat), (21, 45), (15, d.toNat), (9, a.toNat), (5, h.toNat), (4, w.toNat), (2, c.toNat), (1, q.toNat)])
  | .stl t d a h w c q => some (pack [(27, t.toNat), (21, 46), (15, d.toNat), (9, a.toNat), (5, h.toNat), (4, w.toNat), (2, c.toNat), (1, q.toNat)])
  | .amoadd t d a h w o c => some (pack [(27, t.toNat), (21, 47), (15, d.toNat), (9, a.toNat), (6, h.toNat), (5, w.toNat), (4, o.toNat), (2, c.toNat)])
  | .amoswp t d a h w o c => some (pack [(27, t.toNat), (21, 48), (15, d.toNat), (9, a.toNat), (6, h.toNat), (5, w.toNat), (4, o.toNat), (2, c.toNat)])
  | .amocas t d a h w o c => some (pack [(27, t.toNat), (21, 49), (16, d.toNat), (9, a.toNat), (6, h.toNat), (5, w.toNat), (4, o.toNat), (2, c.toNat)])
  | .amomin t d a h w o c => some (pack [(27, t.toNat), (21, 50), (15, d.toNat), (9, a.toNat), (6, h.toNat), (5, w.toNat), (4, o.toNat), (2, c.toNat)])
  | .amomax t d a h w o c => some (pack [(27, t.toNat), (21, 50), (15, d.toNat), (9, a.toNat), (6, h.toNat), (5, w.toNat), (4, o.toNat), (2, c.toNat), (0, 1)])
  | .amominu t d a h w o c => some (pack [(27, t.toNat), (21, 50), (15, d.toNat), (9, a.toNat), (6, h.toNat), (5, w.toNat), (4, o.toNat), (2, c.toNat), (0, 2)])
  | .amomaxu t d a h w o c => some (pack [(27, t.toNat), (21, 50), (15, d.toNat), (9, a.toNat), (6, h.toNat), (5, w.toNat), (4, o.toNat), (2, c.toNat), (0, 3)])
  | .amoand t d a h w o c => some (pack [(27, t.toNat), (21, 51), (15, d.toNat), (9, a.toNat), (6, h.toNat), (5, w.toNat), (4, o.toNat), (2, c.toNat)])
  | .amoor t d a h w o c => some (pack [(27, t.toNat), (21, 51), (15, d.toNat), (9, a.toNat), (6, h.toNat), (5, w.toNat), (4, o.toNat), (2, c.toNat), (0, 1)])
  | .amoxor t d a h w o c => some (pack [(27, t.toNat), (21, 51), (15, d.toNat), (9, a.toNat), (6, h.toNat), (5, w.toNat), (4, o.toNat), (2, c.toNat), (0, 2)])
  | .xlatR t h a b => some (pack [(27, t.toNat), (21, 52), (15, h.toNat), (9, a.toNat), (3, b.toNat)])
  | .xlatRw t h a b => some (pack [(27, t.toNat), (21, 52), (15, h.toNat), (9, a.toNat), (3, b.toNat), (0, 1)])
  | .xlatRwa t h a b => some (pack [(27, t.toNat), (21, 52), (15, h.toNat), (9, a.toNat), (3, b.toNat), (0, 2)])
  | .probe t d a o c => some (pack [(27, t.toNat), (21, 53), (15, d.toNat), (9, a.toNat), (3, o.toNat), (0, c.toNat)])
  | .trel t a => some (pack [(27, t.toNat), (21, 54), (9, a.toNat)])
  | .tstat t d a => some (pack [(27, t.toNat), (21, 54), (15, d.toNat), (9, a.toNat), (0, 1)])
  | .tclean t a => some (pack [(27, t.toNat), (21, 54), (9, a.toNat), (0, 2)])
  | .tdirty t a => some (pack [(27, t.toNat), (21, 54), (9, a.toNat), (0, 3)])
  | .hrel t h => some (pack [(27, t.toNat), (21, 54), (15, h.toNat), (0, 4)])
  | .hqry t d h => some (pack [(27, t.toNat), (21, 54), (16, d.toNat), (9, h.toNat), (0, 5)])
  | .fence t c => some (pack [(27, t.toNat), (21, 55), (0, c.toNat)])
  | .cfence t a b c => some (pack [(27, t.toNat), (21, 55), (9, a.toNat), (3, b.toNat), (2, 1), (0, c.toNat)])
  | .bar t g => some (pack [(27, t.toNat), (21, 56), (0, g.toNat)])
  | .bara t a g => some (pack [(27, t.toNat), (21, 56), (9, a.toNat), (3, 1), (0, g.toNat)])
  | .barw t g => some (pack [(27, t.toNat), (21, 56), (3, 2), (0, g.toNat)])
  | .barq t d g => some (pack [(27, t.toNat), (21, 56), (16, d.toNat), (3, 3), (0, g.toNat)])
  | .step t g => some (pack [(27, t.toNat), (21, 56), (3, 4), (0, g.toNat)])
  | .stwp t d a h i => some (pack [(27, t.toNat), (21, 57), (16, d.toNat), (9, a.toNat), (5, h.toNat), (0, i.toNat)])
  | .qpush t a => some (pack [(27, t.toNat), (21, 58), (9, a.toNat)])
  | .qpop t d a => some (pack [(27, t.toNat), (21, 58), (15, d.toNat), (9, a.toNat), (0, 1)])
  | .qsteal t d a => some (pack [(27, t.toNat), (21, 58), (15, d.toNat), (9, a.toNat), (0, 2)])
  | .qlen t d => some (pack [(27, t.toNat), (21, 58), (15, d.toNat), (0, 3)])
  | .wnext t d => some (pack [(27, t.toNat), (21, 58), (15, d.toNat), (0, 4)])
  | .rspawn t d a => some (pack [(27, t.toNat), (21, 58), (15, d.toNat), (9, a.toNat), (0, 5)])
  | .tsyncJoin t h a b => some (pack [(27, t.toNat), (21, 58), (15, h.toNat), (9, a.toNat), (3, b.toNat), (0, 6)])
  | .tsyncArrive t h a b => some (pack [(27, t.toNat), (21, 58), (18, 1), (15, h.toNat), (9, a.toNat), (3, b.toNat), (0, 6)])
  | .vadd t e y d a b => some (pack [(30, 1), (27, t.toNat), (21, 1), (18, e.toNat), (16, y.toNat), (11, d.toNat), (6, a.toNat), (1, b.toNat)])
  | .vsub t e y d a b => some (pack [(30, 1), (27, t.toNat), (21, 2), (18, e.toNat), (16, y.toNat), (11, d.toNat), (6, a.toNat), (1, b.toNat)])
  | .vmul t e y d a b => some (pack [(30, 1), (27, t.toNat), (21, 3), (18, e.toNat), (16, y.toNat), (11, d.toNat), (6, a.toNat), (1, b.toNat)])
  | .vfma t e y d a b => some (pack [(30, 1), (27, t.toNat), (21, 4), (18, e.toNat), (16, y.toNat), (11, d.toNat), (6, a.toNat), (1, b.toNat)])
  | .vfms t e y d a b => some (pack [(30, 1), (27, t.toNat), (21, 5), (18, e.toNat), (16, y.toNat), (11, d.toNat), (6, a.toNat), (1, b.toNat)])
  | .vfnma t e y d a b => some (pack [(30, 1), (27, t.toNat), (21, 6), (18, e.toNat), (16, y.toNat), (11, d.toNat), (6, a.toNat), (1, b.toNat)])
  | .vmin t e y d a b => some (pack [(30, 1), (27, t.toNat), (21, 7), (18, e.toNat), (16, y.toNat), (11, d.toNat), (6, a.toNat), (1, b.toNat)])
  | .vmax t e y d a b => some (pack [(30, 1), (27, t.toNat), (21, 8), (18, e.toNat), (16, y.toNat), (11, d.toNat), (6, a.toNat), (1, b.toNat)])
  | .vabs t e y d a => some (pack [(30, 1), (27, t.toNat), (21, 9), (18, e.toNat), (16, y.toNat), (11, d.toNat), (6, a.toNat)])
  | .vneg t e y d a => some (pack [(30, 1), (27, t.toNat), (21, 10), (18, e.toNat), (16, y.toNat), (11, d.toNat), (6, a.toNat)])
  | .vrcp t e d a => some (pack [(30, 1), (27, t.toNat), (21, 11), (18, e.toNat), (11, d.toNat), (6, a.toNat)])
  | .vrsq t e d a => some (pack [(30, 1), (27, t.toNat), (21, 12), (18, e.toNat), (11, d.toNat), (6, a.toNat)])
  | .vex2 t e d a => some (pack [(30, 1), (27, t.toNat), (21, 13), (18, e.toNat), (11, d.toNat), (6, a.toNat)])
  | .vlg2 t e d a => some (pack [(30, 1), (27, t.toNat), (21, 14), (18, e.toNat), (11, d.toNat), (6, a.toNat)])
  | .viadd t e y d a b f => some (pack [(30, 1), (27, t.toNat), (21, 16), (18, e.toNat), (16, y.toNat), (11, d.toNat), (6, a.toNat), (1, b.toNat), (0, f.toNat)])
  | .visub t e y d a b f => some (pack [(30, 1), (27, t.toNat), (21, 17), (18, e.toNat), (16, y.toNat), (11, d.toNat), (6, a.toNat), (1, b.toNat), (0, f.toNat)])
  | .vimul t e y d a b => some (pack [(30, 1), (27, t.toNat), (21, 18), (18, e.toNat), (16, y.toNat), (11, d.toNat), (6, a.toNat), (1, b.toNat)])
  | .vimad t e y d a b => some (pack [(30, 1), (27, t.toNat), (21, 19), (18, e.toNat), (16, y.toNat), (11, d.toNat), (6, a.toNat), (1, b.toNat)])
  | .vand t e y d a b => some (pack [(30, 1), (27, t.toNat), (21, 20), (18, e.toNat), (16, y.toNat), (11, d.toNat), (6, a.toNat), (1, b.toNat)])
  | .vor t e y d a b => some (pack [(30, 1), (27, t.toNat), (21, 21), (18, e.toNat), (16, y.toNat), (11, d.toNat), (6, a.toNat), (1, b.toNat)])
  | .vxor t e y d a b => some (pack [(30, 1), (27, t.toNat), (21, 22), (18, e.toNat), (16, y.toNat), (11, d.toNat), (6, a.toNat), (1, b.toNat)])
  | .vshl t e y d a b => some (pack [(30, 1), (27, t.toNat), (21, 23), (18, e.toNat), (16, y.toNat), (11, d.toNat), (6, a.toNat), (1, b.toNat)])
  | .vshr t e y d a b => some (pack [(30, 1), (27, t.toNat), (21, 24), (18, e.toNat), (16, y.toNat), (11, d.toNat), (6, a.toNat), (1, b.toNat)])
  | .vsra t e y d a b => some (pack [(30, 1), (27, t.toNat), (21, 25), (18, e.toNat), (16, y.toNat), (11, d.toNat), (6, a.toNat), (1, b.toNat)])
  | .vimin t e y d a b f => some (pack [(30, 1), (27, t.toNat), (21, 26), (18, e.toNat), (16, y.toNat), (11, d.toNat), (6, a.toNat), (1, b.toNat), (0, f.toNat)])
  | .vimax t e y d a b f => some (pack [(30, 1), (27, t.toNat), (21, 27), (18, e.toNat), (16, y.toNat), (11, d.toNat), (6, a.toNat), (1, b.toNat), (0, f.toNat)])
  | .vcmp t y c m a b f => some (pack [(30, 1), (27, t.toNat), (21, 32), (16, y.toNat), (13, c.toNat), (11, m.toNat), (6, a.toNat), (1, b.toNat), (0, f.toNat)])
  | .vsel t e k d a b => some (pack [(30, 1), (27, t.toNat), (21, 33), (18, e.toNat), (16, k.toNat), (11, d.toNat), (6, a.toNat), (1, b.toNat)])
  | .vcqAny t m => some (pack [(30, 1), (27, t.toNat), (21, 34), (6, m.toNat)])
  | .vcqAll t m => some (pack [(30, 1), (27, t.toNat), (21, 34), (6, m.toNat), (0, 1)])
  | .vmskAnd t d a b => some (pack [(30, 1), (27, t.toNat), (21, 35), (11, d.toNat), (6, a.toNat), (1, b.toNat)])
  | .vmskOr t d a b => some (pack [(30, 1), (27, t.toNat), (21, 35), (13, 1), (11, d.toNat), (6, a.toNat), (1, b.toNat)])
  | .vmskXor t d a b => some (pack [(30, 1), (27, t.toNat), (21, 35), (13, 2), (11, d.toNat), (6, a.toNat), (1, b.toNat)])
  | .vmskAndn t d a b => some (pack [(30, 1), (27, t.toNat), (21, 35), (13, 3), (11, d.toNat), (6, a.toNat), (1, b.toNat)])
  | .vmskNot t d a => some (pack [(30, 1), (27, t.toNat), (21, 35), (13, 4), (11, d.toNat), (6, a.toNat)])
  | .vmskSet t d => some (pack [(30, 1), (27, t.toNat), (21, 35), (13, 5), (11, d.toNat)])
  | .vmskClr t d => some (pack [(30, 1), (27, t.toNat), (21, 35), (13, 6), (11, d.toNat)])
  | .vmov t e d a => some (pack [(30, 1), (27, t.toNat), (21, 36), (18, e.toNat), (11, d.toNat), (6, a.toNat)])
  | .vmovi t e w d i => some (pack [(30, 1), (27, t.toNat), (21, 37), (18, e.toNat), (16, w.toNat), (11, d.toNat), (0, i.toNat)])
  | .vwin t n => some (pack [(30, 1), (27, t.toNat), (21, 38), (11, n.toNat)])
  | .vwait t m => some (pack [(30, 1), (27, t.toNat), (21, 39), (11, m.toNat)])
  | .vsig t m => some (pack [(30, 1), (27, t.toNat), (21, 39), (11, m.toNat), (0, 1)])
  | .vnop t => some (pack [(30, 1), (27, t.toNat), (21, 40)])
  | .vcvt t e y d a v f => some (pack [(30, 1), (27, t.toNat), (21, 41), (18, e.toNat), (16, y.toNat), (11, d.toNat), (6, a.toNat), (1, v.toNat), (0, f.toNat)])
  | .vpack t e y d a f => some (pack [(30, 1), (27, t.toNat), (21, 42), (18, e.toNat), (16, y.toNat), (11, d.toNat), (6, a.toNat), (1, f.toNat)])
  | .vunpk t e y d a f => some (pack [(30, 1), (27, t.toNat), (21, 43), (18, e.toNat), (16, y.toNat), (11, d.toNat), (6, a.toNat), (1, f.toNat)])
  | .vrsum t e y d a f => some (pack [(30, 1), (27, t.toNat), (21, 44), (18, e.toNat), (16, y.toNat), (11, d.toNat), (6, a.toNat), (0, f.toNat)])
  | .vrmax t e y d a f => some (pack [(30, 1), (27, t.toNat), (21, 45), (18, e.toNat), (16, y.toNat), (11, d.toNat), (6, a.toNat), (0, f.toNat)])
  | .vrmin t e y d a f => some (pack [(30, 1), (27, t.toNat), (21, 46), (18, e.toNat), (16, y.toNat), (11, d.toNat), (6, a.toNat), (0, f.toNat)])
  | .vperm t e d a i => some (pack [(30, 1), (27, t.toNat), (21, 47), (18, e.toNat), (11, d.toNat), (6, a.toNat), (1, i.toNat)])
  | .vbcast t e w d a i => some (pack [(30, 1), (27, t.toNat), (21, 48), (18, e.toNat), (16, w.toNat), (11, d.toNat), (6, a.toNat), (1, i.toNat)])
  | .vslide t e d a n => some (pack [(30, 1), (27, t.toNat), (21, 49), (18, e.toNat), (16, n.toNat / 64), (11, d.toNat), (6, a.toNat), (0, n.toNat % 64)])
  | .viota t e w d => some (pack [(30, 1), (27, t.toNat), (21, 50), (18, e.toNat), (16, w.toNat), (11, d.toNat)])
  | .vsld t e d q r => some (pack [(30, 1), (27, t.toNat), (21, 51), (18, e.toNat), (11, d.toNat), (6, q.toNat), (1, r.toNat)])
  | .vsst t e d q r => some (pack [(30, 1), (27, t.toNat), (21, 52), (18, e.toNat), (11, d.toNat), (6, q.toNat), (1, r.toNat)])
  | .vgath t e d i q => some (pack [(30, 1), (27, t.toNat), (21, 53), (18, e.toNat), (11, d.toNat), (6, i.toNat), (1, q.toNat)])
  | .vscat t e d i q => some (pack [(30, 1), (27, t.toNat), (21, 54), (18, e.toNat), (11, d.toNat), (6, i.toNat), (1, q.toNat)])
  | .vpart t k d i => some (pack [(30, 1), (27, t.toNat), (21, 55), (16, k.toNat), (12, d.toNat), (6, i.toNat)])
  | .vxs t w d a => some (pack [(30, 1), (27, t.toNat), (21, 56), (16, w.toNat), (11, d.toNat % 32), (6, a.toNat), (5, d.toNat / 32)])
  | .vxsPart t d => some (pack [(30, 1), (27, t.toNat), (21, 56), (11, d.toNat % 32), (5, d.toNat / 32), (0, 1)])
  | .vsx t e w d a => some (pack [(30, 1), (27, t.toNat), (21, 57), (18, e.toNat), (16, w.toNat), (11, d.toNat), (6, a.toNat % 32), (5, a.toNat / 32)])
  | .mma t c a b n m e s => some (pack [(30, 2), (27, t.toNat), (21, 1), (14, c.toNat), (10, a.toNat), (6, b.toNat), (5, n.toNat), (4, m.toNat), (3, e.toNat), (2, s.toNat)])
  | .mmasN4 t c a b n m e s => some (pack [(30, 2), (27, t.toNat), (21, 2), (14, c.toNat), (10, a.toNat), (6, b.toNat), (5, n.toNat), (4, m.toNat), (3, e.toNat), (2, s.toNat)])
  | .mmasN8 t c a b n m e s => some (pack [(30, 2), (27, t.toNat), (21, 2), (14, c.toNat), (10, a.toNat), (6, b.toNat), (5, n.toNat), (4, m.toNat), (3, e.toNat), (2, s.toNat), (0, 1)])
  | .mzero t c k => some (pack [(30, 2), (27, t.toNat), (21, 3), (14, c.toNat), (10, k.toNat)])
  | .mload t c a => some (pack [(30, 2), (27, t.toNat), (21, 4), (14, c.toNat), (10, a.toNat)])
  | .mout t c a s y => some (pack [(30, 2), (27, t.toNat), (21, 5), (14, c.toNat), (10, a.toNat), (2, s.toNat), (0, y.toNat)])
  | .mcopy t c s y => some (pack [(30, 2), (27, t.toNat), (21, 6), (14, c.toNat), (6, s.toNat), (1, y.toNat)])
  | .madd t c s n u y => some (pack [(30, 2), (27, t.toNat), (21, 7), (14, c.toNat), (6, s.toNat), (5, n.toNat), (2, u.toNat), (0, y.toNat)])
  | .mbias t c a n l u y => some (pack [(30, 2), (27, t.toNat), (21, 8), (14, c.toNat), (10, a.toNat), (5, n.toNat), (4, l.toNat), (2, u.toNat), (0, y.toNat)])
  | .mscale t c a n l y => some (pack [(30, 2), (27, t.toNat), (21, 9), (14, c.toNat), (10, a.toNat), (5, n.toNat), (4, l.toNat), (0, y.toNat)])
  | .mwait t k => some (pack [(30, 2), (27, t.toNat), (21, 10), (0, k.toNat)])
  | .msig t k => some (pack [(30, 2), (27, t.toNat), (21, 10), (3, 1), (0, k.toNat)])
  | .mnop t => some (pack [(30, 2), (27, t.toNat), (21, 11)])
  | .xmov t s d q r c b g => some (pack [(30, 3), (27, t.toNat), (21, 1), (17, s.toNat), (13, d.toNat), (12, q.toNat), (11, r.toNat), (9, c.toNat), (8, b.toNat), (5, g.toNat)])
  | .xgath t s d q r c b g i => some (pack [(30, 3), (27, t.toNat), (21, 2), (17, s.toNat), (13, d.toNat), (12, q.toNat), (11, r.toNat), (9, c.toNat), (8, b.toNat), (5, g.toNat), (0, i.toNat)])
  | .xscat t s d q r c b g i => some (pack [(30, 3), (27, t.toNat), (21, 3), (17, s.toNat), (13, d.toNat), (12, q.toNat), (11, r.toNat), (9, c.toNat), (8, b.toNat), (5, g.toNat), (0, i.toNat)])
  | .xset t s d q r c b g => some (pack [(30, 3), (27, t.toNat), (21, 4), (17, s.toNat), (13, d.toNat), (12, q.toNat), (11, r.toNat), (9, c.toNat), (8, b.toNat), (5, g.toNat)])
  | .xred t s d q r c b g o => some (pack [(30, 3), (27, t.toNat), (21, 5), (17, s.toNat), (13, d.toNat), (12, q.toNat), (11, r.toNat), (9, c.toNat), (8, b.toNat), (5, g.toNat), (0, o.toNat)])
  | .xfill t n q r c b g => some (pack [(30, 3), (27, t.toNat), (21, 6), (15, n.toNat), (12, q.toNat), (11, r.toNat), (9, c.toNat), (8, b.toNat), (5, g.toNat)])
  | .xdrain t n q r c b g => some (pack [(30, 3), (27, t.toNat), (21, 7), (15, n.toNat), (12, q.toNat), (11, r.toNat), (9, c.toNat), (8, b.toNat), (5, g.toNat)])
  | .xsync t q r c => some (pack [(30, 3), (27, t.toNat), (21, 8), (12, q.toNat), (11, r.toNat), (9, c.toNat)])
  | .xwait t k => some (pack [(30, 3), (27, t.toNat), (21, 9), (0, k.toNat)])
  | .xsig t k => some (pack [(30, 3), (27, t.toNat), (21, 9), (3, 1), (0, k.toNat)])
  | .xnop t => some (pack [(30, 3), (27, t.toNat), (21, 10)])
  | .callkRetire => none
  | .nestCycle => none
  | .nestExit => none
  | .loadDataReturn => none
  | .atomicopCompletion _ _ => none
  | .priResponse _ _ => none
  | .xlatRetire => none
  | .fenceRetire => none
  | .arrivalRegister => none
  | .phaseComplete _ => none
  | .barrierRelease _ => none
  | .planeStoreSettle => none
  | .muldivResult => none
  | .vResultLand => none
  | .conditionPushDeferred => none
  | .pendingTokenPush => none
  | .pathEntryPop _ => none
  | .mWordComplete => none
  | .xChunk => none
  | .xCommandComplete => none
  | .revocation _ _ => none
  | .pageMoveRequest _ _ _ => none
  | .timer => none
  | .interruptTake => none
  | .trapEntry => none
  | .replayEntryLand => none
  | .fatalError => none
  | .watchdog _ => none
  | .pauseHoldEnd => none
  | .haltRetire => none
  | .preemption => none
  | .restore _ => none
  | .dispatch _ => none
  | .regionComplete _ => none
  | .fairnessPeriod => none
  | .priorityPreemptWait _ => none
  | .policyCheck _ => none
  | .start _ _ _ => none
  | .abort _ _ => none
  | .signal _ _ => none
  | .ccbNoop _ _ => none
  | .ccbReservedOp _ _ _ => none
  | .query _ => none
  | .join _ => none
  | .regccb _ _ _ _ _ => none
  | .unregccb _ _ _ _ _ => none
  | .setsegtab _ _ _ _ _ => none
  | .regseg _ _ _ _ _ => none
  | .bumpgen _ _ _ _ _ => none
  | .declwin _ _ _ _ _ => none
  | .peerap _ _ _ _ _ => none
  | .setplane _ _ _ _ _ => none
  | .planealloc _ _ _ _ _ => none
  | .planefree _ _ _ _ _ => none
  | .dcmdReservedOp _ _ _ _ _ _ => none
  | .hostMemoryWrite _ _ => none
  | .atomicopRequest => none
  | .msixVectorUnmask _ => none
  | .remoteWriteApply _ => none
  | .lazyReleaseFlush => none
  | .flitReceive _ _ _ _ _ => none
  | .read _ _ _ _ => none
  | .readdata _ _ _ => none
  | .write _ _ _ _ _ _ => none
  | .op _ _ _ _ _ _ _ _ _ => none
  | .opdata _ _ _ => none
  | .ack _ _ => none
  | .peerLinkFail _ => none
  | .rillLinkRetraining _ => none
  | .rillLinkDown _ => none
  | .rillLinkUp _ => none
  | .dieIsolationStop _ => none
  | .isolationConfirm _ => none
  | .dieThrottle _ _ => none
  | .semget _ _ => none
  | .semput _ => none
  | .semaphoreLeaseExpiry => none
  | .getenum _ => none
  | .getcounters _ => none
  | .imagestage _ _ _ => none
  | .imagecommit _ _ => none
  | .keyinstall _ _ _ _ => none
  | .keydestroy _ _ _ => none
  | .setpolicy _ _ _ => none
  | .debug _ _ => none
  | .reset _ => none
  | .getMeasurements _ => none
  | .deviceReset => none
  | .powerOn => none
  | .trainingComplete _ _ => none
  | .counterPersist => none
  | .translationWalkComplete => none
  | .cfenceRetire => none
  | .stlRetire => none
  | .sluiceOrHomeAnswer => none
  | .instructionFetch _ => none
  | .powerLoss => none

end Sys2Proof
end

