-- ==== Sys2Proof/Machine/State.lean ====
section
/-! DEFINITION. The machine state: everything the manual gives the ULN-8 to hold, as plain data, with the
state after device reset, the faults and the refusals. -/
namespace Sys2Proof.Machine

/-- Bytes by address: strictly rising addresses, no zero byte (Machine/Memory.lean, log 3). -/
abbrev Mem := List Host.Cell

/-- The eighteen fields of a stream register, by field code (R73). -/
abbrev Stream := Vector Word 18

/-- The nest indices i0 to i5 of an issuing word (R88). -/
abbrev Idx := Vector Word 6

/-- One level of a nest configuration: TRIP, FIRST, LAST (R81). -/
structure Level where
  trip  : W32
  first : Word
  last  : Word
  deriving DecidableEq, Repr

/-- A configuration: sixteen streams and six levels; the core has an active and a shadow copy (R73, R81). -/
structure Conf where
  streams : Vector Stream 16
  levels  : Vector Level 6
  deriving DecidableEq, Repr

/-- One of the four causes' reports: an engine's fault with its cause code and TVAL (R189). -/
structure Fail where
  engine : Engine
  cause  : BitVec 8
  tval   : Word
  pc     : Word
  deriving DecidableEq, Repr

/-- What a V result in flight will write (the kinds 0 to 7 of R184). `lo` and `n` give the bytes of a
register that land (R155, log 21); `tile` the tile a stream write goes through (R208). -/
inductive Result where
  | signal
  | vreg (p : BitVec 8) (v : BitVec 8192) (lo n : Nat)
  | mask (m : BitVec 2) (v : BitVec 256)
  | cond (b : Bool)
  | sreg (d : BitVec 6) (v : Word)
  | row (v : BitVec 8192) (off : Nat) (n width : Nat)
  | scatter (v offs : BitVec 8192) (wide : Bool)
  | latch (v : Word)
  deriving DecidableEq, Repr

/-- A V result in flight: it lands when `remain` V cycles have passed (R155), pushes the tokens of `sig1` and
`sig2` (R24, R26) and sets `flags` (R48). `tile` is a tile that the word keeps READY (R157), `dirty` says that
the landing writes through it, `again` that a TRET or a restore re-injected it (R126). -/
structure Flight where
  remain : Nat
  result : Result
  sig1   : BitVec 3
  sig2   : BitVec 3
  flags  : BitVec 6
  tile   : Option (BitVec 6)
  dirty  : Bool
  again  : Bool
  deriving DecidableEq, Repr

/-- A fill whose check found an error: the stack and bank of the line, and whether it was corrected (R325, R340). -/
structure ErrorNote where
  stack     : Nat
  bank      : Nat
  corrected : Bool
  deriving DecidableEq, Repr

/-- An S word issued and not retired, apart from those that stop S (R131). A load carries the line that arrives poisoned
and what its fill adds to the error counters; `peer` names the request that it waits for. -/
inductive SWork where
  | muldiv (d : BitVec 6) (v : Word) (div : Bool)
  | load (d : BitVec 6) (v : Word) (poison : Option Word) (notes : List ErrorNote)
  | lds (d : BitVec 6) (v : Word)
  | xlat (h : BitVec 4) (va len : Word) (fn : BitVec 2) (pages : List Page)
  | fence (scope : BitVec 2)
  | cfence (scope : BitVec 2) (va len : Word)
  | stl (scope : BitVec 2)
  | peer (d : Option (BitVec 6)) (id size : Nat) (sext acq : Bool)
  deriving DecidableEq, Repr

/-- An S word in flight: cycles left, the partners its retirement signals (R24, R131), the
cycle it issued in, whether a TRET re-injected it (R132), and the handle it names (R212). -/
structure SFlight where
  remain : Nat
  work   : SWork
  sig    : BitVec 3
  born   : Nat
  again  : Bool
  handle : Option (BitVec 4)
  deriving DecidableEq, Repr

/-- A journal entry of X (R186, R222): the command word, the next chunk, the indices and the streams it
issued with, the old tag of a queued drain, the cycles until its next chunk, for XSET its value with the line it
came poisoned from, once it has been read (log 34), and whether it has begun since it was queued or replayed (R187). -/
structure JEntry where
  word  : W32
  next  : Nat
  idx   : Idx
  qs    : Stream
  qd    : Stream
  qi    : Stream
  old   : Word
  wait  : Nat
  value : Option (Word × Option Word)
  flags : BitVec 6
  begun : Bool
  deriving DecidableEq, Repr

/-- What a retiring S word does besides pushing its tokens: it pushes a condition bit (R27) or an entry of the three
path queues (R20), writes a control register (R145), queues a journal entry (PROBE, R209), raises a fault that follows it
(R149, R236), with the PC that the fault reports, or lets the word that issued in cycle `born` retire (R25). -/
inductive SEffect where
  | none
  | cond (b : Bool)
  | path (taken : Bool) (target : Word)
  | control (n : Nat) (v : Word)
  | journal (e : JEntry)
  | fault (cause : BitVec 8) (tval pc : Word)
  | release (born : Nat)
  deriving DecidableEq, Repr

/-- The retirement of an S word: the partners it signals, mask first (R26), and its effect (R25, R131). -/
structure Retire where
  sig1   : BitVec 3
  sig2   : BitVec 3
  effect : SEffect
  deriving DecidableEq, Repr

/-- What holds S from issuing (R131, R143, R150, R18, R126, R238, R265, R284). `answer` holds a word of op
0x3A for n cycles, with the result it will write, the record it took and the scratchpad offset it writes; `tret` says
that TRET has restored the state and retires. -/
inductive Hold where
  | none
  | bubble (n : Nat)
  | pause (n : Nat) (sig : BitVec 3)
  | callk (n : Nat) (target link : Word) (sig : BitVec 3)
  | answer (n : Nat) (i : Instr) (v : Word) (rec : BitVec 512) (off : Nat)
  | barrier (tag : BitVec 3) (sig : BitVec 3)
  | tret (n : Nat)
  | halt (n : Nat)
  deriving DecidableEq, Repr

/-- A path queue entry (R20). -/
structure PathEntry where
  taken  : Bool
  target : Word
  deriving DecidableEq, Repr

/-- The running nest (R85 to R95): `cycle` is the next nest cycle to issue; `counters` are the level
counters of R91; `checked` says that this core cycle's test has been made, `held` that the nest is frozen;
`body` is the body's words, empty after a TRET or a restore until they are read again. -/
structure Nest where
  rows     : Nat
  ii       : Nat
  cycle    : Nat
  counters : Idx
  checked  : Bool
  held     : Bool
  body     : List W32
  sig      : BitVec 3
  deriving DecidableEq, Repr

/-- An M word issued and not completed, with its streams and indices as it issued (R98). -/
structure MWord where
  instr  : Instr
  qa     : Stream
  qb     : Stream
  meta?  : List (BitVec 4)
  idx    : Idx
  remain : Nat
  tile   : List (BitVec 6)
  deriving DecidableEq, Repr

/-- What takes effect at the end of a cycle (R20, R25, R27, R145): a token from one engine to another, a
condition bit of V with its tokens, or the retirement of an S word. `wait` is in cycles. -/
inductive PushKind where
  | token (src dst : Engine)
  | cond (b : Bool) (sig1 sig2 : BitVec 3)
  | retire (w : Retire)
  deriving DecidableEq, Repr

structure Push where
  wait : Nat
  kind : PushKind
  deriving DecidableEq, Repr

/-- State of a handle (R211). -/
inductive HState where
  | invalid | valid | revoked
  deriving DecidableEq, Repr

/-- A handle: virtual base, length, fn of its XLAT, state and the pages it pins (R211). -/
structure Handle where
  va    : Word
  len   : Word
  fn    : BitVec 2
  state : HState
  pages : List Page
  deriving DecidableEq, Repr

/-- State of a tile (R207). -/
inductive TState where
  | empty | filling | ready | draining
  deriving DecidableEq, Repr

/-- A tile table entry (R207). -/
structure Tile where
  baseg  : BitVec 9
  lenm1  : BitVec 6
  used   : Bool
  state  : TState
  cls    : BitVec 3
  dirty  : Bool
  pin    : BitVec 4
  rank   : BitVec 6
  handle : BitVec 4
  block  : BitVec 60
  deriving DecidableEq, Repr

/-- A tile class descriptor (R206). -/
structure TClass where
  handle : BitVec 4
  lenm1  : BitVec 6
  valid  : Bool
  deriving DecidableEq, Repr

/-- A slot of V's replay store (R184): the 1 KiB value, with the bytes that land and the tile (log 21). -/
structure Slot where
  value : BitVec 8192
  lo    : Nat
  n     : Nat
  tile  : Option (BitVec 6)
  dirty : Bool
  deriving DecidableEq, Repr

/-- An XLAT walk or page request that freezes the core (R212, R213): the address it looks up, the end of the
range and the rights asked, and the interrupts that were pending when it began (R180). -/
structure Walk where
  remain : Nat
  va     : Nat
  fin    : Nat
  fn     : BitVec 2
  handle : BitVec 4
  asked  : Bool
  ipend  : BitVec 3
  deriving DecidableEq, Repr

/-- The phases of one core's share of a core cycle, in order (log 1): results land, the engines issue,
completions drain, the cycle closes, and the next core follows. -/
inductive Phase where
  | land | issueX | issueM | issueV | issueS | drain | close | over
  deriving DecidableEq, Repr

/-- What one engine holds: its program counter, walk count (R15, R17) and stall record (R22). -/
structure EngineState where
  pc    : Word
  walk  : Nat
  stall : Nat
  code  : Nat
  deriving DecidableEq, Repr

/-- An AMO that has sent its AtomicOp and has not issued (R309, R315): the number of that operation, the word, S's program
counter, and the nest cycle that it is due in. -/
structure Sent where
  id    : Nat
  instr : Instr
  pc    : Word
  cycle : Option Nat
  deriving DecidableEq, Repr

/-- The S side of a core: the register file, S words in flight, what holds S, and the control registers of
R146 that belong to the core. `late` are the words that cannot retire yet, oldest first, because a token push was
refused or the condition queue is full (R25, R27), each with the pushes it has still to make, and `stash` those of the
program while its handler runs. `sent` is the AMO whose AtomicOp has been sent, and `sentOut` that of the program while its
handler runs (R315). `raised` are the flags set in this cycle (R48), and `deferred` the interrupts that became pending
during a walk whose XLAT has not retired (R180). -/
structure Scalar where
  regs    : Vector Word 64
  flights : List SFlight
  hold    : Hold
  late    : List Retire
  stash   : List Retire
  sent    : Option Sent
  sentOut : Option Sent
  slip    : BitVec 11
  fpmode  : BitVec 3
  fpflags : BitVec 6
  raised  : BitVec 6
  tvec    : Word
  tcause  : BitVec 8
  tval    : Word
  timer   : W32
  armed   : Bool
  ien     : BitVec 3
  ipend   : BitVec 3
  deferred : BitVec 3
  handler : Bool
  deriving DecidableEq, Repr

/-- The V side: 256 physical registers, masks, window, latch, results in flight and the replay store. -/
structure VectorSide where
  regs    : Vector (BitVec 8192) 256
  masks   : Vector (BitVec 256) 4
  window  : BitVec 3
  latch   : Word
  flights : List Flight
  busy    : Nat
  replay  : List Slot
  deriving DecidableEq, Repr

/-- The M side: the accumulator store, the queue (R97, R98), and the signals of MNOP words that wait for so
many queued words to complete (R120). -/
structure MatrixSide where
  accs  : Vector (BitVec 32768) 128
  queue : List MWord
  sigs  : List (Nat × BitVec 3)
  deriving DecidableEq, Repr

/-- A 64-byte line of a peer that a chunk has asked for: its request, its machine line, and once the answer is there
its bytes and whether they are poisoned (R311). -/
structure PeerLine where
  id   : Nat
  line : Nat
  data : Option (List Byte × Bool)
  deriving DecidableEq, Repr

/-- The X side: the journal, its copy as of the last trap (R186), the signals of XSIG and XNOP words that wait for so
many journal entries to complete (R227), the lines of peers that the chunk at the head reads, and, of a chunk whose
writes are out to peers, its flags and the bytes that land once they are acknowledged (R311). -/
structure TransferSide where
  journal : List JEntry
  saved   : List JEntry
  sigs    : List (Nat × BitVec 3 × BitVec 3)
  lines   : List PeerLine
  sent    : Option (BitVec 6 × Nat)
  deriving DecidableEq, Repr

/-- The queues between the engines: token counts and refused pushes (R23, R25; entry 3e + p is the queue
toward engine e from its partner p), the condition queue (R27), the path queues of V, M and X (R20), and the
pushes of this cycle. -/
structure Queues where
  tok    : Vector Nat 12
  pend   : Vector Nat 12
  cond   : List Bool
  held   : List (Bool × BitVec 3 × BitVec 3)
  pathV  : List PathEntry
  pathM  : List PathEntry
  pathX  : List PathEntry
  pushes : List Push
  deriving DecidableEq, Repr

/-- Core storage: the partition word, scratchpad, granules written (R197, R203, R204), tiles and handles. -/
structure Store where
  part    : BitVec 6
  spad    : Mem
  dirty   : BitVec 512
  classes : Vector TClass 8
  tiles   : Vector Tile 64
  handles : Vector Handle 16
  deriving DecidableEq, Repr

/-- A deque of the queue bank with its Spillway counts (R265, R266). -/
structure Deque where
  bank     : List (BitVec 512)
  spill    : Nat
  spillPos : Nat
  lastNear : Option Nat
  lastFar  : Option Nat
  deriving DecidableEq, Repr

/-- What the Sluice keeps of the work a core holds: region, slot, the cycle of its first word (R274, R277), the cycle in
which it became free, a pre-emption asked of it, and the region it is pre-empted for (R281). -/
structure Job where
  region  : Option Nat
  slot    : Nat
  started : Nat
  freeAt  : Nat
  preempt : Bool
  preemptFor : Option Nat
  deriving DecidableEq, Repr

/-- One core. `fails` are the faults recorded in this cycle and `fatal` one that has become fatal; `stopped` says that
a trap or a pre-emption is due and no engine issues, and `entry` that the core stands at the boundary where it is
taken and waits for the S words in flight (R181, R192, R194). `unfetched` are the lines, as virtual addresses, that a
leading engine could not be given and S has not reached (R190), and `restoring` the handles that a restore has still
to translate (R198). -/
structure Core where
  id      : Nat
  running : Bool
  phase   : Phase
  engS    : EngineState
  engV    : EngineState
  engM    : EngineState
  engX    : EngineState
  scalar  : Scalar
  vec     : VectorSide
  mat     : MatrixSide
  xfer    : TransferSide
  queues  : Queues
  store   : Store
  active  : Conf
  shadow  : Conf
  idx     : Idx
  nest    : Option Nest
  walk    : Option Walk
  fails   : List Fail
  fatal   : Option Fail
  stopped : Bool
  entry   : Bool
  unfetched : List Word
  restoring : List (BitVec 4)
  deque   : Deque
  job     : Job
  deriving DecidableEq, Repr

/-- A member of a route tag (R231): its arrival, its pending-byte counter, an arrival word that has issued
and not registered (its cycle, and whether it is a STEP), whether the phase of its latest arrival is
unreleased, the cycle of that release once the phase has completed, whether the arrival was a BARA, and the
lowest word it stored that collided (R236). -/
structure Member where
  core     : Nat
  arrived  : Bool
  arriving : Bool
  steps    : Bool
  issued   : Nat
  count    : Int
  unreleased : Bool
  due      : Option Nat
  bara     : Bool
  collided : Option Word
  deriving DecidableEq, Repr

/-- A barrier route tag (R230, R231): the region that claimed it, its scope, and its state. -/
structure Tag where
  owner   : Option Nat
  device  : Bool
  phase   : W32
  stepped : Bool
  members : List Member
  deriving DecidableEq, Repr

/-- A collision rule (R232). -/
inductive PlaneRule where
  | priority | sumI32 | sumF32 | fault
  deriving DecidableEq, Repr

/-- A store to the next plane (R234 to R236): the word's machine address, the address as the member gave
it, the storing core, its priority, its value, and whether the data it carries is poisoned (R327). -/
structure PlaneStore where
  addr    : Nat
  va      : Word
  core    : Nat
  prio    : BitVec 8
  value   : W32
  bad     : Bool
  deriving DecidableEq, Repr

/-- A plane region (R232, R233): `next` holds the settled stores of the step in arrival order. -/
structure Plane where
  num   : Nat
  die   : Nat
  rule  : PlaneRule
  base  : Nat
  len   : Nat
  bound : Option (BitVec 3 × Nat)
  next  : List PlaneStore
  deriving DecidableEq, Repr

/-- What a save image has no field for (log 30): the S words that cannot retire yet, those of the program behind a
handler, the signals of XSIG and XNOP that wait, the replay slots, the streams of the journal entries, and the AMOs whose
AtomicOp has been sent. -/
structure Kept where
  slot  : Nat
  late  : List Retire
  stash : List Retire
  sigs  : List (Nat × BitVec 3 × BitVec 3)
  slots : List Slot
  saved : List JEntry
  sent  : Option Sent
  sentOut : Option Sent
  deriving DecidableEq, Repr

/-- States of a region (R271). -/
inductive RState where
  | idle | pending | running | joining | done | doneEmpty | faulted | aborted | rejected
  deriving DecidableEq, Repr

/-- What made a continuation's root FAULTED, ABORTED or REJECTED, as its block records it (R297): FKIND, cause, engine, core,
TVAL, PC and the RCB. -/
structure FaultRec where
  kind   : Nat
  cause  : Nat
  engine : Nat
  core   : Nat
  tval   : Word
  pc     : Word
  rcb    : Word
  deriving DecidableEq, Repr

/-- How a region ends once the writes to peers of its own and of its descendants are acknowledged (R272): the terminal
state, the reason, the fault to record, and whether deques held records. -/
structure Ending where
  state  : RState
  reason : Nat
  fault  : FaultRec
  left   : Bool
  deriving DecidableEq, Repr

/-- A launched region that is not terminal: its resolved fields (R269, R270) and what its Sluice keeps of it
(R272 to R288). `key` is the PASID and the RCB's address; `ccb` the slot of its continuation; `classes` and `tiles` the layout that the
launch configured (R206); `started` the core starts made; `images` the slots whose save image awaits restore, `kept` what those images have no field for; `children` the children still to end;
`serial` the order of launches; `readySince` and `deficit` are in units of wall time; `ending` how it ends, once its cores
have stopped. -/
structure Region where
  key       : Nat
  pasid     : BitVec 20
  rcb       : Word
  parent    : Option Nat
  ccb       : Option Nat
  state     : RState
  maxCores  : Nat
  gang      : Bool
  prio      : Nat
  domain    : Nat
  part      : BitVec 6
  codeLo    : Word
  codeTag   : Word
  entry     : Nat
  entryVa   : Word
  paramRcb  : Word
  tilesVa   : Word
  classes   : Vector TClass 8
  tiles     : Vector Tile 64
  spillBase : Word
  spillSize : Nat
  kind      : Nat
  order     : Nat
  counts    : List Nat
  seed      : Option (BitVec 512)
  sigAddr   : Word
  sigVal    : Word
  imageBase : Word
  imageStride : Nat
  chain     : List Word
  total     : Nat
  dispatched : Nat
  started   : Nat
  params    : List Word
  images    : List Nat
  kept      : List Kept
  children  : Nat
  chained   : Bool
  launchedAt : Nat
  serial    : Nat
  readySince : Option Nat
  deficit   : Int
  restarts  : Nat
  ending    : Option Ending
  deriving DecidableEq, Repr

/-- A registered continuation (R296, R297, R299): its block's address and PASID, the policy read at START,
its next policy check (wall time), a START held by GATE with its ARGS and ROOT (R283), and the key of its root. -/
structure Ccb where
  slot  : Nat
  addr  : Word
  pasid : BitVec 20
  park  : Bool
  check : Option Nat
  heldArgs : Option (Word × Word)
  root  : Option Nat
  deriving DecidableEq, Repr

/-- The remembered route of a host window (R308). -/
inductive Path where
  | untried | atomicOp | cache | none
  deriving DecidableEq, Repr

/-- A host window (R308). -/
structure Window where
  num  : Nat
  base : Nat
  len  : Nat
  cxlc : Bool
  path : Path
  deriving DecidableEq, Repr

/-- A peer aperture (R311). -/
structure Aperture where
  dev  : Nat
  base : Nat
  len  : Nat
  deriving DecidableEq, Repr

/-- States of a Rill link (R321). -/
inductive Link where
  | up | retraining | down
  deriving DecidableEq, Repr

/-- A line held in a die's instruction caches (R256; L0 and die caches merged, log 19). -/
structure ILine where
  die  : Nat
  addr : Nat
  data : BitVec 1024
  deriving DecidableEq, Repr

/-- A CODE write on its way to another die: its line and the sender's clock (R251, R256). -/
structure Remote where
  src   : Nat
  dst   : Nat
  line  : Nat
  stamp : Vector Nat 8
  deriving DecidableEq, Repr

/-- A deferred release (R252): its line, the core that released, the cycle its flush falls due, and what it covers: the
requests to peers of lower numbers, and the lines that the core owned. -/
structure Lazy where
  line  : Nat
  core  : Nat
  due   : Nat
  upto  : Nat
  owned : List Nat
  deriving DecidableEq, Repr

/-- An undo record (R328), in the undo area of a stack. -/
structure Undo where
  region : Nat
  line   : Nat
  stack  : Nat
  old    : List Byte
  poison : Bool
  tag    : Nat
  deriving DecidableEq, Repr

/-- The moves of one page (R229), as wall times. -/
structure Moves where
  pasid : BitVec 20
  va    : Nat
  times : List Nat
  settled : Option Nat
  deriving DecidableEq, Repr

/-- An error in the covered bits of a line: the symbol, and its bits that are flipped (R325, R326). -/
structure Flaw where
  line   : Nat
  symbol : Nat
  bits   : BitVec 16
  deriving DecidableEq, Repr

/-- An invalidation that waits for its acknowledgement (R215): the page, the handles over it that a core held, the cycle
of the revocation, and the frame of a page move that follows it. -/
structure Inval where
  page  : Page
  held  : List (Nat × BitVec 4)
  since : Nat
  move  : Option Nat
  deriving DecidableEq, Repr

/-- The lifetime counters of R340. Corrected errors are kept for 64 banks of each stack (log 85). -/
structure Counters where
  hours        : Vector (Vector W32 8) 8
  droop        : Vector W32 8
  corrected    : Vector (Vector W32 64) 12
  uncorrected  : Vector W32 12
  retrains     : Vector W32 10
  throttle     : Vector W32 8
  power        : W32
  deriving DecidableEq, Repr

/-- Management policy (R326, R328, R335). -/
structure Policy where
  tolerant : List Tolerant
  undoMib  : BitVec 16
  deriving DecidableEq, Repr

/-- The Glaes controller (R335 to R340): semaphore, staged image, versions and images in effect and committed, fused
minimum security versions, policy in effect and set, the last reply, counters, the counters and the throttle time below an hour as they
were last stored, when they are stored next, and `samples`, the ten-minute samples of each die and temperature bin that do not
make an hour yet. -/
structure Glaes where
  holder   : Option Port
  lease    : Nat
  lastHolder : Option Port
  staged   : List Byte
  dtver    : W32
  fwver    : W32
  bdver    : W32
  dtImage  : List Byte
  fwImage  : List Byte
  bdImage  : List Byte
  nextDt   : Option (W32 × List Byte)
  nextFw   : Option (W32 × List Byte)
  nextBd   : Option (W32 × List Byte)
  minSec   : Vector W32 3
  policy   : Policy
  nextPolicy : Policy
  reply    : List Byte
  counters : Counters
  saved    : Counters
  savedTime : Vector Nat 8
  persistAt : Nat
  samples  : Vector (Vector Nat 8) 8
  deriving DecidableEq, Repr

/-- What a request to a peer is for (R311, R312): a load or atomic of S, a store of S, a line that X reads, bytes that X
writes, or an element update of XRED (its format, operation and operand). -/
inductive PeerKind where
  | load | write | xread | xwrite
  | xred (fmt o x : Nat)
  deriving DecidableEq, Repr

/-- A request to a peer that has no answer yet (R311): its number, its tag once it has been sent, the core and region it
is made for (`live` unless that core has stopped since), the machine line and the virtual address of that line, what it
is for, the packet, and the cycle it was made in. -/
structure PeerReq where
  id     : Nat
  tag    : Option (BitVec 8)
  core   : Nat
  region : Option Nat
  live   : Bool
  line   : Nat
  va     : Word
  kind   : PeerKind
  packet : Packet
  born   : Nat
  deriving DecidableEq, Repr

/-- An AtomicOp that has been sent (R309, R315): its number, the core that sent it, the page and virtual address it goes to,
what it does there, and once it has completed what comes of its AMO: PATH 1 is done, with the old value and its poison, PATH 2
goes through the cache, and else HOSTATOMIC. -/
structure AtomicReq where
  id   : Nat
  core : Nat
  page : Page
  va   : Nat
  op   : AmoOp
  size : Nat
  x    : Nat
  y    : Nat
  answer : Option (Path × Nat × Option Word)
  deriving DecidableEq, Repr

/-- A flit that is sent (R310): sequence number, the sequence it acknowledges, a retry request, and its packets. -/
structure Flit where
  seq     : BitVec 12
  ackd    : BitVec 12
  retry   : Bool
  packets : List Packet
  deriving DecidableEq, Repr

/-- A flit that has been sent on a link toward a device and is not acknowledged (R310). -/
structure Unacked where
  link    : Nat
  seq     : BitVec 12
  dev     : Nat
  packets : List Packet
  deriving DecidableEq, Repr

/-- The device apart from its cores. `owned` are the lines that a core of another die than their home's wrote last, with
that core (R334); `invalAcks` the pages whose invalidation has been acknowledged, newest first (R215); `atomics` the
AtomicOps that have been sent, oldest first (R315); `peerHeld` the requests of peers that wait for a deferred release (R252);
`lostLines` the writes that were dropped, with the virtual address of the line (R313, R334). -/
structure Device where
  grade    : BitVec 2
  powered  : Bool
  reduced  : Bool
  cycle    : Nat
  wall     : Nat
  turn     : Bool
  inbox    : List Instr
  mem      : Mem
  poison   : List Nat
  flaws    : List Flaw
  keys     : List (Nat × Nat × BitVec 512)
  keyGen   : Nat
  lineKeys : List (Nat × Nat)
  pages    : List Page
  tcache   : List (Nat × Page)
  icache   : List ILine
  marks    : List (Nat × Nat)
  remote   : List Remote
  clocks   : Vector (Vector Nat 8) 8
  lazy     : List Lazy
  tags     : Vector Tag 8
  planes   : List Plane
  planeMib : Vector Nat 8
  settling : List PlaneStore
  segtab   : Word
  segcnt   : Nat
  bootKey  : BitVec 256
  enumBase : Word
  enumGen  : W32
  degraded : Bool
  devId    : BitVec 8
  dcmd     : Word
  darg     : Vector Word 4
  dres     : Vector Word 2
  dstat    : Word
  hostCxl  : Bool
  ccbs     : List Ccb
  joins    : List Nat
  windows  : List Window
  apertures : List Aperture
  msixMask : BitVec 2048
  msixPend : BitVec 2048
  messages : List Nat
  hostResult : Word
  hostAnswer : AtomicAnswer
  regions  : List Region
  serial   : Nat
  links    : Vector Link 10
  retrainAt : List (Nat × Nat)
  peerLinks : Vector Bool 12
  routes   : List (Nat × Nat)
  peerSeq  : Vector (BitVec 12) 12
  peerRetry : Vector Bool 12
  sendSeq  : Vector (BitVec 12) 12
  unacked  : List Unacked
  peerOut  : List (Nat × Flit)
  peerReqs : List PeerReq
  peerNext : Nat
  peerHeld : List Packet
  lostLines : List (Nat × Nat)
  owned    : List (Nat × Nat)
  invals   : List Inval
  invalAcks : List (BitVec 20 × Nat)
  atomics  : List AtomicReq
  atomicNext : Nat
  isolated : Vector Bool 8
  failed   : Vector Bool 8
  stopAt   : List (Nat × Nat)
  throttled : Vector (Option Nat) 8
  throttleTime : Vector Nat 8
  undo     : List Undo
  moves    : List Moves
  glaes    : Glaes
  period   : Nat
  drawn    : Nat
  deriving DecidableEq, Repr

/-- The machine: the core whose turn it is, the other cores that are not idle, and the device. A core in
neither place is idle with its region-start contents (log 1). -/
structure State where
  core   : Core
  others : List Core
  dev    : Device
  deriving DecidableEq, Repr

/-- Why the machine stops. -/
inductive Fault where
  /-- raised by `step` when the module has no power (R340): there is no machine to step. Safe. -/
  | noPower
  deriving DecidableEq, Repr

/-- Why a step is refused. -/
inductive Refusal where
  /-- raised by `exec` for a constructor that has no meaning yet. Safe. -/
  | notModelled (mnemonic : String)
  deriving DecidableEq, Repr

/-! ### Reset -/

def Stream.zero : Stream := Vector.replicate 18 0
def Idx.zero : Idx := Vector.replicate 6 0
def Level.reset : Level := ⟨1, 0, 0⟩
/-- R73, R81: zero streams, trip counts of 1, zero masks. -/
def Conf.reset : Conf := ⟨Vector.replicate 16 Stream.zero, Vector.replicate 6 Level.reset⟩
def Handle.reset : Handle := ⟨0, 0, 0, .invalid, []⟩
def Tile.reset : Tile := ⟨0, 0, false, .empty, 0, false, 0, 0, 0, 0⟩
def TClass.reset : TClass := ⟨0, 0, false⟩
def EngineState.reset (pc : Word) : EngineState := ⟨pc, 0, 0, 0⟩

/-- R128, R19, R46, R47, R121, R146: registers at region start. -/
def Scalar.reset : Scalar :=
  { regs := Vector.replicate 64 0, flights := [], hold := .none, late := [], stash := [],
    sent := none, sentOut := none, slip := 128, fpmode := 0, fpflags := 0, raised := 0,
    tvec := 0, tcause := 0, tval := 0, timer := 0, armed := false, ien := 7, ipend := 0, deferred := 0, handler := false }

/-- R152, R165, R176. -/
def VectorSide.reset : VectorSide :=
  ⟨Vector.replicate 256 0, Vector.replicate 4 0, 0, 0, [], 0, []⟩

/-- R97. -/
def MatrixSide.reset : MatrixSide := ⟨Vector.replicate 128 0, [], []⟩
def TransferSide.reset : TransferSide := ⟨[], [], [], [], none⟩
def Queues.reset : Queues := ⟨Vector.replicate 12 0, Vector.replicate 12 0, [], [], [], [], [], []⟩

/-- R203: the reset partition word 0x21. -/
def Store.reset : Store :=
  ⟨0x21, [], 0, Vector.replicate 8 TClass.reset, Vector.replicate 64 Tile.reset,
    Vector.replicate 16 Handle.reset⟩
def Deque.reset : Deque := ⟨[], 0, 0, none, none⟩

/-- An idle core: its contents are those of a region start (R73, R81, R97, R128, R152, R197). -/
def Core.idle (id : Nat) : Core :=
  { id, running := false, phase := .land, engS := .reset 0, engV := .reset 0, engM := .reset 0,
    engX := .reset 0, scalar := .reset, vec := .reset, mat := .reset, xfer := .reset, queues := .reset,
    store := .reset, active := .reset, shadow := .reset, idx := .zero, nest := none, walk := none,
    fails := [], fatal := none, stopped := false, entry := false, unfetched := [], restoring := [],
      deque := .reset, job := ⟨none, 0, 0, 0, false, none⟩ }

def Tag.reset : Tag := ⟨none, false, 0, false, []⟩

def Counters.zero : Counters :=
  ⟨Vector.replicate 8 (Vector.replicate 8 0), Vector.replicate 8 0, Vector.replicate 12 (Vector.replicate 64 0),
    Vector.replicate 12 0, Vector.replicate 10 0, Vector.replicate 8 0, 0⟩

def Glaes.reset : Glaes :=
  { holder := none, lease := 0, lastHolder := none, staged := [], dtver := 0, fwver := 0, bdver := 0,
    dtImage := [], fwImage := [], bdImage := [], nextDt := none, nextFw := none, nextBd := none, minSec := Vector.replicate 3 0,
    policy := ⟨[], 0⟩, nextPolicy := ⟨[], 0⟩, reply := [], counters := .zero, saved := .zero, savedTime := Vector.replicate 8 0,
    persistAt := 12600000000000,
    samples := Vector.replicate 8 (Vector.replicate 8 0) }

/-- The device at power-on: grade ULN-8X (log 5), reduced service (R339), no plane partition (R232),
SEGTAB, ENUMBASE and the boot key at zero (logs 6, 7), MSI-X vectors masked (log 24). -/
def Device.reset : Device :=
  { grade := 0, powered := true, reduced := true, cycle := 0, wall := 0, turn := true, inbox := [], mem := [],
    poison := [], flaws := [], keys := [], keyGen := 0, lineKeys := [], pages := [], tcache := [], icache := [],
    marks := [], remote := [], clocks := Vector.replicate 8 (Vector.replicate 8 0), lazy := [],
    tags := Vector.replicate 8 Tag.reset, planes := [], planeMib := Vector.replicate 8 0, settling := [],
    segtab := 0, segcnt := 0, bootKey := 0, enumBase := 0, enumGen := 0, degraded := false, devId := 0,
    dcmd := 0, darg := Vector.replicate 4 0, dres := Vector.replicate 2 0, dstat := 0, hostCxl := true,
    ccbs := [], joins := [], windows := [], apertures := [], msixMask := BitVec.allOnes 2048, msixPend := 0,
    messages := [], hostResult := 0, hostAnswer := .success, regions := [], serial := 0,
    links := Vector.replicate 10 .up, retrainAt := [], peerLinks := Vector.replicate 12 true, routes := [],
    peerSeq := Vector.replicate 12 0, peerRetry := Vector.replicate 12 false, sendSeq := Vector.replicate 12 0,
    unacked := [], peerOut := [], peerReqs := [], peerNext := 0, peerHeld := [],
    lostLines := [], owned := [], invals := [], invalAcks := [], atomics := [], atomicNext := 0, isolated := Vector.replicate 8 false, failed := Vector.replicate 8 false, stopAt := [],
    throttled := Vector.replicate 8 none, throttleTime := Vector.replicate 8 0, undo := [], moves := [], glaes := .reset,
    period := 0, drawn := 0 }

/-- The machine right after device reset: no core runs, and no memory is listed. -/
def State.reset : State := ⟨Core.idle 0, [], Device.reset⟩

end Sys2Proof.Machine
end

