-- ==== Sys2Proof/Machine/Memory.lean ====
section
/-! DEFINITION. Memory as a list of cells in one canonical form, its byte read and write, and the
little-endian reading of runs of bytes (spec/00 R4). -/
namespace Sys2Proof.Machine

/-- What an address that no cell lists reads as: zero (log 3). -/
def unlisted : Byte := 0

/-- The canonical form: addresses strictly rising from `lo`, no listed byte equal to `unlisted`. -/
def Mem.wfFrom : Nat → Mem → Bool
  | _, [] => true
  | lo, (a, b) :: m => decide (lo ≤ a) && b != unlisted && Mem.wfFrom (a + 1) m

def Mem.wf (m : Mem) : Bool := Mem.wfFrom 0 m

/-- The byte at an address. -/
def Mem.get : Mem → Nat → Byte
  | [], _ => unlisted
  | (k, v) :: m, a => if k = a then v else Mem.get m a

/-- The cell of a byte, none for the byte that an unlisted address reads as. -/
def Mem.cell (a : Nat) (b : Byte) (m : Mem) : Mem := if b = unlisted then m else (a, b) :: m

/-- Writes one byte. -/
def Mem.set : Mem → Nat → Byte → Mem
  | [], a, b => Mem.cell a b []
  | (k, v) :: m, a, b =>
    if a < k then Mem.cell a b ((k, v) :: m)
    else if a = k then Mem.cell a b m
    else (k, v) :: Mem.set m a b

/-- Writes bytes at rising addresses from `a`. -/
def Mem.write (m : Mem) (a : Nat) : List Byte → Mem
  | [] => m
  | b :: bs => Mem.write (m.set a b) (a + 1) bs

/-- The n bytes from `a`. -/
def Mem.bytes (m : Mem) (a : Nat) : Nat → List Byte
  | 0 => []
  | n + 1 => m.get a :: Mem.bytes m (a + 1) n

/-- The number whose little-endian bytes these are (R4). -/
def leNat : List Byte → Nat
  | [] => 0
  | b :: bs => b.toNat + 256 * leNat bs

/-- The n little-endian bytes of a number (R4). -/
def leBytes : Nat → Nat → List Byte
  | 0, _ => []
  | n + 1, v => BitVec.ofNat 8 v :: leBytes n (v / 256)

/-- The number held in the n bytes from `a`. -/
def Mem.load (m : Mem) (a n : Nat) : Nat := leNat (m.bytes a n)

/-- Stores the low n bytes of a number at `a`. -/
def Mem.store (m : Mem) (a n v : Nat) : Mem := m.write a (leBytes n v)

/-- Clears every byte of a range. -/
def Mem.clear (m : Mem) (lo n : Nat) : Mem := m.filter (fun c => c.1 < lo || lo + n ≤ c.1)

/-- The low w bits of a value at bit w·i (R153). -/
def bitsAt {n : Nat} (v : BitVec n) (w i : Nat) : Nat := (v.extractLsb' (w * i) w).toNat

/-- Elements of w bits packed from bit 0 up (R153). -/
def packBits (w : Nat) : List Nat → Nat
  | [] => 0
  | x :: xs => x % 2 ^ w + 2 ^ w * packBits w xs

end Sys2Proof.Machine
end

