-- ==== Sys2Proof/Machine/Ops.lean ====
section
/-! DEFINITION. The named operations over a core's registers, queues, engines and turns that the meanings
share (spec/02, spec/07 R128 to R131). -/
namespace Sys2Proof.Machine

/-! ### The device's shape (R1, R322) -/

def Device.dies (d : Device) : Nat := if d.grade = 2 then 6 else 8
def Device.perDie (d : Device) : Nat := if d.grade = 0 then 24 else 22
def Device.liveCores (d : Device) : Nat := d.dies * d.perDie
/-- The logical die of a core (R322). -/
def Device.dieOf (d : Device) (core : Nat) : Nat := core / d.perDie
/-- Cluster and position of a core in its die (R322). -/
def Device.place (d : Device) (core : Nat) : Nat × Nat :=
  let r := core % d.perDie
  if d.grade = 0 then (r / 8, r % 8)
  else if r < 7 then (0, r) else if r < 14 then (1, r - 7) else (2, r - 14)
/-- Clusters of a die with at least n live cores count their cores so (R322). -/
def Device.clusterSize (d : Device) (cl : Nat) : Nat := if d.grade = 0 ∨ cl = 2 then 8 else 7

/-! ### Registers (R128) -/

/-- The value of a scalar register; s0 reads zero (R128). -/
def Core.reg (c : Core) (r : BitVec 6) : Word := if r = 0 then 0 else c.scalar.regs[r.toNat]'r.isLt

/-- Writes a scalar register; a write to s0 is discarded (R128). -/
def Core.setReg (c : Core) (r : BitVec 6) (v : Word) : Core :=
  if r = 0 then c else { c with scalar := { c.scalar with regs := c.scalar.regs.set r.toNat v r.isLt } }

/-- The odd register of the pair whose even register is 2k, and the even one. -/
def pairEven (k : BitVec 5) : BitVec 6 := k ++ (0 : BitVec 1)
def pairOdd (k : BitVec 5) : BitVec 6 := k ++ (1 : BitVec 1)

/-! ### Engines, program counters and walk counts (R15, R17) -/

def Core.eng (c : Core) : Engine → EngineState
  | .s => c.engS
  | .v => c.engV
  | .m => c.engM
  | .x => c.engX

def Core.setEng (c : Core) (e : Engine) (x : EngineState) : Core :=
  match e with
  | .s => { c with engS := x }
  | .v => { c with engV := x }
  | .m => { c with engM := x }
  | .x => { c with engX := x }

/-- Moves an engine to `pc` as one more word of its walk (R17). -/
def Core.moveTo (c : Core) (e : Engine) (pc : Word) : Core :=
  c.setEng e { c.eng e with pc := pc, walk := (c.eng e).walk + 1, stall := 0 }

/-- Passes or issues a word: the next word in address order (R15, R17). In a running nest the engines'
program counters stay at the NEST word (R95). -/
def Core.pass (c : Core) (e : Engine) : Core :=
  if c.nest.isSome then c.setEng e { c.eng e with stall := 0 } else c.moveTo e ((c.eng e).pc + 4)

/-- The smallest walk count once engine `e` has made one more step. -/
def Core.minWalk (c : Core) (e : Engine) : Nat :=
  let w := fun f => if f = e then (c.eng f).walk + 1 else (c.eng f).walk
  Nat.min (Nat.min (w .s) (w .v)) (Nat.min (w .m) (w .x))

/-- Whether the slip window allows engine `e` one more step (R19). A handler's S words are bounded by no
other engine, since the others are held (R125). -/
def Core.slipOk (c : Core) (e : Engine) : Bool :=
  c.nest.isSome || c.scalar.handler || (c.eng e).walk + 1 ≤ c.minWalk e + c.scalar.slip.toNat

/-! ### Tokens (R23 to R26) -/

/-- The number of the queue toward `e` from its partner of letter `p`. -/
def queueNum (e : Engine) (p : Nat) : Nat := 3 * e.num + p

theorem queueNum_lt (e : Engine) (p : Fin 3) : queueNum e p.val < 12 := by
  cases e <;> simp [queueNum, Engine.num] <;> omega

/-- Tokens held toward `e` from partner `p`. -/
def Core.tokens (c : Core) (e : Engine) (p : Fin 3) : Nat := c.queues.tok[queueNum e p.val]'(queueNum_lt e p)

/-- Tokens that a word with tok field `t` and wait mask `m` needs from partner `p` (R24, R26). -/
def tokenNeed (t m : BitVec 3) (p : Fin 3) : Nat :=
  (if t.toNat = p.val + 1 then 1 else 0) + (if m.getLsbD p.val then 1 else 0)

/-- Whether every token a word needs is present (R24, R26). -/
def Core.tokensOk (c : Core) (e : Engine) (t m : BitVec 3) : Bool :=
  tokenNeed t m 0 ≤ c.tokens e 0 && tokenNeed t m 1 ≤ c.tokens e 1 && tokenNeed t m 2 ≤ c.tokens e 2

def Core.takeToken (c : Core) (e : Engine) (t m : BitVec 3) (p : Fin 3) : Core :=
  let tok := c.queues.tok.set (queueNum e p.val) (c.tokens e p - tokenNeed t m p) (queueNum_lt e p)
  { c with queues := { c.queues with tok := tok } }

/-- Takes every token a word waits for, in its issue cycle (R24, R26). -/
def Core.takeTokens (c : Core) (e : Engine) (t m : BitVec 3) : Core :=
  ((c.takeToken e t m 0).takeToken e t m 1).takeToken e t m 2

/-- The partners a tok field signals (R24), as a mask. -/
def sigMask (t : BitVec 3) : BitVec 3 :=
  match t.toNat with
  | 5 => 1
  | 6 => 2
  | 7 => 4
  | _ => 0

/-- One token pushed into the queue toward `dst` from `src`; a push past 15 is refused and stays pending
(R25). -/
def Queues.pushToken (q : Queues) (src dst : Engine) : Queues :=
  let p : Fin 3 := ⟨dst.letter src, by cases dst <;> cases src <;> decide⟩
  have h := queueNum_lt dst p
  if q.tok[queueNum dst p.val]'h < 15 then
    { q with tok := q.tok.set (queueNum dst p.val) (q.tok[queueNum dst p.val]'h + 1) h }
  else { q with pend := q.pend.set (queueNum dst p.val) (q.pend[queueNum dst p.val]'h + 1) h }

/-- A token that arrives toward S ends a PAUSE (R150). -/
def Core.wake (c : Core) : Core :=
  match c.scalar.hold with
  | .pause _ g => { c with scalar := { c.scalar with hold := .pause 0 g } }
  | _ => c

/-- One token pushed from `src` toward `dst`, or refused (R25); one that arrives at S ends a PAUSE. -/
def Core.pushToken (c : Core) (src dst : Engine) : Core :=
  let q := c.queues.pushToken src dst
  let c' : Core := { c with queues := q }
  if dst = .s ∧ q.tok ≠ c.queues.tok then c'.wake else c'

/-- Pushes a token to each masked partner of `src` at once. -/
def Core.pushTokens (c : Core) (src : Engine) (m : BitVec 3) : Core :=
  let c := if m.getLsbD 0 then c.pushToken src (src.partner 0) else c
  let c := if m.getLsbD 1 then c.pushToken src (src.partner 1) else c
  if m.getLsbD 2 then c.pushToken src (src.partner 2) else c

/-- The retirement of an S word at the end of the cycle `wait` cycles on: nothing is to be done for a word without
signal and effect. -/
def retirePush (wait : Nat) (m t : BitVec 3) (e : SEffect) : List Push :=
  if m = 0 ∧ t = 0 ∧ e = .none then [] else [⟨wait, .retire ⟨m, t, e⟩⟩]

/-- The token pushes of a signal mask of V, M or X, due at the end of the cycle `wait` cycles on. -/
def tokenPushes (wait : Nat) (src : Engine) (m : BitVec 3) : List Push :=
  (if m.getLsbD 0 then [⟨wait, .token src (src.partner 0)⟩] else []) ++
  (if m.getLsbD 1 then [⟨wait, .token src (src.partner 1)⟩] else []) ++
  (if m.getLsbD 2 then [⟨wait, .token src (src.partner 2)⟩] else [])

def Core.addPushes (c : Core) (ps : List Push) : Core :=
  { c with queues := { c.queues with pushes := c.queues.pushes ++ ps } }

/-- The signals of a word of engine `e`: its mask's, then its tok field's (R26), pushed at the end of the
cycle `wait` cycles on. -/
def Core.signal (c : Core) (wait : Nat) (e : Engine) (m t : BitVec 3) : Core :=
  match e with
  | .s => c.addPushes (retirePush wait m (sigMask t) .none)
  | _ => c.addPushes (tokenPushes wait e m ++ tokenPushes wait e (sigMask t))

/-- A compare that finds the condition queue full cannot retire, and neither can a fault whose token was refused at a trap
(R25, R27). -/
def Retire.blocked (w : Retire) (c : Core) : Bool :=
  match w.effect with
  | .cond _ => 16 ≤ c.queues.cond.length
  | .fault _ _ _ => (List.range 3).any (fun p => 0 < (c.queues.pend[3 * (p + 1)]?).getD 0)
  | _ => false

/-- Whether a refused push of engine `e` is still pending (R25); a word of S keeps its own. -/
def Core.pushPending (c : Core) (e : Engine) : Bool :=
  e = .s && c.scalar.late.any (fun w => !w.blocked c && (w.sig1 != 0 || w.sig2 != 0)) ||
  (let at' := fun (dst : Engine) (h : dst.letter e < 3) =>
    decide (0 < c.queues.pend[queueNum dst (dst.letter e)]'(queueNum_lt dst ⟨_, h⟩))
   at' (e.partner 0) (by cases e <;> decide) || at' (e.partner 1) (by cases e <;> decide) ||
    at' (e.partner 2) (by cases e <;> decide))

/-- What the retirement of S words on their way will push toward a partner: those in the pushes, and those of the
words in flight. -/
def Core.coming (c : Core) (p : Nat) : Nat :=
  let bit := fun (m : BitVec 3) => if m.getLsbD p then 1 else 0
  c.queues.pushes.foldl (fun n x => match x.kind with
    | .retire w => n + bit w.sig1 + bit w.sig2
    | _ => n) 0 + c.scalar.flights.foldl (fun n f => n + bit f.sig) 0

/-- Whether the tokens of a mask of S will certainly be accepted at its retirement (R25): S is partner A of each of
the others (R23). -/
def Core.sigRoom (c : Core) (m : BitVec 3) : Bool :=
  let ok := fun (p : Fin 3) => !m.getLsbD p.val ||
    decide (c.tokens (Engine.s.partner p) 0 + c.coming p.val < 15)
  m = 0 || (!c.pushPending .s && c.scalar.late.isEmpty && ok 0 && ok 1 && ok 2)

/-- Records a fault; its trap is taken at the boundary of this cycle (R181). -/
def Core.record (c : Core) (f : Fail) : Core := { c with fails := c.fails ++ [f] }

/-- A fault of S that follows the word that signals the partners of `m` and retires at the end of the cycle `wait`
cycles on (R149, R236): it is recorded at once, or, where a token may be refused, when the word retires. -/
def Core.failAfter (c : Core) (wait : Nat) (m : BitVec 3) (cause : BitVec 8) (tval pc : Word) : Core :=
  if c.sigRoom m then (c.record ⟨.s, cause, tval, pc⟩).addPushes (retirePush wait 0 m .none)
  else c.addPushes (retirePush wait 0 m (.fault cause tval pc))

/-- Whether a retirement raises a fault. -/
def Retire.isFault (w : Retire) : Bool :=
  match w.effect with
  | .fault _ _ _ => true
  | _ => false

/-- Whether an S word that raises a fault after it has still to retire: nothing follows it (R149, R236). -/
def Core.faultComing (c : Core) : Bool :=
  c.scalar.late.any Retire.isFault || c.queues.pushes.any (fun x => match x.kind with
    | .retire w => w.isFault
    | _ => false)

/-! ### Gates: whether a word can issue (R131, R181) -/

/-- Go, wait (with the stall code of R189 when the wait counts for WATCHDOG, R22), or fail with a cause and
its TVAL. -/
inductive Gate where
  | go
  | wait (code : Option Nat)
  | fail (cause : BitVec 8) (tval : Word)
  deriving DecidableEq, Repr

/-- The first of two gates that is not `go`. -/
def Gate.then (a b : Gate) : Gate := if a = .go then b else a

/-- Waits unless the condition holds. -/
def Gate.need (code : Option Nat) (ok : Bool) : Gate := if ok then .go else .wait code

/-- Fails unless the condition holds. -/
def Gate.check (cause : BitVec 8) (tval : Word) (ok : Bool) : Gate := if ok then .go else .fail cause tval

def Gate.all : List Gate → Gate
  | [] => .go
  | g :: gs => g.then (Gate.all gs)

/-- What every word of engine `e` waits for: its refused pushes, the slip window, its tokens (R19, R24, R25).
While an XLAT walks no engine issues (R213). -/
def Core.baseGate (c : Core) (e : Engine) (t m : BitVec 3) : Gate :=
  Gate.all [Gate.need none c.walk.isNone, Gate.need (some 1) (!c.pushPending e),
    Gate.need (some 4) (c.slipOk e), Gate.need (some 0) (c.tokensOk e t m)]

/-- The register an S word in flight will write. -/
def SFlight.dest (f : SFlight) : Option (BitVec 6) :=
  match f.work with
  | .muldiv d _ _ | .load d _ _ _ | .lds d _ => some d
  | .peer d _ _ _ _ => d
  | _ => none

/-- The interlock: no S word in flight will still write register r (R131). s0 is never awaited. -/
def Core.ready (c : Core) (r : BitVec 6) : Bool := r = 0 || !c.scalar.flights.any (fun f => f.dest == some r)

/-- Whether a word in flight holds memory, XLAT and barrier words: a fence (R255), or an acquire whose value a peer has
still to send, which every later access follows (R249). -/
def Core.fenced (c : Core) : Bool :=
  c.scalar.flights.any (fun f => match f.work with
    | .fence _ | .cfence _ _ _ => true
    | .peer _ _ _ _ acq => acq
    | _ => false)

/-- Whether a word in flight holds every fetch: a CFENCE, or an acquire whose value a peer has still to send (R258). -/
def Core.fetchHeld (c : Core) : Bool :=
  c.scalar.flights.any (fun f => match f.work with
    | .cfence _ _ _ => true
    | .peer _ _ _ _ acq => acq
    | _ => false)

/-- What S waits for at the words that cannot retire: room in the condition queue, or for a token (R22, R25, R27). -/
def Core.lateGate (c : Core) : Gate :=
  match c.scalar.late with
  | [] => Gate.need none !c.faultComing
  | _ => .wait (some (if c.pushPending .s then 1 else 3))

/-- S can issue when nothing holds it and every word before has retired or will (R131). -/
def Core.sFree (c : Core) : Gate :=
  match c.scalar.hold with
  | .none => c.lateGate
  | .halt _ => .wait (some 5)
  | _ => .wait none

/-- The gate of an S word with tok field t, wait mask m and the registers it reads and writes. -/
def Core.sGate (c : Core) (t m : BitVec 3) (rs : List (BitVec 6)) : Gate :=
  Gate.all [c.sFree, Gate.need none (rs.all c.ready), c.baseGate .s t m]

/-! ### Condition and path queues (R20, R27) -/

/-- Appends a bit of V with its tokens if there is room and V holds none; otherwise V holds it (R27). -/
def Core.pushCond (c : Core) (b : Bool) (g1 g2 : BitVec 3) : Core :=
  if c.queues.cond.length < 16 ∧ c.queues.held = [] then
    (({ c with queues := { c.queues with cond := c.queues.cond ++ [b] } } : Core).pushTokens .v g1).pushTokens .v g2
  else { c with queues := { c.queues with held := c.queues.held ++ [(b, g1, g2)] } }

/-- Whether a retirement pushes path entries. -/
def Retire.isPath (w : Retire) : Bool :=
  match w.effect with
  | .path _ _ => true
  | _ => false

/-- Room in all three path queues, counting the entries on their way (R20). -/
def Core.pathRoom (c : Core) : Bool :=
  let n := (c.queues.pushes.filter (fun p => match p.kind with | .retire w => w.isPath | _ => false)).length +
    (c.scalar.late.filter Retire.isPath).length
  c.queues.pathV.length + n < 32 && c.queues.pathM.length + n < 32 && c.queues.pathX.length + n < 32

/-- Whether a retirement queues a journal entry. -/
def Retire.isJournal (w : Retire) : Bool :=
  match w.effect with
  | .journal _ => true
  | _ => false

/-- Entries in X's journal, counting those on their way (R209, R222). -/
def Core.journalLoad (c : Core) : Nat :=
  c.xfer.journal.length +
    (c.queues.pushes.filter (fun p => match p.kind with | .retire w => w.isJournal | _ => false)).length +
    (c.scalar.late.filter Retire.isJournal).length

/-- SLIP from the value written: bits [10:0], clamped to 16 and 1,024 (R19). -/
def slipClamp (v : Word) : BitVec 11 :=
  let n := (v.extractLsb' 0 11).toNat
  BitVec.ofNat 11 (if n < 16 then 16 else if 1024 < n then 1024 else n)

/-- Writes a control register with the value of a CRW, at the word's retirement (R145): SLIP (R19), FPMODE
(R46), FPFLAGS with the flags that are set in the same cycle (R47, R48), TVEC (R121), TIMER, which also discards a pending TIMER interrupt (R122), and IEN
(R146). -/
def Core.writeControl (c : Core) (n : Nat) (v : Word) : Core :=
  let x := c.scalar
  let x := match n with
    | 0x04 => { x with slip := slipClamp v }
    | 0x05 => { x with fpmode := v.setWidth 3 }
    | 0x06 => { x with fpflags := v.setWidth 6 ||| x.raised }
    | 0x08 => { x with tvec := v &&& ~~~3 }
    | 0x0C => { x with timer := v.setWidth 32, armed := v.setWidth 32 != (0 : W32), ipend := x.ipend &&& ~~~1 }
    | 0x10 => { x with ien := v.setWidth 3 }
    | _ => x
  { c with scalar := x }

/-- An entry enters the three path queues (R20). -/
def Core.pushPath (c : Core) (x : PathEntry) : Core :=
  let q := c.queues
  { c with queues := { q with pathV := q.pathV ++ [x], pathM := q.pathM ++ [x], pathX := q.pathX ++ [x] } }

/-- What a retiring S word does besides its tokens. -/
def Core.act (c : Core) (e : SEffect) : Core :=
  match e with
  | .none => c
  | .cond b => { c with queues := { c.queues with cond := c.queues.cond ++ [b] } }
  | .path taken target => c.pushPath ⟨taken, target⟩
  | .control n v => c.writeControl n v
  | .journal e => { c with xfer := { c.xfer with journal := c.xfer.journal ++ [e] } }
  | .fault cause v pc => c.record ⟨.s, cause, v, pc⟩
  | .release _ => c

/-- Whether a retirement has an effect that keeps its place among those of other words: conditions, path entries, control
writes, journal entries and faults take effect in program order, also where a token holds one up (log 99). -/
def Retire.ordered (w : Retire) : Bool :=
  match w.effect with
  | .none | .release _ => false
  | _ => true

def Core.setLate (c : Core) (ws : List Retire) : Core := { c with scalar := { c.scalar with late := ws } }

/-- The push of S toward partner p, where the mask has it and the queue takes it; the mask without what was pushed. -/
def Core.tryToken (x : Core × BitVec 3) (p : Fin 3) : Core × BitVec 3 :=
  if x.2.getLsbD p.val ∧ x.1.tokens (Engine.s.partner p) 0 < 15 then
    (x.1.pushToken .s (Engine.s.partner p), x.2 &&& ~~~(BitVec.ofNat 3 (2 ^ p.val)))
  else x

/-- The pushes of S toward the partners of a mask: each is accepted or refused on its own terms (R26). -/
def Core.tryTokens (c : Core) (m : BitVec 3) : Core × BitVec 3 :=
  Core.tryToken (Core.tryToken (Core.tryToken (c, m) 0) 1) 2

/-- One word of S retires, as far as it can: it pushes its tokens, mask first, and has its effect once all are accepted; a
compare without room pushes none (R25 to R27). What is left of it waits. `behind` says that an effect before its own has
still to come. -/
def Core.tryRetire (c : Core) (behind : Bool) (w : Retire) : Core × List Retire :=
  if w.ordered && (behind || w.blocked c) then (c, [w])
  else
    let x := c.tryTokens w.sig1
    let y := x.1.tryTokens w.sig2
    if x.2 = 0 ∧ y.2 = 0 then (y.1.act w.effect, []) else (y.1, [{ w with sig1 := x.2, sig2 := y.2 }])

/-- Each of these words of S retires, or is late (R25, R131). -/
def Core.runLate (c : Core) (ws : List Retire) : Core :=
  let x := ws.foldl (fun (acc : Core × List Retire) w =>
    let y := acc.1.tryRetire (acc.2.any Retire.ordered) w
    (y.1, acc.2 ++ y.2)) (c, [])
  x.1.setLate x.2

/-- One more S word retires, or is late. -/
def Core.retire (c : Core) (w : Retire) : Core :=
  let y := c.tryRetire (c.scalar.late.any Retire.ordered) w
  y.1.setLate (c.scalar.late ++ y.2)

/-- The same at a trap, which records the refused pushes and lets the words retire (R183): a compare without room and
a fault that is to follow stay, with the effects behind them (log 78). -/
def Core.flushLate (c : Core) (ws : List Retire) : Core :=
  let x := ws.foldl (fun (acc : Core × List Retire) w =>
    if w.ordered && !w.isFault && (acc.2.any Retire.ordered || w.blocked acc.1) then (acc.1, acc.2 ++ [w])
    else
      let c := (acc.1.pushTokens .s w.sig1).pushTokens .s w.sig2
      if w.isFault then (c, acc.2 ++ [⟨0, 0, w.effect⟩]) else (c.act w.effect, acc.2)) (c, [])
  x.1.setLate x.2

/-- Takes one push that has fallen due. -/
def Core.applyPush (c : Core) (k : PushKind) : Core :=
  match k with
  | .token src dst => c.pushToken src dst
  | .cond b g1 g2 => c.pushCond b g1 g2
  | .retire w => c.retire w

/-- Whether a push is a retirement of S, whose condition bit enters before V's of the same cycle (R27). -/
def PushKind.first : PushKind → Bool
  | .retire _ => true
  | _ => false

/-- The retirements of S that fall due at the end of this cycle. -/
def Core.retireDue (c : Core) (ps : List Push) : Core :=
  (ps.filter (fun p => p.wait = 0 && p.kind.first)).foldl (fun c p => c.applyPush p.kind) c

/-- The VCQ bits that V holds enter while there is room, oldest first, for all but `room` of the queue's places. -/
def Core.retryHeld (c : Core) (room : Nat) : Core :=
  let n := 16 - c.queues.cond.length - room
  (c.queues.held.take n).foldl (fun (c : Core) x =>
    (({ c with queues := { c.queues with cond := c.queues.cond ++ [x.1] } } : Core).pushTokens .v x.2.1).pushTokens .v x.2.2)
    { c with queues := { c.queues with held := c.queues.held.drop n } }

/-- The places of the condition queue that compares of S take at the end of this cycle: their bits enter before V's (R27). -/
def Core.condsDue (c : Core) : Nat := (c.retireDue c.queues.pushes).queues.cond.length - c.queues.cond.length

/-- Takes every push that falls due at the end of the cycle, the condition bits of S first (R27). -/
def Core.applyDue (c : Core) (ps : List Push) : Core :=
  let rest := (ps.filter (·.wait ≠ 0)).map (fun p => { p with wait := p.wait - 1 })
  let c := ({ c with queues := { c.queues with pushes := rest } } : Core).retireDue ps
  (ps.filter (fun p => p.wait = 0 && !p.kind.first)).foldl (fun c p => c.applyPush p.kind) c

/-- Sets sticky flags (R47, R48). -/
def Core.setFlags (c : Core) (f : BitVec 6) : Core :=
  { c with scalar := { c.scalar with fpflags := c.scalar.fpflags ||| f, raised := c.scalar.raised ||| f } }

/-! ### Control writes and faults that wait for a token (R25, R121, R149) -/

/-- Every refused token push that now finds room succeeds. -/
def Queues.fit (q : Queues) (k : Nat) : Nat := Nat.min ((q.pend[k]?).getD 0) (15 - (q.tok[k]?).getD 0)

/-- Every refused token push that now finds room succeeds, and so do those of the S words that wait; a token toward S
ends a PAUSE (R25, R150). -/
def Core.retryTokens (c : Core) : Core :=
  let q := c.queues
  let tok : Vector Nat 12 := Vector.ofFn (fun k => q.tok[k] + q.fit k.val)
  let pend : Vector Nat 12 := Vector.ofFn (fun k => q.pend[k] - q.fit k.val)
  let c' : Core := { c with queues := { q with tok := tok, pend := pend } }
  let c' := if 0 < q.fit 0 + q.fit 1 + q.fit 2 then c'.wake else c'
  c'.runLate c'.scalar.late

/-- Whether an effect shows in the cycle in which its word retires: a control write and a fault (R121, R131, R149). -/
def SEffect.early (e : SEffect) : Bool :=
  match e with
  | .control _ _ | .fault _ _ _ => true
  | _ => false

/-- Whether a push is a retirement with such an effect that falls due at the end of this cycle. -/
def Push.early (p : Push) : Bool :=
  match p.kind with
  | .retire w => p.wait = 0 && w.effect.early
  | _ => false

/-- Such words have their effect before S issues, where the queues, whose tokens of this cycle V, M and X have taken by
then, will accept their tokens: `ahead` is the core as the retirements before leave it. -/
def Core.actEarly (c ahead : Core) : List Push → List Push → Core
  | done, [] => { c with queues := { c.queues with pushes := done } }
  | done, p :: ps =>
    let ahead' := if p.wait = 0 && p.kind.first then ahead.applyPush p.kind else ahead
    match p.kind with
    | .retire w =>
      if p.early && (ahead.tryRetire (ahead.scalar.late.any Retire.ordered) w).2.isEmpty then
        (c.act w.effect).actEarly ahead' (done ++ [⟨0, .retire { w with effect := .none }⟩]) ps
      else c.actEarly ahead' (done ++ [p]) ps
    | _ => c.actEarly ahead' (done ++ [p]) ps

/-- What the words of S that retire in this cycle show in it. -/
def Core.early (c : Core) : Core :=
  if c.queues.pushes.any Push.early then c.actEarly c.retryTokens [] c.queues.pushes else c

/-- Whether a word of S has such an effect to show. -/
def Core.earlyDue (c : Core) : Bool := c.queues.pushes.any Push.early && c.early.queues.pushes != c.queues.pushes

/-! ### Turns (log 1) -/

/-- TRET has restored the state, and retires: no engine issues and nothing in flight counts until it has (R126; log 90). -/
def Core.returning (c : Core) : Bool :=
  match c.scalar.hold with
  | .tret _ => true
  | _ => false

/-- Entering the drain phase: the M word at the head of the queue and the chunk at the head of the journal
spend one cycle (R98, R222). -/
def Core.enterDrain (c : Core) : Core :=
  let q := match c.mat.queue with
    | [] => []
    | w :: ws => { w with remain := w.remain - 1 } :: ws
  let j := match c.xfer.journal with
    | [] => []
    | e :: es => if c.returning then e :: es else { e with wait := e.wait - 1 } :: es
  { c with phase := .drain, mat := { c.mat with queue := q }, xfer := { c.xfer with journal := j } }

/-- The end of an engine's turn in a cycle. -/
def Core.endTurn (c : Core) (e : Engine) : Core :=
  match e with
  | .x => { c with phase := .issueM }
  | .m => { c with phase := .issueV }
  | .v => { c with phase := .issueS }
  | .s => c.enterDrain

/-- One more cycle that engine `e` waits; only the waits with a stall code count (R22). -/
def Core.countStall (c : Core) (e : Engine) (code : Option Nat) : Core :=
  let x := c.eng e
  c.setEng e (match code with
    | some k => { x with stall := x.stall + 1, code := k }
    | none => { x with stall := 0 })

/-- What an engine waits for that has no word to issue: the pushes of its own that were refused, or V's held bit
(R22, R25, R27). -/
def Core.quietStall (c : Core) (e : Engine) : Option Nat :=
  if c.pushPending e then some 1 else if e = .v ∧ c.queues.held ≠ [] then some 3 else none

/-- A cycle in which engine `e` waits. -/
def Core.stallTurn (c : Core) (e : Engine) (code : Option Nat) : Core := (c.countStall e code).endTurn e

/-! ### The modulo schedule (R88 to R90) -/

/-- TRIP of level l of the active configuration. -/
def Core.trip (c : Core) (l : Nat) : Nat := ((c.active.levels[l]?).map (·.trip.toNat)).getD 1

/-- N, the number of iterations. -/
def Core.iterations (c : Core) : Nat := (List.range 6).foldl (fun n l => n * c.trip l) 1

/-- The indices of iteration n. -/
def Core.indices (c : Core) (n : Nat) : Idx :=
  Vector.ofFn (fun l => BitVec.ofNat 64 (n / (List.range l.val).foldl (fun p k => p * c.trip k) 1 % Nat.max 1 (c.trip l.val)))

/-- Whether row r is masked out in an iteration of these indices (R89). -/
def Core.masked (c : Core) (r : Nat) (i : Idx) : Bool :=
  (List.range 6).any (fun l =>
    let x := (c.active.levels[l]?).getD .reset
    let v := (i[l]?).getD 0
    (x.first.getLsbD r && v != 0) || (x.last.getLsbD r && v.toNat + 1 != c.trip l))

/-- The NOP word of each engine with tok 0 (R30). -/
def isNop (w : W32) : Bool := w = 0x03400000 || w = 0x45000000 || w = 0x81600000 || w = 0xC1400000

/-- The body row of engine e that is due in the nest cycle that comes, with its word and its indices (R88): an
empty slot is not due. -/
def Core.dueWord (c : Core) (n : Nest) (e : Engine) : Option (Nat × W32 × Idx) :=
  (List.range n.rows).findSome? (fun r =>
    if r ≤ n.cycle ∧ (n.cycle - r) % n.ii = 0 ∧ (n.cycle - r) / n.ii < c.iterations then
      let i := c.indices ((n.cycle - r) / n.ii)
      match n.body[4 * r + e.num]? with
      | some w => if isNop w || c.masked r i then none else some (r, w, i)
      | none => none
    else none)

/-- The words of this nest cycle have passed their checks and issue in this core cycle (R92). -/
def Core.cleared (c : Core) : Bool :=
  match c.nest with
  | some n => n.checked && !n.held
  | none => false

/-- The address of the word engine `e` stands at: in a running nest, of the body word that is due (R192). -/
def Core.wordAddr (c : Core) (e : Engine) : Word :=
  match c.nest with
  | none => (c.eng e).pc
  | some n =>
    match c.dueWord n e with
    | some (r, _, _) => (c.eng e).pc + 4 + BitVec.ofNat 64 (16 * r + 4 * e.num)
    | none => (c.eng e).pc

/-- Records a fault of the word at engine `e`. -/
def Core.addFail (c : Core) (e : Engine) (cause : BitVec 8) (tval : Word) : Core :=
  c.record ⟨e, cause, tval, c.wordAddr e⟩

/-- Records a fault of S that is not tied to the word it stands at (R191, R192). -/
def Core.failS (c : Core) (cause : BitVec 8) (tval : Word) : Core :=
  c.record ⟨.s, cause, tval, c.engS.pc⟩

def State.onCore (s : State) (f : Core → Core) : State := { s with core := f s.core }

/-- Issues a word of engine `e` if its gate is open: it takes its tokens, has its effect, and the engine
passes it; otherwise the engine waits, or its fault is recorded with the word unissued (R24, R181). The words
of a nest cycle have passed their gates together (R92). -/
def State.issue (s : State) (e : Engine) (t m : BitVec 3) (g : Gate) (eff : State → State) : State :=
  match (if s.core.cleared then .go else g) with
  | .wait code => s.onCore (·.stallTurn e code)
  | .fail cause tval => s.onCore (fun c => (c.addFail e cause tval).endTurn e)
  | .go => (eff (s.onCore (fun c => (c.takeTokens e t m).pass e))).onCore (·.endTurn e)

/-- A word has issued: the stall of its engine is over (R22). -/
def Core.unstall (c : Core) (e : Engine) : Core := c.setEng e { c.eng e with stall := 0 }

/-- The same for a path word, NEST or HALT, whose effect moves the program counter itself. -/
def State.issueAt (s : State) (e : Engine) (t m : BitVec 3) (g : Gate) (eff : State → State) : State :=
  match g with
  | .wait code => s.onCore (·.stallTurn e code)
  | .fail cause tval => s.onCore (fun c => (c.addFail e cause tval).endTurn e)
  | .go => (eff (s.onCore (fun c => (c.takeTokens e t m).unstall e))).onCore (·.endTurn e)

/-! ### The pool (R203, R204) -/

/-- Marks the pool granules of the pool bytes from lo for n bytes (R197, R204). -/
def Core.touch (c : Core) (lo n : Nat) : Core :=
  if n = 0 then c
  else
    let a := lo / 4096
    let b := (lo + n - 1) / 4096
    let bits := BitVec.ofNat 512 ((2 ^ (b + 1 - a) - 1) * 2 ^ a)
    { c with store := { c.store with dirty := c.store.dirty ||| bits } }

/-- Bytes of the vector register file, of the accumulator store, of the scratchpad, and TSAVE (R203). -/
def Store.vregBytes (st : Store) : Nat := 32768 * 2 ^ (st.part.toNat % 4)
def Store.accuBytes (st : Store) : Nat := 65536 * (st.part.toNat / 4)
def Store.spadBytes (st : Store) : Nat := 2097152 - st.vregBytes - st.accuBytes
def Store.tsave (st : Store) : Nat := st.spadBytes - 16384
/-- Windows of the register file, accumulators present (R96, R152). -/
def Store.windows (st : Store) : Nat := 2 ^ (st.part.toNat % 4)
def Store.accs (st : Store) : Nat := st.accuBytes / 4096

/-- Writes scratchpad bytes and marks their granules. -/
def Core.writeSpad (c : Core) (o : Nat) (bs : List Byte) : Core :=
  let c := { c with store := { c.store with spad := c.store.spad.write o bs } }
  c.touch (c.store.vregBytes + c.store.accuBytes + o) bs.length

end Sys2Proof.Machine
end

