-- ==== Sys2Proof/Machine/Package.lean ====
section
/-! DEFINITION. The package as the enumeration table shows it: dies, stacks, links, latency classes and the
table's bytes (spec/19 R319 to R324), and the units of wall time (R2). -/
namespace Sys2Proof.Machine

/-! ### Wall time (R2): the unit is 1/21 ns, so that a core cycle is whole at both clocks -/

def cycleUnits (reduced : Bool) : Nat := if reduced then 35 else 12
def nsUnits (n : Nat) : Nat := 21 * n
def usUnits (n : Nat) : Nat := 21000 * n
def msUnits (n : Nat) : Nat := 21000000 * n

/-! ### Dies, links and stacks (R1, R320 to R322) -/

/-- The Rill links of a grade: the two dies and whether it is vertical, by link number (R322). -/
def Device.linkEnds (d : Device) : List (Nat × Nat × Bool) :=
  if d.grade = 2 then
    [(0, 1, false), (1, 2, false), (3, 4, false), (4, 5, false), (0, 3, true), (1, 4, true), (2, 5, true)]
  else
    [(0, 1, false), (1, 2, false), (2, 3, false), (4, 5, false), (5, 6, false), (6, 7, false),
     (0, 4, true), (1, 5, true), (2, 6, true), (3, 7, true)]

/-- The stacks a die carries (R322). -/
def Device.stacksOf (d : Device) (die : Nat) : List Nat :=
  if d.grade = 2 then
    match die with
    | 0 => [0, 1] | 1 => [2] | 2 => [3] | 3 => [4, 5] | 4 => [6] | 5 => [7] | _ => []
  else
    match die with
    | 0 => [0, 1] | 1 => [2] | 2 => [3] | 3 => [4, 5] | 4 => [6, 7] | 5 => [8] | 6 => [9] | 7 => [10, 11]
    | _ => []

/-- Number of HBM stacks (R1). -/
def Device.stacks (d : Device) : Nat := if d.grade = 2 then 8 else 12
def Device.stackGib (d : Device) : Nat := if d.grade = 0 then 64 else 48
/-- Bytes of HBM (R1). -/
def Device.hbmBytes (d : Device) : Nat := d.stacks * d.stackGib * 2 ^ 30

/-- The die that carries a stack. -/
def Device.dieOfStack (d : Device) (st : Nat) : Nat :=
  ((List.range d.dies).find? (fun die => (d.stacksOf die).contains st)).getD 0

/-- The stack of a frame offset under a mapping (R216). -/
def Device.stackOf (d : Device) (frame : Nat) (dieLocal : Option Nat) : Nat :=
  let n := frame / 2048
  match dieLocal with
  | none => n % d.stacks
  | some die =>
    match d.stacksOf die with
    | [a, b] => if n % 2 = 0 then a else b
    | [a] => a
    | _ => 0

def bitOf {n : Nat} (v : Vector Bool n) (i : Nat) : Bool := (v[i]?).getD false

/-- PRESENT: part of the grade and serving (R321, R339). -/
def Device.present (d : Device) (die : Nat) : Bool :=
  die < d.dies && (!d.reduced || die = 0) && !bitOf d.isolated die && !bitOf d.failed die

/-- Whether a link is UP. -/
def Device.linkUp (d : Device) (l : Nat) : Bool := (d.links[l]?).getD .down == .up

/-- The dies that a set of dies reaches over one UP link or none. -/
def Device.spread (d : Device) (ok : Nat → Bool) (set : List Nat) : List Nat :=
  (List.range d.dies).filter (fun x => ok x && (set.contains x ||
    (List.range d.linkEnds.length).any (fun l => d.linkUp l &&
      match d.linkEnds[l]? with
      | some (a, b, _) => (a = x && set.contains b) || (b = x && set.contains a)
      | none => false)))

/-- Hops from `set` to die b, with fuel (R323). -/
def Device.hopsFrom (d : Device) (ok : Nat → Bool) (b : Nat) : Nat → Nat → List Nat → Option Nat
  | 0, _, _ => none
  | fuel + 1, k, set => if set.contains b then some k else Device.hopsFrom d ok b fuel (k + 1) (d.spread ok set)

/-- The latency class from die a to die b (R323). -/
def Device.latencyClass (d : Device) (a b : Nat) : Nat :=
  if d.present a && d.present b then (Device.hopsFrom d d.present b 9 0 [a]).getD 0xFF else 0xFF

/-- The dies joined to die a by UP links. -/
def Device.component (d : Device) (a : Nat) : List Nat :=
  let ok := fun x => !bitOf d.failed x && !bitOf d.isolated x
  (List.range 8).foldl (fun set _ => d.spread ok set) [a]

/-- The live component (R333): the largest set of joined dies, with ties going to the set that holds die 0. -/
def Device.liveComponent (d : Device) : List Nat :=
  (List.range d.dies).foldl (fun best a =>
    let c := d.component a
    if best.length < c.length && !bitOf d.failed a && !bitOf d.isolated a then c else best) (d.component 0)

/-! ### The enumeration table (R319 to R321) -/

def b2n (b : Bool) : Nat := if b then 1 else 0

/-- The links of a die in ascending order (R321). -/
def Device.linksOf (d : Device) (die : Nat) : List Nat :=
  (List.range d.linkEnds.length).filter (fun l =>
    match d.linkEnds[l]? with
    | some (a, b, _) => a = die || b = die
    | none => false)

def Link.num : Link → Nat
  | .up => 0
  | .retraining => 1
  | .down => 2

/-- Doubleword i of the enumeration table. -/
def Device.enumWord (d : Device) (i : Nat) : Nat :=
  if i = 0 then
    1 + d.grade.toNat * 2 ^ 16 + b2n d.reduced * 2 ^ 18 + b2n d.degraded * 2 ^ 19 + d.dies * 2 ^ 20 +
      d.liveCores * 2 ^ 32
  else if i = 1 then d.enumGen.toNat
  else if i = 2 then d.glaes.dtver.toNat + d.glaes.fwver.toNat * 2 ^ 32
  else if i = 3 then
    d.devId.toNat + d.stacks * 2 ^ 8 + d.linkEnds.length * 2 ^ 16 + d.stackGib * 2 ^ 24 +
      d.glaes.policy.undoMib.toNat * 2 ^ 40
  else if i = 4 then (if d.reduced then 600000000 else 1750000000)
  else if i < 8 then 0
  else if i < 40 then
    let die := (i - 8) / 4
    if d.dies ≤ die then 0
    else if (i - 8) % 4 = 0 then
      let per := if d.grade = 2 then 3 else 4
      b2n (d.present die) + b2n (bitOf d.isolated die) * 2 + die / per * 4 + die % per * 8 +
        (if d.grade = 0 then 0xFFFFFF else 0xFF7F7F) * 2 ^ 8 +
        (if d.grade = 0 then 0xFFFF else 0x7FFF) * 2 ^ 32 + (d.planeMib[die]?).getD 0 * 2 ^ 48
    else if (i - 8) % 4 = 1 then
      let st := d.stacksOf die
      let ln := d.linksOf die
      d.perDie * die + d.perDie * 2 ^ 8 + (st[0]?).getD 15 * 2 ^ 16 + (st[1]?).getD 15 * 2 ^ 20 +
        (ln[0]?).getD 15 * 2 ^ 24 + (ln[1]?).getD 15 * 2 ^ 28 + (ln[2]?).getD 15 * 2 ^ 32
    else 0
  else if i < 50 then
    match d.linkEnds[i - 40]? with
    | some (a, b, v) => a + b * 8 + b2n v * 64 + ((d.links[i - 40]?).getD .down).num * 2 ^ 8
    | none => 0
  else if i < 58 then
    packBits 8 ((List.range 8).map (fun b => if i - 50 < d.dies ∧ b < d.dies then d.latencyClass (i - 50) b else 0))
  else if i < 64 then 0
  else
    packBits 32 ((List.range 2).map (fun h =>
      let c := 2 * (i - 64) + h
      if d.liveCores ≤ c then 0
      else d.dieOf c + (d.place c).1 * 8 + (d.place c).2 * 32 + b2n (!bitOf d.isolated (d.dieOf c)) * 256))

/-- Byte `off` of the enumeration page (R319): 1,280 bytes, and zero after them. -/
def Device.enumByte (d : Device) (off : Nat) : Byte :=
  if off < 1280 then BitVec.ofNat 8 (d.enumWord (off / 8) / 256 ^ (off % 8)) else 0

/-- A device-wide event on an MSI-X vector: a message, or the pending bit while the vector is masked
(R305). `messages` lists the vectors sent, newest first. -/
def Device.raiseEvent (d : Device) (v : Nat) : Device :=
  if d.msixMask.getLsbD v then { d with msixPend := d.msixPend ||| BitVec.ofNat 2048 (2 ^ v) }
  else { d with messages := v :: d.messages }

/-- Rewrites the table: GEN passes through an odd value to the next even one (R324), and the event of
vector 2,042 follows (R305). -/
def Device.bumpGen (d : Device) : Device := { d with enumGen := d.enumGen + 2 }.raiseEvent 2042

end Sys2Proof.Machine
end

