-- ==== Sys2Proof/Machine/Access.lean ====
section
/-! DEFINITION. Access to memory: page lookup and translation (spec/11 R211 to R216), the bytes of a frame
with their poison, key and undo records (spec/19 R325 to R334), publication marks (spec/13 R256), and
instruction fetch. Machine addresses are those of log 15. -/
namespace Sys2Proof

/-- The machine address of va in its page. -/
def Page.addr (p : Page) (va : Nat) : Nat := p.frame + (va - p.va)

/-- The virtual address of a machine line in its page (log 84). -/
def Page.lineVa (p : Page) (line : Nat) : Word := BitVec.ofNat 64 (p.va + (64 * line - p.frame))

/-- The rights a mapping grants: a mapping that sets W and X has none (R216), and one of a peer's PLANE or CODE page no
write (R311). -/
def Page.canRead (p : Page) : Bool := (p.r || p.x) && !(p.w && p.x)
def Page.canWrite (p : Page) : Bool := p.w && !p.x && !p.readOnly
def Page.canExec (p : Page) : Bool := p.x && !p.w && p.kind == .code

/-- The right that an XLAT fn asks of a page (R212). -/
def Page.grants (p : Page) (fn : BitVec 2) : Bool :=
  match fn.toNat with
  | 0 => p.canRead
  | 1 => p.canWrite
  | _ => p.canWrite && (p.kind == .device || p.kind == .host || p.kind == .peer)

end Sys2Proof

namespace Sys2Proof.Machine

/-! ### Machine addresses (log 15) -/

/-- Host physical memory, the CCB window, peer memory, and the enumeration page. -/
def hostBase : Nat := 2 ^ 58
def windowBase : Nat := 2 ^ 57
def peerBase : Nat := 2 ^ 60
def enumPage : Nat := 2 ^ 62
/-- The first frame of a die's plane partition: the partitions follow the memory of the largest grade, within the 40
bits of a frame offset (R331). -/
def planeBase (die : Nat) : Nat := 3 * 2 ^ 38 + die * 2 ^ 24

/-! ### Translation (R211 to R216) -/

/-- The page that maps va under a PASID. -/
def findPage (ps : List Page) (pasid : BitVec 20) (va : Nat) : Option Page :=
  ps.find? (fun p => p.pasid == pasid && decide (p.va ≤ va) && decide (va < p.va + 2 ^ p.bits))

/-- The region a key names. -/
def Device.region? (d : Device) (key : Nat) : Option Region := d.regions.find? (fun r => r.key = key)

/-- Changes the region a key names. -/
def Device.onRegion (d : Device) (key : Nat) (f : Region → Region) : Device :=
  { d with regions := d.regions.map (fun r => if r.key = key then f r else r) }

/-- The PASID of the current core's region; 0 where it has none. -/
def State.pasid (s : State) : BitVec 20 :=
  match s.core.job.region with
  | none => 0
  | some k => ((s.dev.region? k).map (·.pasid)).getD 0

/-! ### Lines, keys and poison (R325, R327, R331, R332) -/

def lineOf (a : Nat) : Nat := a / 64

/-- The key generation installed in a slot: slot 0 is plaintext, an empty slot has none (R331). -/
def Device.keyGenOf (d : Device) (slot : Nat) : Option Nat :=
  if slot = 0 then some 0 else (d.keys.find? (fun k => k.1 = slot)).map (·.2.1)

/-- The key generation a line was last written under. -/
def Device.lineKey (d : Device) (line : Nat) : Nat := ((d.lineKeys.find? (fun k => k.1 = line)).map (·.2)).getD 0

/-- Whether the memory behind a mapping of an address can be reached: it is there (R1), and its stack's die, or its
peer, can be reached (R313, R334). -/
def Device.reachable (d : Device) (kind : PageKind) (addr : Nat) (dieLocal : Option Nat) : Bool :=
  match kind with
  | .device | .code => enumPage ≤ addr ||
      (decide (addr < d.hbmBytes) && !bitOf d.isolated (d.dieOfStack (d.stackOf addr dieLocal)))
  | .plane => !bitOf d.isolated ((addr - planeBase 0) / 2 ^ 24)
  | .peer =>
    let id := (addr - peerBase) / 2 ^ 52
    d.routes.any (fun r => r.1 = id && bitOf d.peerLinks r.2)
  | .host => true

/-- Whether the code protects a line under a mapping: DEVICE and CODE memory (R325). -/
def Device.coded (d : Device) (kind : PageKind) (line : Nat) : Bool :=
  (kind == .device || kind == .code) && decide (64 * line < d.hbmBytes)

/-- The TOLERANT range of the policy that holds a line (R326). -/
def Device.tolerantAt (d : Device) (line : Nat) : Option Tolerant :=
  d.glaes.policy.tolerant.find? (fun r => decide (r.base ≤ 64 * line / 2 ^ 21) && decide (64 * line / 2 ^ 21 < r.base + r.count))

/-- The bits of a symbol that its line's code covers: in a TOLERANT frame the sign and exponent bits of each element, and
all of the last 1/16 of a frame of FP8 elements, which may hold scale records (R326). -/
def Device.covered (d : Device) (line symbol : Nat) : BitVec 16 :=
  match d.tolerantAt line with
  | none => BitVec.allOnes 16
  | some r =>
    match r.fmt with
    | 0 => if symbol % 2 = 0 then 0 else 0xFF80
    | 1 => 0xFC00
    | 2 => 0xFF80
    | f =>
      if 15 * 2 ^ 17 ≤ 64 * line % 2 ^ 21 then BitVec.allOnes 16
      else if f = 10 then 0xF8F8 else 0xFCFC

/-- The symbols of a line that are in error. -/
def Device.flawsOf (d : Device) (line : Nat) : List Flaw := d.flaws.filter (fun f => f.line = line)

/-- More symbols are in error than the code corrects: one, or in a TOLERANT frame two (R325, R326). -/
def Device.uncorrectable (d : Device) (line : Nat) : Bool :=
  decide ((if (d.tolerantAt line).isSome then 2 else 1) < (d.flawsOf line).length)

/-- Whether the check of a line that is filled under a key slot fails (R325): too many errors, or another key. -/
def Device.fillFails (d : Device) (key line : Nat) : Bool :=
  d.uncorrectable line || d.keyGenOf key != some (d.lineKey line)

/-- Whether a line read under a mapping arrives poisoned (R325, R327, R332, R334). -/
def Device.linePoisoned (d : Device) (kind : PageKind) (key line : Nat) : Bool :=
  d.poison.contains line || (d.coded kind line && d.fillFails key line)

/-- What the check of a fill of a line adds to the error counters: nothing for a line that carries its poison or cannot
be reached (R325, R327, R340). -/
def Device.fillNote (d : Device) (kind : PageKind) (key : Nat) (dieLocal : Option Nat) (line : Nat) : Option ErrorNote :=
  let st := d.stackOf (64 * line) dieLocal
  if !d.coded kind line || d.poison.contains line || bitOf d.isolated (d.dieOfStack st) then none
  else if d.fillFails key line then some ⟨st, Config.bank line % 64, false⟩
  else if d.flawsOf line ≠ [] then some ⟨st, Config.bank line % 64, true⟩
  else none

/-- One more in a 32-bit lifetime counter, which saturates (R340). -/
def countUp32 {n : Nat} (v : Vector W32 n) (i : Nat) : Vector W32 n :=
  let x := (v[i]?).getD 0
  v.setIfInBounds i (if x = BitVec.allOnes 32 then x else x + 1)

def Device.onCounters (d : Device) (f : Counters → Counters) : Device :=
  { d with glaes := { d.glaes with counters := f d.glaes.counters } }

/-- An error that a fill found is counted; of one that was not corrected, vector 2,044 tells (R305, R325, R340). -/
def Device.noteError (d : Device) (e : ErrorNote) : Device :=
  if e.corrected then
    d.onCounters (fun k =>
      let row := countUp32 ((k.corrected[e.stack]?).getD (Vector.replicate 64 0)) e.bank
      { k with corrected := k.corrected.setIfInBounds e.stack row })
  else (d.onCounters (fun k => { k with uncorrected := countUp32 k.uncorrected e.stack })).raiseEvent 2044

def Device.noteErrors (d : Device) (es : List ErrorNote) : Device := es.foldl Device.noteError d

/-- The lines that n bytes from addr touch. -/
def linesOf (addr n : Nat) : List Nat :=
  if n = 0 then [] else (List.range ((addr + n - 1) / 64 - addr / 64 + 1)).map (fun i => addr / 64 + i)

/-- A byte of memory; the enumeration page is computed (R319). -/
def Device.byteAt (d : Device) (a : Nat) : Byte := if enumPage ≤ a then d.enumByte (a - enumPage) else d.mem.get a

def Device.bytesAt (d : Device) (a : Nat) : Nat → List Byte
  | 0 => []
  | n + 1 => d.byteAt a :: Device.bytesAt d (a + 1) n

/-- Reads n bytes of a page at va: the bytes, and the virtual address of the first poisoned line among them. -/
def Device.readPage (d : Device) (p : Page) (va n : Nat) : List Byte × Option Word :=
  let a := p.addr va
  let bad := (linesOf a n).find? (fun l => d.linePoisoned p.kind p.key l || !d.reachable p.kind (64 * l) p.dieLocal)
  (d.bytesAt a n, bad.map p.lineVa)

/-- What the fills of such a read add to the error counters. -/
def Device.fillNotes (d : Device) (p : Page) (va n : Nat) : List ErrorNote :=
  (linesOf (p.addr va) n).filterMap (d.fillNote p.kind p.key p.dieLocal)

/-- An agent asks for lines: a release of another core that is deferred on one of them is flushed (R252), and a line that
a core of another die owned is owned no more (R334). -/
def Device.request (d : Device) (core : Option Nat) (addr n : Nat) : Device :=
  let ls := linesOf addr n
  { d with
    lazy := d.lazy.map (fun z => if core ≠ some z.core ∧ ls.contains z.line then { z with due := d.cycle } else z),
    owned := d.owned.filter (fun x => core.map d.dieOf = some (d.dieOf x.2) || !ls.contains x.1) }

/-! ### Writes -/

/-- The writer of bytes: a core with its region, or the host or a peer, which have no die (R256). -/
structure Writer where
  core   : Option Nat
  region : Option Nat
  deriving DecidableEq, Repr

/-- A write to a CODE frame's line: its mark is set on the writer's die at once, and on every other die when
that die applies the write; the writer's die drops the line from its caches. A write with no die sets every
mark and drops nothing (R256). -/
def Device.markLine (d : Device) (die : Option Nat) (line : Nat) : Device :=
  match die with
  | none => { d with marks := (List.range d.dies).map (fun x => (x, line)) ++ d.marks.filter (fun m => m.2 ≠ line) }
  | some w =>
    let clk := (d.clocks[w]?).getD (Vector.replicate 8 0)
    let clk := clk.setIfInBounds w ((clk[w]?).getD 0 + 1)
    { d with
      marks := if d.marks.contains (w, line) then d.marks else (w, line) :: d.marks,
      icache := d.icache.filter (fun l => !(l.die = w && l.addr = line)),
      clocks := d.clocks.setIfInBounds w clk,
      remote := d.remote ++ ((List.range d.dies).filter (· ≠ w)).map (fun x => ⟨w, x, line, clk⟩) }

/-- Poison and key of a line after a write of it under a key slot (R327, R332): a full-line write clears
poison and takes the slot's key; a partial write leaves poison, and poisons a line held under another key. -/
def Device.keyWrite (d : Device) (key line : Nat) (full : Bool) : Device :=
  match d.keyGenOf key with
  | none => { d with poison := if d.poison.contains line then d.poison else line :: d.poison }
  | some g =>
    if full then
      { d with
        poison := d.poison.filter (· ≠ line),
        lineKeys := if g = 0 then d.lineKeys.filter (fun k => k.1 ≠ line)
          else (line, g) :: d.lineKeys.filter (fun k => k.1 ≠ line) }
    else if g = d.lineKey line then d
    else { d with poison := if d.poison.contains line then d.poison else line :: d.poison }

/-- Whether an address lies in a CODE frame (R216, R256). -/
def Device.isCode (d : Device) (a : Nat) : Bool :=
  d.pages.any (fun p => p.kind == .code && decide (p.frame ≤ a) && decide (a < p.frame + 2 ^ p.bits))

def Device.poisonLine (d : Device) (line : Nat) : Device :=
  { d with poison := if d.poison.contains line then d.poison else line :: d.poison }

/-- The errors of a line end with a write of it. A partial write fills the line first: what cannot be corrected stays as
poison (R325, R327). -/
def Device.mendLine (d : Device) (kind : PageKind) (key : Nat) (dieLocal : Option Nat) (line : Nat) (full : Bool) : Device :=
  let d' := if full then d else d.noteErrors (d.fillNote kind key dieLocal line).toList
  let d' := { d' with flaws := d.flaws.filter (fun f => f.line ≠ line) }
  if !full && d.coded kind line && d.uncorrectable line then d'.poisonLine line else d'

/-- The line is its writer's: a core of another die than its home's owns it (R334). -/
def Device.ownLine (d : Device) (w : Writer) (dieLocal : Option Nat) (line : Nat) : Device :=
  let rest := d.owned.filter (fun x => x.1 ≠ line)
  match w.core with
  | some c =>
    if d.dieOf c = d.dieOfStack (d.stackOf (64 * line) dieLocal) then { d with owned := rest }
    else { d with owned := (line, c) :: rest }
  | none => { d with owned := rest }

/-- What a write does to one line before its bytes land, but for undo records. -/
def Device.touchLine (d : Device) (w : Writer) (kind : PageKind) (key : Nat) (dieLocal : Option Nat) (line : Nat)
    (full : Bool) : Device :=
  let d := d.request w.core (64 * line) 64
  match kind with
  | .device | .code =>
    let d := (((d.mendLine kind key dieLocal line full).keyWrite key line full).ownLine w dieLocal line)
    if kind = .code ∨ d.isCode (64 * line) then d.markLine (w.core.map d.dieOf) (line / 2) else d
  | _ => if full then { d with poison := d.poison.filter (· ≠ line) } else d

/-! ### Peer addresses and links (R310, R311) -/

/-- The device ID of a PEER machine address, and the address there. -/
def peerOf (a : Nat) : Nat := (a - peerBase) / 2 ^ 52
def peerAddr (a : Nat) : Word := BitVec.ofNat 64 ((a - peerBase) % 2 ^ 52)

/-- A link of the route table toward a device that has not failed (R313). -/
def Device.linkTo (d : Device) (dev : Nat) : Option Nat :=
  (d.routes.find? (fun r => r.1 = dev && bitOf d.peerLinks r.2)).map (·.2)

/-- The device of a request, and its link. -/
def PeerReq.dev (r : PeerReq) : Nat := peerOf (64 * r.line)

/-! ### Sending flits (R310) -/

/-- The flit of these packets with a sequence number: it acknowledges what has arrived in order on the link, and asks for a
retry after a flit that did not (log 92). -/
def Device.flitOf (d : Device) (link : Nat) (seq : BitVec 12) (ps : List Packet) : Flit :=
  ⟨seq, (d.peerSeq[link]?).getD 0 - 1, bitOf d.peerRetry link, ps⟩

/-- A flit goes out on a link toward a device under the next sequence number, and is kept until it is acknowledged. -/
def Device.sendFlit (d : Device) (link dev : Nat) (ps : List Packet) : Device :=
  let seq := (d.sendSeq[link]?).getD 0
  { d with
    sendSeq := d.sendSeq.setIfInBounds link (seq + 1)
    unacked := d.unacked ++ [⟨link, seq, dev, ps⟩]
    peerOut := d.peerOut ++ [(link, d.flitOf link seq ps)] }

/-- Sends packets to a device; without a link they are lost. -/
def Device.sendTo (d : Device) (dev : Nat) (ps : List Packet) : Device :=
  match d.linkTo dev with
  | some l => d.sendFlit l dev ps
  | none => d

/-! ### Requests (R311) -/

/-- A request packet with its tag. -/
def Packet.withTag (p : Packet) (t : BitVec 8) : Packet :=
  match p with
  | .read req _ a n => .read req t a n
  | .write req _ a m bs k => .write req t a m bs k
  | .op req _ a o w x y q r => .op req t a o w x y q r
  | p => p

/-- The lowest tag that no outstanding request holds. -/
def Device.freeTag (d : Device) : Option (BitVec 8) :=
  ((List.range 256).map (BitVec.ofNat 8)).find? (fun t => !d.peerReqs.any (fun r => r.tag = some t))

/-- The first of the requests without a tag go out, in order, as far as tags are free. -/
def Device.pumpList : List PeerReq → Device → Device
  | [], d => d
  | r :: rs, d =>
    match d.freeTag with
    | none => d
    | some t =>
      let reqs := d.peerReqs.map (fun x => if x.id = r.id then { x with tag := some t } else x)
      Device.pumpList rs ({ d with peerReqs := reqs }.sendTo r.dev [Packet.withTag r.packet t])

def Device.pump (d : Device) : Device := Device.pumpList (d.peerReqs.filter (·.tag.isNone)) d

/-- A request for a line of a PEER page, behind those before it. -/
def Device.queueReq (d : Device) (core : Nat) (region : Option Nat) (p : Page) (a : Nat) (kind : PeerKind) (packet : Packet) :
    Device :=
  { d with
    peerReqs := d.peerReqs ++ [⟨d.peerNext, none, core, region, true, lineOf a, p.lineVa (lineOf a), kind, packet, d.cycle⟩]
    peerNext := d.peerNext + 1 }

/-- A write of the device itself to a peer sets out as a packet, for no core; without a route it is lost (R311; log 48). -/
def Device.ownSend (d : Device) (p : Page) (va : Nat) (bs : List Byte) : Device :=
  let a := p.addr va
  match d.linkTo (peerOf a) with
  | some _ =>
    let d := d.queueReq 0 none p a .write (.write d.devId 0 (peerAddr a) (bs.map (fun _ => true)) bs 0)
    ({ d with
        peerReqs := d.peerReqs.map (fun (r : PeerReq) => if r.id + 1 = d.peerNext then { r with live := false } else r) } :
      Device).pump
  | none => d

/-! ### Undo records (R328) -/

/-- Whether the undo area of a stack has room for a record (128 bytes each, log 25). -/
def Device.undoRoom (d : Device) (stack : Nat) : Bool :=
  decide ((d.undo.filter (fun u => u.stack = stack)).length < d.glaes.policy.undoMib.toNat * 8192)

/-- The regions above a region, nearest first, with fuel. -/
def Device.ancestors (d : Device) : Nat → Region → List Region
  | 0, _ => []
  | n + 1, r =>
    match r.parent.bind d.region? with
    | none => []
    | some p => p :: Device.ancestors d n p

/-- The regions whose log takes a write of a region: of a RESTARTABLE one its own, and those of the RESTARTABLE regions
above it, whose descendant of the same domain it is (R328). -/
def Device.logKeys (d : Device) (key : Nat) : List Nat :=
  match d.region? key with
  | none => []
  | some r => if r.domain = 2 then ((r :: d.ancestors d.regions.length r).filter (fun x => x.domain = 2)).map (·.key) else []

/-- RESTARTS becomes 2, in the region and in STATUS of its block (R271, R329). -/
def Device.logFull (d : Device) (key : Nat) : Device :=
  let d := d.onRegion key (fun r => { r with restarts := 2 })
  match d.region? key with
  | none => d
  | some r =>
    match findPage d.pages r.pasid (r.rcb.toNat + 0xEA) with
    | none => d
    | some p =>
      let a := p.addr (r.rcb.toNat + 0xEA)
      if p.kind = .peer then d.ownSend p (r.rcb.toNat + 0xEA) [2] else
      let d := d.touchLine ⟨none, none⟩ p.kind p.key p.dieLocal (lineOf a) false
      { d with mem := d.mem.set a 2 }

/-- The record of a line in a region's log, before the first write of its launch; without room the write proceeds
(R328, R329). -/
def Device.logLine (d : Device) (line stack key : Nat) : Device :=
  if d.undo.any (fun u => u.region = key && u.line = line) then d
  else if d.undoRoom stack then
    let bad := d.poison.contains line || d.uncorrectable line
    { d with undo := ⟨key, line, stack, d.bytesAt (64 * line) 64, bad, d.lineKey line⟩ :: d.undo }
  else d.logFull key

/-- The undo records of a write to a DEVICE line; CODE memory is not logged (R328). -/
def Device.logUndo (d : Device) (region : Option Nat) (kind : PageKind) (dieLocal : Option Nat) (line : Nat) : Device :=
  match region with
  | none => d
  | some k =>
    if kind = .device ∧ !d.isCode (64 * line) then
      (d.logKeys k).foldl (fun d key => d.logLine line (d.stackOf (64 * line) dieLocal) key) d
    else d

/-- What a write does to one line before its bytes land. -/
def Device.writeLine (d : Device) (w : Writer) (kind : PageKind) (key : Nat) (dieLocal : Option Nat) (line : Nat)
    (full : Bool) : Device :=
  (d.logUndo w.region kind dieLocal line).touchLine w kind key dieLocal line full

/-- Writes bytes through a mapping (R216); a write to memory that cannot be reached is dropped. -/
def Device.writeAt (d : Device) (w : Writer) (kind : PageKind) (key : Nat) (dieLocal : Option Nat)
    (addr : Nat) (bs : List Byte) : Device :=
  if bs = [] ∨ !d.reachable kind addr dieLocal then d
  else
    let d := (linesOf addr bs.length).foldl
      (fun d l => d.writeLine w kind key dieLocal l (addr ≤ 64 * l && 64 * l + 64 ≤ addr + bs.length)) d
    { d with mem := d.mem.write addr bs }

/-- A write of a core was dropped: it meets POISON at its next release or fence that covers the write, with the virtual
address of the line (R313, R334). -/
def Device.loseWrite (d : Device) (w : Writer) (p : Page) (va : Nat) : Device :=
  match w.core with
  | some c => { d with lostLines := d.lostLines ++ [(c, (p.lineVa (lineOf (p.addr va))).toNat)] }
  | none => d

/-- Writes bytes at va of a page. -/
def Device.writePage (d : Device) (w : Writer) (p : Page) (va : Nat) (bs : List Byte) : Device :=
  if bs ≠ [] ∧ !d.reachable p.kind (p.addr va) p.dieLocal then d.loseWrite w p va
  else d.writeAt w p.kind p.key p.dieLocal (p.addr va) bs

/-- The writer that the current core is. -/
def State.writer (s : State) : Writer := ⟨some s.core.id, s.core.job.region⟩

/-! ### Reads and writes of the device itself, by virtual address under a PASID without a handle -/

/-- A byte that the device itself reads at an address of a page: in a PEER page what the peer's memory holds then, which this
machine cannot know; none where it is poisoned (R246; log 48). -/
def Device.ownByte (d : Device) (p : Page) (va : Nat) : Option Byte :=
  if p.kind = .peer then (if d.reachable .peer (p.addr va) none then Config.peerByte d.cycle (p.addr va) else none)
  else
    match d.readPage p va 1 with
    | (b :: _, none) => some b
    | _ => none

/-- Bytes at va under a PASID: none where a page is missing, unreadable or poisoned. -/
def Device.readVa (d : Device) (pasid : BitVec 20) (va : Nat) : Nat → Option (List Byte)
  | 0 => some []
  | n + 1 =>
    match findPage d.pages pasid va with
    | none => none
    | some p =>
      if p.canRead then (d.ownByte p va).bind (fun b => (Device.readVa d pasid (va + 1) n).map (b :: ·)) else none

/-- The doubleword at va. -/
def Device.readVa64 (d : Device) (pasid : BitVec 20) (va : Nat) : Option Word :=
  (d.readVa pasid va 8).map (fun bs => BitVec.ofNat 64 (leNat bs))

/-- Whether every byte of a range can be written. -/
def Device.canWriteVa (d : Device) (pasid : BitVec 20) (va : Nat) (n : Nat) : Bool :=
  (List.range n).all (fun i => match findPage d.pages pasid (va + i) with
    | some p => p.canWrite
    | none => false)

/-- Writes bytes that lie in one 64-byte line, as the device. Through a page of a plane region, bound or not, they go to the
present plane: the model's choice, as the table of R234 names no write of the device (log 100). -/
def Device.writeVaLine (d : Device) (pasid : BitVec 20) (va : Nat) (bs : List Byte) : Device :=
  match findPage d.pages pasid va with
  | some p =>
    if !p.canWrite then d
    else if p.kind = .peer then d.ownSend p va bs
    else d.writePage ⟨none, none⟩ p va bs
  | none => d

/-- Writes bytes at va as the device, line by line; a line with no writable page is not written. -/
def Device.writeVa (d : Device) (pasid : BitVec 20) (va : Nat) (bs : List Byte) : Device :=
  (linesOf va bs.length).foldl (fun d l =>
    let lo := Nat.max va (64 * l)
    d.writeVaLine pasid lo ((bs.drop (lo - va)).take (64 * l + 64 - lo))) d

/-- What a read of n bytes at va by the device adds to the error counters. -/
def Device.noteVa (d : Device) (pasid : BitVec 20) (va n : Nat) : Device :=
  (linesOf va n).foldl (fun d l => match findPage d.pages pasid (64 * l) with
    | some p => (d.noteErrors (d.fillNotes p (64 * l) 64)).request none (p.addr (64 * l)) 64
    | none => d) d

/-! ### Instruction fetch (R140, R256) -/

/-- The 128-byte CODE line of va: its page and line address, where the fetch right holds. -/
def State.codeLine (s : State) (va : Word) : Option (Page × Nat) :=
  match findPage s.dev.pages s.pasid va.toNat with
  | some p => if p.canExec then some (p, p.addr va.toNat / 128) else none
  | none => none

/-- The word at va, where its line is in the instruction caches of the core's die. -/
def State.fetchWord (s : State) (va : Word) : Option W32 :=
  match s.codeLine va with
  | none => none
  | some (p, line) =>
    match s.dev.icache.find? (fun l => l.die == s.dev.dieOf s.core.id && l.addr == line) with
    | none => none
    | some l => some (l.data.extractLsb' (8 * (p.addr va.toNat % 128)) 32)

/-- The result of a fetch of va's line (R140, R256): FETCH, UNPUBLISHED, POISON, or the line. -/
inductive Fetched where
  | fault (cause : BitVec 8) (tval : Word)
  | line (l : ILine)
  deriving DecidableEq, Repr

/-- A line whose mark is set, or whose write the die has still to apply, is unpublished (R251, R256; log 2). -/
def State.fetchLine (s : State) (va : Word) : Fetched :=
  match s.codeLine va with
  | none => .fault 0x0B va
  | some (p, line) =>
    let die := s.dev.dieOf s.core.id
    if s.dev.marks.contains (die, line) || s.dev.remote.any (fun r => r.dst = die && r.line = line) then .fault 0x0C va
    else
      match s.dev.readPage p (p.va + (128 * line - p.frame)) 128 with
      | (bs, none) => .line ⟨s.dev.dieOf s.core.id, line, BitVec.ofNat 1024 (leNat bs)⟩
      | (_, some a) => .fault 0x83 a

end Sys2Proof.Machine
end

