-- ==== Sys2Proof/Machine/Exact.lean ====
section
/-! DEFINITION. Exact arithmetic on floating-point values and its rounding (spec/03 R43 to R47, R60,
R68): a value is a NaN, an infinity or a signed dyadic number, operations are exact, and a result is
rounded once. -/
namespace Sys2Proof.Machine

/-- A floating-point value: `fin neg m e` is (−1)^neg · m · 2^e, with the sign of zero kept. -/
inductive FVal where
  | nan
  | inf (neg : Bool)
  | fin (neg : Bool) (m : Nat) (e : Int)
  deriving DecidableEq, Repr

/-- A binary format: exponent bits, fraction bits, bias, and whether the top exponent holds the infinities
and NaNs (R43) or ordinary numbers (R49 to R51). -/
structure Fmt where
  ebits : Nat
  mbits : Nat
  bias  : Nat
  ieee  : Bool
  deriving DecidableEq, Repr

/-- FP32, FP16, BF16, FP64 (R43); E4M3F, E5M2F, E2M1X (R49 to R51). -/
def Fmt.f32 : Fmt := ⟨8, 23, 127, true⟩
def Fmt.f16 : Fmt := ⟨5, 10, 15, true⟩
def Fmt.bf16 : Fmt := ⟨8, 7, 127, true⟩
def Fmt.f64 : Fmt := ⟨11, 52, 1023, true⟩
def Fmt.e4m3 : Fmt := ⟨4, 3, 7, false⟩
def Fmt.e5m2 : Fmt := ⟨5, 2, 15, false⟩
def Fmt.e2m1 : Fmt := ⟨2, 1, 1, false⟩

/-- Bits of a code of the format. -/
def Fmt.width (F : Fmt) : Nat := F.ebits + F.mbits + 1

/-- The code above every finite magnitude: the infinity of an IEEE format (R43). -/
def Fmt.top (F : Fmt) : Nat := if F.ieee then (2 ^ F.ebits - 1) * 2 ^ F.mbits else 2 ^ (F.ebits + F.mbits)

/-- The magnitude code of the largest finite value. -/
def Fmt.maxCode (F : Fmt) : Nat := F.top - 1

/-- The exponent of the last place of the smallest normal numbers. -/
def Fmt.qmin (F : Fmt) : Int := 1 - (F.bias : Int) - F.mbits

/-- The canonical quiet NaN (R44). -/
def Fmt.nanCode (F : Fmt) : Nat := F.top + 2 ^ (F.mbits - 1)

/-- The value of a code (R43, R49 to R51). -/
def Fmt.value (F : Fmt) (c : Nat) : FVal :=
  let neg := c / 2 ^ (F.ebits + F.mbits) % 2 = 1
  let mag := c % 2 ^ (F.ebits + F.mbits)
  if F.ieee ∧ F.top ≤ mag then (if mag = F.top then .inf neg else .nan)
  else
    let ex := mag / 2 ^ F.mbits
    let fr := mag % 2 ^ F.mbits
    if ex = 0 then .fin neg fr F.qmin
    else .fin neg (2 ^ F.mbits + fr) (F.qmin + (ex - 1 : Nat))

/-- Rounding modes (R46, R60). -/
inductive RMode where
  | rne | rtz | rdn | rup
  deriving DecidableEq, Repr

/-- The mode of FPMODE.RM (R46). -/
def RMode.ofField (n : Nat) : RMode :=
  match n % 4 with
  | 0 => .rne
  | 1 => .rtz
  | 2 => .rdn
  | _ => .rup

/-- The sticky flags of FPFLAGS (R47): [0] INVALID, [1] DIVZERO, [2] OVERFLOW, [3] UNDERFLOW, [4] INEXACT,
[5] SATURATE. -/
abbrev Flags := BitVec 6

def Flags.invalid : Flags := 1
def Flags.divzero : Flags := 2
def Flags.overflow : Flags := 4
def Flags.underflow : Flags := 8
def Flags.inexact : Flags := 16
def Flags.saturate : Flags := 32

/-- The flags a condition sets. -/
def Flags.when (c : Bool) (f : Flags) : Flags := if c then f else 0

/-- Rounds m · 2^e to a multiple of 2^q: the multiple's factor, and whether it is inexact (R60). -/
def roundAt (md : RMode) (neg : Bool) (m : Nat) (e q : Int) : Nat × Bool :=
  if q ≤ e then (m * 2 ^ (e - q).toNat, false)
  else
    let p := 2 ^ (q - e).toNat
    let k := m / p
    let r := m % p
    let up : Bool := match md with
      | .rne => p < 2 * r || (2 * r = p && k % 2 = 1)
      | .rtz => false
      | .rdn => neg && r ≠ 0
      | .rup => !neg && r ≠ 0
    (if up then k + 1 else k, r ≠ 0)

/-- The exponent of the leading bit of m · 2^e. -/
def topExp (m : Nat) (e : Int) : Int := (Nat.log2 m : Int) + e

/-- The magnitude code of m · 2^e rounded with no upper bound on the exponent, whether it is inexact, and
whether it is tiny after rounding (R45). -/
def Fmt.roundMag (F : Fmt) (md : RMode) (neg : Bool) (m : Nat) (e : Int) : Nat × Bool × Bool :=
  if m = 0 then (0, false, false)
  else
    let t := topExp m e
    let q := if F.qmin ≤ t - F.mbits then t - F.mbits else F.qmin
    let (k, inexact) := roundAt md neg m e q
    let code := (q - F.qmin).toNat * 2 ^ F.mbits + k
    let (k', _) := roundAt md neg m e (t - F.mbits)
    let tiny : Bool := t + 1 < F.qmin + F.mbits || (t < F.qmin + F.mbits && k' < 2 ^ (F.mbits + 1))
    (code, inexact, tiny)

/-- The sign bit of a code. -/
def Fmt.signBit (F : Fmt) (neg : Bool) : Nat := if neg then 2 ^ (F.ebits + F.mbits) else 0

/-- Whether an overflow of this sign gives the infinity (R60). -/
def RMode.toInf (md : RMode) (neg : Bool) : Bool :=
  match md with
  | .rne => true
  | .rtz => false
  | .rdn => neg
  | .rup => !neg

/-- A value rounded to an IEEE format, with its flags (R45, R60, R65). -/
def Fmt.round (F : Fmt) (md : RMode) : FVal → Nat × Flags
  | .nan => (F.nanCode, 0)
  | .inf neg => (F.signBit neg + F.top, 0)
  | .fin neg m e =>
    let (code, inexact, tiny) := F.roundMag md neg m e
    if F.top ≤ code then
      (F.signBit neg + (if md.toInf neg then F.top else F.maxCode), Flags.overflow ||| Flags.inexact)
    else
      (F.signBit neg + code, Flags.when inexact .inexact ||| Flags.when (tiny && inexact) .underflow)

/-- A value rounded to an IEEE format, then flushed when FTZ asks (R46). -/
def Fmt.roundFtz (F : Fmt) (md : RMode) (ftz : Bool) (v : FVal) : Nat × Flags :=
  let (c, fl) := F.round md v
  let mag := c % 2 ^ (F.ebits + F.mbits)
  if ftz && mag ≠ 0 && mag < 2 ^ F.mbits then
    (c - mag, fl ||| Flags.underflow ||| Flags.inexact)
  else (c, fl)

/-- A value rounded to a narrow format without a block scale (R61). -/
def Fmt.roundNarrow (F : Fmt) (md : RMode) : FVal → Nat × Flags
  | .nan => (0, Flags.invalid)
  | .inf neg => (F.signBit neg + F.maxCode, Flags.overflow ||| Flags.inexact)
  | .fin neg m e =>
    let (code, inexact, tiny) := F.roundMag md neg m e
    if F.top ≤ code then (F.signBit neg + F.maxCode, Flags.overflow ||| Flags.inexact)
    else (F.signBit neg + code, Flags.when inexact .inexact ||| Flags.when (tiny && inexact) .underflow)

/-- A subnormal operand read as zero of its sign under FTZ (R46). -/
def Fmt.operand (F : Fmt) (ftz : Bool) (c : Nat) : FVal :=
  let mag := c % 2 ^ (F.ebits + F.mbits)
  F.value (if ftz && mag < 2 ^ F.mbits then c - mag else c)

/-- The negation of a value; a NaN stays a NaN. -/
def FVal.neg : FVal → FVal
  | .nan => .nan
  | .inf s => .inf !s
  | .fin s m e => .fin (!s) m e

/-- The sign of a value. -/
def FVal.isNeg : FVal → Bool
  | .nan => false
  | .inf s => s
  | .fin s _ _ => s

/-- m · 2^e as an integer multiple of 2^q, for q ≤ e. -/
def scaleTo (s : Bool) (m : Nat) (e q : Int) : Int :=
  let k : Int := (m * 2 ^ (e - q).toNat : Nat)
  if s then -k else k

/-- The exact product, and whether it is invalid (R45, R68). -/
def FVal.mul : FVal → FVal → FVal × Bool
  | .nan, _ => (.nan, false)
  | _, .nan => (.nan, false)
  | .inf s, .inf t => (.inf (s != t), false)
  | .inf s, .fin t m _ => if m = 0 then (.nan, true) else (.inf (s != t), false)
  | .fin s m _, .inf t => if m = 0 then (.nan, true) else (.inf (s != t), false)
  | .fin s m e, .fin t n f => (.fin (s != t) (m * n) (e + f), false)

/-- The exact sum of two values, the sign of an exact zero by R45, and whether it is invalid. -/
def FVal.add (md : RMode) : FVal → FVal → FVal × Bool
  | .nan, _ => (.nan, false)
  | _, .nan => (.nan, false)
  | .inf s, .inf t => if s = t then (.inf s, false) else (.nan, true)
  | .inf s, .fin _ _ _ => (.inf s, false)
  | .fin _ _ _, .inf t => (.inf t, false)
  | .fin s m e, .fin t n f =>
    let q := if e ≤ f then e else f
    let z := scaleTo s m e q + scaleTo t n f q
    if z = 0 then
      (.fin (if m = 0 ∧ n = 0 ∧ s = t then s else md = .rdn) 0 q, false)
    else (.fin (z < 0) z.natAbs q, false)

/-- Fused product and sum: a NaN operand comes first and sets no flag (R45). -/
def FVal.fma (md : RMode) (x y z : FVal) : FVal × Bool :=
  if x = .nan ∨ y = .nan ∨ z = .nan then (.nan, false)
  else
    match FVal.mul x y with
    | (.nan, bad) => (.nan, bad)
    | (p, _) => FVal.add md p z

/-- The order of two values that are not NaN; −0 and +0 are equal. -/
def FVal.cmp : FVal → FVal → Ordering
  | .inf s, .inf t => if s = t then .eq else if s then .lt else .gt
  | .inf s, _ => if s then .lt else .gt
  | _, .inf t => if t then .gt else .lt
  | .fin s m e, .fin t n f =>
    let q := if e ≤ f then e else f
    compare (scaleTo s m e q) (scaleTo t n f q)
  | _, _ => .eq

/-- Minimum by R71: a NaN operand gives NaN, and −0 is below +0. -/
def FVal.min (x y : FVal) : FVal :=
  if x = .nan ∨ y = .nan then .nan
  else match FVal.cmp x y with
    | .lt => x
    | .gt => y
    | .eq => if x.isNeg then x else y

/-- Maximum by R71. -/
def FVal.max (x y : FVal) : FVal :=
  if x = .nan ∨ y = .nan then .nan
  else match FVal.cmp x y with
    | .lt => y
    | .gt => x
    | .eq => if x.isNeg then y else x

/-- The exact sum of finite terms, as an integer multiple of 2^q. -/
def sumAt (q : Int) (ts : List FVal) : Int :=
  ts.foldl (fun acc t => match t with | .fin s m e => acc + scaleTo s m e q | _ => acc) 0

/-- The least exponent of finite terms. -/
def minExp (ts : List FVal) : Int :=
  ts.foldl (fun acc t => match t with | .fin _ _ e => if e < acc then e else acc | _ => acc) 0

/-- The exact sum of the terms of a matrix element, by the cases of R68 in their order: a NaN term, an
invalid product or opposite infinities, an infinity, the exact sum; an exact zero is −0 only if every term
is −0. `bad` says that some product was of zero and infinity. -/
def FVal.sum (ts : List FVal) (bad : Bool) : FVal × Flags :=
  if ts.any (· = .nan) then (.nan, 0)
  else
    let pinf := ts.any (· = .inf false)
    let ninf := ts.any (· = .inf true)
    if bad || (pinf && ninf) then (.nan, Flags.invalid)
    else if pinf then (.inf false, 0)
    else if ninf then (.inf true, 0)
    else
      let q := minExp ts
      let z := sumAt q ts
      if z = 0 then (.fin (!ts.isEmpty && ts.all (fun t => match t with | .fin s m _ => s && m = 0 | _ => false)) 0 0, 0)
      else (.fin (z < 0) z.natAbs q, 0)

end Sys2Proof.Machine
end

