-- ==== Sys2Proof/Machine/Formats.lean ====
section
/-! DEFINITION. The element formats of R42, their decoding and encoding, the conversions of R61 to R66,
block scaling (R54 to R57) and the special functions (R70). -/
namespace Sys2Proof.Machine

/-- Element width in bits of a format code (R42). -/
def fmtWidth (c : Nat) : Nat :=
  match c with
  | 0 | 4 => 32
  | 1 | 2 | 5 => 16
  | 3 | 8 => 64
  | 9 | 14 => 4
  | _ => 8

/-- Whether a format code is an integer format (R42). -/
def fmtIsInt (c : Nat) : Bool := 4 ≤ c && c ≤ 9

/-- Whether a format code is block-scaled (R42). -/
def fmtScaled (c : Nat) : Bool := 12 ≤ c && c ≤ 14

/-- The binary format of a floating-point format code (R42). -/
def floatFmt (c : Nat) : Fmt :=
  match c with
  | 0 => .f32
  | 1 => .f16
  | 2 => .bf16
  | 3 => .f64
  | 10 | 12 => .e4m3
  | 11 | 13 => .e5m2
  | _ => .e2m1

/-- The floating-point format of a typ value (R32). -/
def typFmt (y : Nat) : Fmt := floatFmt (y % 4)

/-- Element width of a floating-point typ, and of an integer typ (R32). -/
def typWidth (y : Nat) : Nat := fmtWidth (y % 4)
def intWidth (y : Nat) : Nat :=
  match y with
  | 0 => 32
  | 1 => 16
  | 2 => 8
  | _ => 64

/-- A field of w bits read as two's complement. -/
def signed (w v : Nat) : Int := if 2 ^ w ≤ 2 * (v % 2 ^ w) then (v % 2 ^ w : Nat) - (2 ^ w : Nat) else (v % 2 ^ w : Nat)

/-- An integer kept modulo 2^w (R53). -/
def wrapTo (w : Nat) (z : Int) : Nat := (z % (2 ^ w : Nat)).toNat

/-- The integer value of an element: UINT8 (7) is unsigned, the others two's complement (R42, R53). -/
def intValue (c v : Nat) : Int := if c = 7 then (v % 256 : Nat) else signed (fmtWidth c) v

/-- The range of an integer format (R53). -/
def intLo (c : Nat) : Int := if c = 7 then 0 else -(2 ^ (fmtWidth c - 1) : Nat)
def intHi (c : Nat) : Int := if c = 7 then 255 else (2 ^ (fmtWidth c - 1) : Nat) - 1

/-- An integer placed in an integer format, wrapped or clamped (R63, R69); SATURATE if it clamped. -/
def placeInt (c : Nat) (sat : Bool) (z : Int) : Nat × Flags :=
  if sat then
    if z < intLo c then (wrapTo (fmtWidth c) (intLo c), Flags.saturate)
    else if intHi c < z then (wrapTo (fmtWidth c) (intHi c), Flags.saturate)
    else (wrapTo (fmtWidth c) z, 0)
  else (wrapTo (fmtWidth c) z, 0)

/-- An integer as an exact value. -/
def FVal.ofInt (z : Int) : FVal := .fin (z < 0) z.natAbs 0

/-- Scales a value by 2^k. -/
def FVal.shift (k : Int) : FVal → FVal
  | .fin s m e => .fin s m (e + k)
  | v => v

/-- The value of an element code under a scale record (R55, R56); the record is ignored for the formats
without a block scale. -/
def elemValue (c code rec : Nat) : FVal :=
  if fmtIsInt c then .ofInt (intValue c code)
  else if fmtScaled c then
    let sc := rec % 256
    if sc = 255 then .nan
    else
      let raw := if c = 14 ∧ code % 16 = 8 then Fmt.e4m3.value (rec / 256 % 256) else (floatFmt c).value code
      raw.shift ((sc : Int) - 127)
  else (floatFmt c).value code

/-- A float rounded to an integer and placed in an integer format (R62). -/
def floatToInt (c : Nat) (md : RMode) (sat : Bool) : FVal → Nat × Flags
  | .nan => (0, Flags.invalid)
  | .inf neg => (if sat then wrapTo (fmtWidth c) (if neg then intLo c else intHi c) else 0, Flags.invalid)
  | .fin neg m e =>
    let (k, inexact) := roundAt md neg m e 0
    let z : Int := if neg then -(k : Int) else k
    let fl := Flags.when inexact .inexact
    if intLo c ≤ z ∧ z ≤ intHi c then (wrapTo (fmtWidth c) z, fl)
    else if sat then ((placeInt c true z).1, fl ||| Flags.saturate)
    else (wrapTo (fmtWidth c) z, fl ||| Flags.invalid)

/-- A value converted to a floating-point format code: IEEE by R65, narrow by R61. -/
def toFloat (c : Nat) (md : RMode) (ftz : Bool) (v : FVal) : Nat × Flags :=
  if c ≤ 3 then (floatFmt c).roundFtz md ftz v else (floatFmt c).roundNarrow md v

/-- An integer converted to a floating-point format code, always RNE (R64). -/
def intToFloat (c : Nat) (z : Int) : Nat × Flags :=
  if c ≤ 3 then (floatFmt c).round .rne (.ofInt z) else (floatFmt c).roundNarrow .rne (.ofInt z)

/-- emax of a block-scaled format (R57). -/
def blockEmax (c : Nat) : Int :=
  match c with
  | 12 => 8
  | 13 => 15
  | _ => 2

/-- Rounds to the nearest code of a narrow format with saturation (rne_sat of R57). -/
def rneSat (F : Fmt) (v : FVal) : Nat := (F.roundNarrow .rne v).1

/-- The distance of two values as a numerator over 2^q, with none for an infinite distance (R57). -/
def FVal.dist (q : Int) : FVal → FVal → Option Nat
  | .fin s m e, .fin t n f => some ((scaleTo s m e q - scaleTo t n f q).natAbs)
  | _, _ => none

/-- Whether distance `a` exceeds distance `b`; none is infinite. -/
def distGt : Option Nat → Option Nat → Bool
  | none, some _ => true
  | some x, some y => y < x
  | _, none => false

/-- The largest distance of a list. -/
def distMax (ds : List (Option Nat)) : Option Nat := ds.foldl (fun a d => if distGt d a then d else a) (some 0)

/-- The largest leading exponent of the nonzero magnitudes; an infinity counts as 2^128 (R57). -/
def blockTop (vs : List FVal) : Option Int :=
  vs.foldl (fun a v =>
    let t : Option Int := match v with
      | .inf _ => some 128
      | .fin _ m e => if m = 0 then none else some (topExp m e)
      | .nan => none
    match a, t with
    | none, t => t
    | some x, some y => some (if x < y then y else x)
    | some x, none => some x) none

/-- encode_block of R57: the codes, the scale record, and the flags (INEXACT only). The error of an infinity is
infinite (log 20). -/
def encodeBlock (c : Nat) (vs : List FVal) : List Nat × Nat × Flags :=
  if vs.any (· = .nan) then (vs.map (fun _ => 0), 0x00FF, 0)
  else
    let e : Nat := match blockTop vs with
      | none => 0
      | some t =>
        let x := t - blockEmax c
        ((if x < -127 then -127 else if 127 < x then 127 else x) + 127).toNat
    let F := floatFmt c
    let ws := vs.map (FVal.shift (127 - (e : Int)))
    let qs := ws.map (rneSat F)
    let low := minExp ws
    let q0 : Int := if low < -16 then low else -16
    let errs := (ws.zip qs).map (fun p => FVal.dist q0 p.1 (F.value p.2))
    let plain := qs.map (fun k => if c = 14 ∧ k = 8 then 0 else k)
    let mx := distMax errs
    if c = 14 ∧ mx ≠ some 0 then
      let x4 := ws.map (rneSat .e4m3)
      let xval := match ((errs.zip x4).find? (fun p => p.1 = mx)) with
        | some p => p.2
        | none => 0
      let codes := (plain.zip x4).map (fun p => if p.2 = xval then 8 else p.1)
      let exact := (ws.zip codes).all (fun p =>
        FVal.dist q0 p.1 (if p.2 = 8 then Fmt.e4m3.value xval else F.value p.2) = some 0)
      (codes, xval * 256 + e, Flags.when (!exact) .inexact)
    else (plain, e, Flags.when (mx ≠ some 0) .inexact)

/-! ### The special functions (R70) -/

/-- Whether a positive dyadic is a power of two, and its exponent. -/
def pow2? (m : Nat) (e : Int) : Option Int := if m = 2 ^ Nat.log2 m then some (topExp m e) else none

/-- 2^k as a value. -/
def FVal.pow2 (neg : Bool) (k : Int) : FVal := .fin neg 1 k

/-- The square root of a 128-bit fixed-point number, rounded down. -/
def fxSqrt (a : Nat) : Nat := Nat.sqrt (a * 2 ^ 128)

/-- A product of two 128-bit fixed-point numbers, rounded down. -/
def fxMul (a b : Nat) : Nat := a * b / 2 ^ 128

/-- 2^(f) for a 96-bit fraction f, as a fixed-point number slightly below it: the product of the factors
2^(2^-i) of its one bits. -/
def fxExp2 : Nat → Nat → Nat → Nat → Nat
  | 0, _, _, acc => acc
  | n + 1, f, root, acc =>
    let r := fxSqrt root
    fxExp2 n (f * 2 % 2 ^ 96) r (if 2 ^ 95 ≤ f % 2 ^ 96 then fxMul acc r else acc)

/-- log2 of a 128-bit fixed-point number in [1, 2), as a fraction slightly below it, by repeated squaring. -/
def fxLog2 : Nat → Nat → Nat → Nat
  | 0, _, acc => acc
  | n + 1, x, acc =>
    let y := x * x / 2 ^ 128
    if 2 ^ 129 ≤ y then fxLog2 n (y / 2) (2 * acc + 1) else fxLog2 n y (2 * acc)

/-- A value within one part in 2^70 of the exact result of a special function at a positive or finite
operand m · 2^e for which it is not exact (R70); it decides which codes are within 1 ulp (log 12). -/
def specialApprox (fn : Nat) (neg : Bool) (m : Nat) (e : Int) : FVal :=
  match fn with
  | 0 => .fin neg (2 ^ (Nat.log2 m + 128) / m) (-(Nat.log2 m : Int) - 128 - e)
  | 1 =>
    let odd := e % 2
    let m' := if odd = 0 then m else 2 * m
    let e' := if odd = 0 then e else e - 1
    .fin false (Nat.sqrt (2 ^ (2 * Nat.log2 m' + 256) / m')) (-(Nat.log2 m' : Int) - 128 - e' / 2)
  | 2 =>
    let z : Int := if neg then -(m : Int) else m
    let whole : Int := if 0 ≤ e then z * 2 ^ e.toNat else z / 2 ^ (-e).toNat
    let fr : Nat := if 0 ≤ e then 0 else
      let r := (z % 2 ^ (-e).toNat).toNat
      if e < -96 then r / 2 ^ ((-e).toNat - 96) else r * 2 ^ (96 - (-e).toNat)
    .fin false (fxExp2 96 fr (2 ^ 129) (2 ^ 128)) (whole - 128)
  | _ =>
    let t := topExp m e
    let fr := fxLog2 96 (m * 2 ^ (128 - Nat.log2 m)) 0
    let z : Int := t * 2 ^ 96 + fr
    .fin (z < 0) z.natAbs (-96)

/-- Whether an FP32 code is a result that R70 admits for a value that is no FP32 number: of its sign, within one unit
in the last place of it, and subnormal or zero just where the value is tiny. -/
def specialOk (r : Nat) : FVal → Bool
  | .fin s m e =>
    match Fmt.f32.value r with
    | .fin s' n f =>
      let t := topExp m e
      let u : Int := if t - 23 < -149 then -149 else t - 23
      let q := if e ≤ f then (if e ≤ u then e else u) else (if f ≤ u then f else u)
      s = s' && (t < -126) = (r % 2 ^ 31 < 2 ^ 23) &&
        (scaleTo s m e q - scaleTo s' n f q).natAbs ≤ 2 ^ (u - q).toNat
    | _ => false
  | _ => false

/-- The free result of R70: the implementation's raw choice where R70 admits it, and the value rounded toward zero,
which R70 always admits, where it does not. Log 12. -/
def nearChoice (fn : Nat) (x : W32) (exact : FVal) : Nat :=
  let r := (Config.special fn x).toNat
  if specialOk r exact then r else (Fmt.f32.round .rtz exact).1

/-- A result that is not exact, with its flags (R46, R70). -/
def specialOpen (fn : Nat) (ftz : Bool) (x : W32) (exact : FVal) : Nat × Flags :=
  if FVal.cmp exact (Fmt.f32.value Fmt.f32.maxCode) = .gt then (Fmt.f32.top, Flags.overflow ||| Flags.inexact)
  else if FVal.cmp exact (Fmt.f32.value (2 ^ 31 + Fmt.f32.maxCode)) = .lt then
    (2 ^ 31 + Fmt.f32.top, Flags.overflow ||| Flags.inexact)
  else
    let r := nearChoice fn x exact
    let sub : Bool := r % 2 ^ 31 < 2 ^ 23
    (if ftz && sub then r - r % 2 ^ 31 else r, Flags.inexact ||| Flags.when sub .underflow)

/-- VRCP (0), VRSQ (1), VEX2 (2), VLG2 (3) of an FP32 operand with FTZ applied to operand and result (R46,
R70). The special values, the exact cases and every flag are fixed; the other results are free within 1 ulp. -/
def specialFn (fn : Nat) (ftz : Bool) (x : W32) : Nat × Flags :=
  let F := Fmt.f32
  let v := F.operand ftz x.toNat
  let fin := fun (w : FVal) => F.roundFtz .rne ftz w
  let open' := fun (neg : Bool) (m : Nat) (e : Int) => specialOpen fn ftz x (specialApprox fn neg m e)
  match fn, v with
  | _, .nan => (F.nanCode, 0)
  | 0, .inf s => (F.signBit s, 0)
  | 0, .fin s m e =>
    if m = 0 then (F.signBit s + F.top, Flags.divzero)
    else match pow2? m e with
      | some k => let (c, fl) := fin (.pow2 s (-k)); (c, fl)
      | none => open' s m e
  | 1, .inf s => if s then (F.nanCode, Flags.invalid) else (0, 0)
  | 1, .fin s m e =>
    if m = 0 then (F.signBit s + F.top, Flags.divzero)
    else if s then (F.nanCode, Flags.invalid)
    else match pow2? m e with
      | some k => if k % 2 = 0 then (let (c, _) := fin (.pow2 false (-(k / 2))); (c, 0)) else open' s m e
      | none => open' s m e
  | 2, .inf s => if s then (0, 0) else (F.top, 0)
  | 2, .fin s m e =>
    if m = 0 then (0x3F800000, 0)
    else
      let z : Int := if s then -(m : Int) else m
      let big : Bool := 8 ≤ topExp m e
      let pow := fun (k : Int) => if -149 ≤ k then fin (.pow2 false k) else specialOpen fn ftz x (.pow2 false k)
      if big then specialOpen fn ftz x (.pow2 false (if s then -256 else 256))
      else if 0 ≤ e then pow (z * 2 ^ e.toNat)
      else if m % 2 ^ (-e).toNat = 0 then pow (z / 2 ^ (-e).toNat)
      else if topExp m e < -64 then specialOpen fn ftz x (.fin false (if s then 2 ^ 90 - 1 else 2 ^ 90 + 1) (-90))
      else open' s m e
  | _, .inf s => if s then (F.nanCode, Flags.invalid) else (F.top, 0)
  | _, .fin s m e =>
    if m = 0 then (F.signBit true + F.top, Flags.divzero)
    else if s then (F.nanCode, Flags.invalid)
    else match pow2? m e with
      | some k => F.round .rne (.ofInt k)
      | none => open' s m e

end Sys2Proof.Machine
end

