-- ==== Sys2Proof/Machine/Operands.lean ====
section
/-! DEFINITION. Every operand form: streams, their elements and the checks at use (spec/04 R73 to R80),
tiles and handles as operands (spec/11 R208, R211, R218), vector register blocks and what a read on the
virtual schedule sees (spec/08 R152 to R155, spec/06 R124). -/
namespace Sys2Proof.Machine

/-! ### Stream fields (R73, R74) -/

def Stream.form (q : Stream) : Word := q[0]
def Stream.geom (q : Stream) : Word := q[2]
def Stream.slay (q : Stream) : Word := q[11]

/-- KIND: 0 SPAD, 1 TILE, 2 GLOBAL, 3 ACCV. -/
def Stream.kind (q : Stream) : Nat := (q.form.extractLsb' 0 2).toNat
def Stream.fmt (q : Stream) : Nat := (q.form.extractLsb' 4 4).toNat
def Stream.handle (q : Stream) : BitVec 4 := q.form.extractLsb' 8 4
def Stream.acc (q : Stream) : Nat := (q.form.extractLsb' 12 7).toNat
def Stream.mq (q : Stream) : BitVec 4 := q.form.extractLsb' 20 4
def Stream.men (q : Stream) : Bool := q.form.getLsbD 24
def Stream.rows (q : Stream) : Nat := (q.geom.extractLsb' 0 16).toNat
def Stream.cols (q : Stream) : Nat := (q.geom.extractLsb' 16 16).toNat
def Stream.vrows (q : Stream) : Nat := (q.geom.extractLsb' 32 16).toNat
def Stream.vcols (q : Stream) : Nat := (q.geom.extractLsb' 48 16).toNat
def Stream.pitch (q : Stream) : Nat := (q[3].extractLsb' 0 32).toNat
def Stream.spitch (q : Stream) : Nat := (q.slay.extractLsb' 0 32).toNat
/-- SDIR: scale blocks run down a column. -/
def Stream.sdir (q : Stream) : Bool := q.slay.getLsbD 32
/-- The tile a TILE stream names. -/
def Stream.tile (q : Stream) : BitVec 6 := q[1].extractLsb' 0 6
/-- Element width in bits. -/
def Stream.width (q : Stream) : Nat := fmtWidth q.fmt

/-- Σ i_l · STRIDE_l, modulo 2^64 (R77). -/
def Stream.step (q : Stream) (i : Idx) : Word :=
  i[0] * q[4] + i[1] * q[5] + i[2] * q[6] + i[3] * q[7] + i[4] * q[8] + i[5] * q[9]

/-- Σ i_l · SSTRIDE_l, modulo 2^64 (R78). -/
def Stream.sstep (q : Stream) (i : Idx) : Word :=
  i[0] * q[12] + i[1] * q[13] + i[2] * q[14] + i[3] * q[15] + i[4] * q[16] + i[5] * q[17]

/-- The origin that the nest indices give: BASE (0 for TILE and ACCV) plus the strides (R77). -/
def Stream.origin (q : Stream) (i : Idx) : Word := (if q.kind = 1 ∨ q.kind = 3 then (0 : Word) else q[1]) + q.step i

/-- Byte offset of element (r, c), unsigned (R77). -/
def Stream.elemOff (q : Stream) (i : Idx) (r c : Nat) : Nat :=
  (q.origin i + BitVec.ofNat 64 (r * q.pitch + c * q.width / 8)).toNat

/-- Whether element (r, c) of a 4-bit format lies in the upper nibble (R52, R77). -/
def Stream.upper (q : Stream) (c : Nat) : Bool := q.width = 4 && c % 2 = 1

/-- Offset of the scale record of element (r, c) (R78). -/
def Stream.recOff (q : Stream) (i : Idx) (r c : Nat) : Nat :=
  (q[10] + q.sstep i + BitVec.ofNat 64
    (if q.sdir then r / 32 * q.spitch + 2 * c else r * q.spitch + 2 * (c / 32))).toNat

/-- Element (r, c) is valid (R76). -/
def Stream.valid (q : Stream) (r c : Nat) : Bool := r < q.vrows && c < q.vcols

/-- The accumulator of column c of an ACCV stream (R77). -/
def Stream.accNum (q : Stream) (i : Idx) (c : Nat) : Nat :=
  (BitVec.ofNat 64 (q.acc + c / 32) + q.step i).toNat

/-- A stream as the trap frame shows it: ignored bits read zero (R74, R75, R78). -/
def Stream.shown (q : Stream) : Stream :=
  let k := q.kind
  let form := q.form &&& (0x1F000F3 ||| (if k = 2 then 0xF00 else 0) ||| (if k = 3 then 0x7F000 else 0))
  let q' := q.set 0 form
  let q' := q'.set 1 (if k = 1 then q[1] &&& 0x3F else if k = 3 then 0 else q[1])
  let q' := q'.set 3 (if k = 3 then 0 else q[3] &&& 0xFFFFFFFF)
  if k = 3 ∨ !fmtScaled q.fmt then
    ((((((((q'.set 10 0).set 11 0).set 12 0).set 13 0).set 14 0).set 15 0).set 16 0).set 17 0)
  else q'.set 11 (q[11] &&& 0x1FFFFFFFF)

def Core.stream (c : Core) (n : BitVec 4) : Stream := c.active.streams[n.toNat]'n.isLt

/-! ### Checks at use (R79) -/

/-- MATFMT naming stream n for a reason (R79). -/
def matfmt (n : BitVec 4) (reason : Nat) : Gate := .fail 0x06 (BitVec.ofNat 64 (n.toNat + 256 * reason))

def divides (n : Nat) (v : Word) : Bool := v.toNat % n = 0

/-- Reason 3 of a stream's own geometry. -/
def Stream.geomOk (q : Stream) : Bool :=
  q.rows ≠ 0 && q.cols ≠ 0 && q.vrows ≤ q.rows && q.vcols ≤ q.cols && (q.kind ≠ 3 || q.rows ≤ 32)

/-- Reason 4: alignment of BASE, PITCH and the strides, and of the scale fields. -/
def Stream.aligned (q : Stream) : Bool :=
  q.kind = 3 ||
    ((q.width < 8 ||
        (let n := q.width / 8
         (q.kind = 1 || divides n q[1]) && q.pitch % n = 0 && divides n q[4] && divides n q[5] &&
           divides n q[6] && divides n q[7] && divides n q[8] && divides n q[9])) &&
      (!fmtScaled q.fmt ||
        (divides 2 q[10] && q.spitch % 2 = 0 && divides 2 q[12] && divides 2 q[13] && divides 2 q[14] &&
          divides 2 q[15] && divides 2 q[16] && divides 2 q[17])))

/-- The checks of R79 of stream n: whether its format, kind and shape suit the word, its metadata link, and for a
stream that is read with MEN = 1 its metadata stream, whose shape the word may also bound. -/
def Core.checkStream (c : Core) (n : BitVec 4) (fmtOk kindOk shapeOk reads : Bool)
    (metaOk : Stream → Bool := fun _ => true) : Gate :=
  let q := c.stream n
  let own := Gate.all [
    if q.fmt = 15 ∨ !fmtOk then matfmt n 1 else .go,
    if kindOk then .go else matfmt n 2,
    if q.geomOk && shapeOk then .go else matfmt n 3,
    if q.aligned then .go else matfmt n 4,
    if q.men ∧ (q.mq = n ∨ (c.stream q.mq).fmt ≠ 9 ∨ 1 < (c.stream q.mq).kind) then matfmt n 5 else .go]
  if reads && q.men then
    let m := c.stream q.mq
    own.then (Gate.all [
      if m.geomOk && metaOk m then .go else matfmt q.mq 3,
      if m.aligned then .go else matfmt q.mq 4])
  else own

/-! ### Tiles (R206 to R208) -/

def Core.tile (c : Core) (i : BitVec 6) : Tile := c.store.tiles[i.toNat]'i.isLt
def Core.setTile (c : Core) (i : BitVec 6) (x : Tile) : Core :=
  { c with store := { c.store with tiles := c.store.tiles.set i.toNat x i.isLt } }
def Tile.base (x : Tile) : Nat := 4096 * x.baseg.toNat
def Tile.len (x : Tile) : Nat := 4096 * (x.lenm1.toNat + 1)

/-- SPADBOUNDS with a TVAL (R189). -/
def spadBounds (v : Nat) : Gate := .fail 0x84 (BitVec.ofNat 64 v)

/-- A word that names a tile issues only while it is READY; an unused or EMPTY tile faults (R208). -/
def Core.tileGate (c : Core) (i : BitVec 6) : Gate :=
  let x := c.tile i
  if !x.used || x.state = .empty then spadBounds i.toNat
  else Gate.need (some 6) (x.state == .ready)

/-- The tile gate of a stream, for kind TILE. -/
def Core.streamTileGate (c : Core) (q : Stream) : Gate := if q.kind = 1 then c.tileGate q.tile else .go

/-- Tiles that issued words of V, M and X name and have not completed with (R101, R157, R208). In a handler those of the
program stand in the replay store and in the saved journal (R124, R186). -/
def Core.tileInUse (c : Core) (i : BitVec 6) : Bool :=
  c.vec.flights.any (fun f => f.tile == some i) || c.mat.queue.any (fun w => w.tile.contains i) ||
  (c.scalar.handler && c.vec.replay.any (fun x => x.tile == some i)) ||
  (if c.scalar.handler then c.xfer.journal ++ c.xfer.saved else c.xfer.journal).any (fun e =>
    let named := fun (q : Stream) => q.kind = 1 && q.tile = i
    let op := wordOp e.word
    (op = 6 || op = 7) && fld e.word 0 1 = 0 && fld e.word 15 6 = i ||
      (op < 6 && (named e.qs || named e.qd || ((op = 2 || op = 3) && named e.qi))))

/-! ### Bounds of scratchpad streams (R80) -/

/-- Scratchpad offset of a stream's offset 0, and the limit its bytes stay below. -/
def Core.spadBase (c : Core) (q : Stream) : Nat := if q.kind = 1 then (c.tile q.tile).base else 0
def Core.spadLimit (c : Core) (q : Stream) : Nat := if q.kind = 1 then (c.tile q.tile).len else c.store.tsave

/-- The offset of the first element of row r, of the columns lo to hi − 1, that passes the limit. -/
def Stream.rowOver (q : Stream) (i : Idx) (limit r lo hi : Nat) : Option Nat :=
  if hi ≤ lo then none
  else
    let nb := if q.width < 8 then 1 else q.width / 8
    if q.elemOff i r lo + ((hi - 1) * q.width / 8 - lo * q.width / 8) + nb ≤ limit then none
    else ((List.range (hi - lo)).find? (fun k => limit < q.elemOff i r (lo + k) + nb)).map
      (fun k => q.elemOff i r (lo + k))

/-- The first scale record of valid elements in rows rlo to rhi − 1 and columns lo to hi − 1 that passes the
limit. -/
def Stream.recOver (q : Stream) (i : Idx) (limit rlo rhi lo hi : Nat) : Option Nat :=
  (List.range (rhi - rlo)).findSome? (fun dr =>
    (List.range (hi - lo)).findSome? (fun dc =>
      let o := q.recOff i (rlo + dr) (lo + dc)
      if limit < o + 2 then some o else none))

/-- R80 for a SPAD or TILE stream over the valid elements among rows rlo to rhi − 1 and columns lo to
hi − 1, and over their scale records where the word reads or writes them. -/
def Core.spadGate (c : Core) (q : Stream) (i : Idx) (rlo rhi lo hi : Nat) (recs : Bool) : Gate :=
  if q.kind = 0 ∨ q.kind = 1 then
    let rhi := Nat.min rhi q.vrows
    let hi := Nat.min hi q.vcols
    let lim := c.spadLimit q
    match (List.range (rhi - rlo)).findSome? (fun k => q.rowOver i lim (rlo + k) lo hi) with
    | some o => spadBounds o
    | none =>
      if recs && fmtScaled q.fmt then
        match q.recOver i lim rlo rhi lo hi with
        | some o => spadBounds o
        | none => .go
      else .go
  else .go

/-- The accumulators of the valid columns below hi of an ACCV stream (R77). -/
def Stream.accNums (q : Stream) (i : Idx) (hi : Nat) : List Nat :=
  if q.kind = 3 ∧ 0 < q.vrows then (List.range ((Nat.min hi q.vcols + 31) / 32)).map (fun b => q.accNum i (32 * b)) else []

/-- An FP64 accumulator stream starts no pair at an odd accumulator: MATFMT, reason 3 (R109). -/
def Stream.pairsEven (q : Stream) (i : Idx) (hi : Nat) : Bool := q.fmt ≠ 3 || (q.accNums i hi).all (· % 2 = 0)

/-- R80 for an ACCV stream: every accumulator of the valid columns below hi is present; an FP64 pair needs
its odd member too. -/
def Core.accvGate (c : Core) (q : Stream) (i : Idx) (hi : Nat) : Gate :=
  let odd := if q.fmt = 3 then 1 else 0
  match (q.accNums i hi).find? (fun k => c.store.accs ≤ k + odd) with
  | some k => spadBounds (if c.store.accs ≤ k then k else k + odd)
  | none => .go

/-! ### Reading and writing elements of the scratchpad (R52, R76, R77) -/

/-- The raw bits of element (r, c) of a SPAD or TILE stream; zero outside the valid area (R76). -/
def Core.elemBits (c : Core) (m : Mem) (q : Stream) (i : Idx) (r col : Nat) : Nat :=
  if q.valid r col then
    let a := c.spadBase q + q.elemOff i r col
    if q.width = 4 then (m.load a 1 / (if q.upper col then 16 else 1)) % 16
    else m.load a (q.width / 8)
  else 0

/-- The scale record of element (r, c) (R55). -/
def Core.recBits (c : Core) (m : Mem) (q : Stream) (i : Idx) (r col : Nat) : Nat :=
  m.load (c.spadBase q + q.recOff i r col) 2

/-- The bytes with element (r, c) replaced; the other nibble of a 4-bit element stays (R52). -/
def Core.setElem (c : Core) (m : Mem) (q : Stream) (i : Idx) (r col v : Nat) : Mem :=
  if q.valid r col then
    let a := c.spadBase q + q.elemOff i r col
    if q.width = 4 then
      let old := m.load a 1
      m.store a 1 (if q.upper col then old % 16 + 16 * (v % 16) else old / 16 * 16 + v % 16)
    else m.store a (q.width / 8) v
  else m

/-! ### Accumulators and the down-converter (R97, R109) -/

def Core.accum (c : Core) (k : Nat) : BitVec 32768 := (c.mat.accs[k]?).getD 0

/-- Element (i, j) of accumulator k as 32 bits (R97). -/
def Core.accBits (c : Core) (k i j : Nat) : Nat := bitsAt (c.accum k) 32 (32 * i + j)

/-- Element (i, j) of the FP64 pair at k (R97). -/
def Core.pairBits (c : Core) (k i j : Nat) : Nat := c.accBits k i j + 2 ^ 32 * c.accBits (k + 1) i j

/-- Converts an accumulator element to an unscaled format (R109): its code and the flags. -/
def Core.downCode (c : Core) (fmt k i j : Nat) : Nat × BitVec 6 :=
  match fmt with
  | 0 | 4 => (c.accBits k i j, 0)
  | 3 => (c.pairBits k i j, 0)
  | 1 | 2 | 10 | 11 => toFloat fmt .rne false (Fmt.f32.value (c.accBits k i j))
  | _ => placeInt fmt true (signed 32 (c.accBits k i j))

/-- Row r, accumulator block b of a block-scaled ACCV stream (R57, R109): the codes, the record and the
flags; an element outside the valid area takes part as +0. -/
def Core.downBlock (c : Core) (q : Stream) (i : Idx) (r b : Nat) : List Nat × Nat × BitVec 6 :=
  let k := q.accNum i (32 * b)
  encodeBlock q.fmt ((List.range 32).map (fun j =>
    if q.valid r (32 * b + j) then Fmt.f32.value (c.accBits k r j) else .fin false 0 0))

/-- The value and flags of element (r, c) of an ACCV stream that is not block-scaled. -/
def Core.downElem (c : Core) (q : Stream) (i : Idx) (r col : Nat) : Nat × BitVec 6 :=
  if q.valid r col then c.downCode q.fmt (q.accNum i col) r (col % 32) else (0, 0)

/-- The decoded values of columns 0 to n − 1 of row r of a stream, and the flags of the down-converter
(R56, R76, R109). -/
def Core.rowValues (c : Core) (q : Stream) (i : Idx) (r n : Nat) : List FVal × BitVec 6 :=
  if q.kind = 3 then
    if fmtScaled q.fmt then
      (List.range ((n + 31) / 32)).foldl (fun acc b =>
        let (codes, rec, fl) := if r < q.vrows ∧ 32 * b < q.vcols then c.downBlock q i r b else ([], 0, 0)
        let vals := (List.range (Nat.min 32 (n - 32 * b))).map (fun j =>
          if q.valid r (32 * b + j) then elemValue q.fmt ((codes[j]?).getD 0) rec else .fin false 0 0)
        (acc.1 ++ vals, acc.2 ||| fl)) ([], 0)
    else
      (List.range n).foldl (fun acc col =>
        let (v, fl) := c.downElem q i r col
        (acc.1 ++ [if q.valid r col then elemValue q.fmt v 0 else .fin false 0 0], acc.2 ||| fl)) ([], 0)
  else
    ((List.range n).map (fun col =>
      if q.valid r col then
        elemValue q.fmt (c.elemBits c.store.spad q i r col)
          (if fmtScaled q.fmt then c.recBits c.store.spad q i r col else 0)
      else .fin false 0 0), 0)

/-! ### Handles (R211, R218) -/

def Core.handle (c : Core) (h : BitVec 4) : Handle := c.store.handles[h.toNat]'h.isLt
def Core.setHandle (c : Core) (h : BitVec 4) (x : Handle) : Core :=
  { c with store := { c.store with handles := c.store.handles.set h.toNat x h.isLt } }

/-- The first check of R218: an INVALID handle is NOHANDLE, a REVOKED one REVOKED. -/
def Core.handleGate (c : Core) (h : BitVec 4) : Gate :=
  match (c.handle h).state with
  | .invalid => .fail 0x82 (h.setWidth 64)
  | .revoked => .fail 0x0A (h.setWidth 64)
  | .valid => .go

/-- The page that holds offset o of handle h. -/
def Core.handlePage (c : Core) (h : BitVec 4) (o : Nat) : Option Page :=
  let x := c.handle h
  x.pages.find? (fun p => decide (p.va ≤ x.va.toNat + o) && decide (x.va.toNat + o < p.va + 2 ^ p.bits))

/-- HANDLEPERM naming h (R189). -/
def handlePerm (h : BitVec 4) : Gate := .fail 0x81 (h.setWidth 64)

/-- The plane region that holds a machine address (R232). -/
def Device.planeAt (d : Device) (addr : Nat) : Option Plane :=
  d.planes.find? (fun p => decide (p.base ≤ addr) && decide (addr < p.base + p.len))

/-- Whether a core is a member of the tag a plane is bound to (R234). -/
def Device.isMember (d : Device) (p : Plane) (core : Nat) : Bool :=
  match p.bound with
  | none => false
  | some (t, _) => (d.tags[t.toNat]'t.isLt).members.any (fun m => m.core = core)

/-- Kinds of access for the checks of R218 and R234. -/
inductive AccessKind where
  | load | store (size : Nat) | release | atomic
  deriving DecidableEq, Repr

/-- The checks of R218, in their order, and of R234 for a store to a PLANE page: h, offset, size, right. -/
def State.accessGate (s : State) (h : BitVec 4) (o size : Nat) (k : AccessKind) : Gate :=
  let c := s.core
  let x := c.handle h
  let plane? := fun (_ : Unit) => (c.handlePage h o).bind (fun p => if p.kind = .plane then some p else none)
  Gate.all [c.handleGate h,
    Gate.check 0x80 (h.setWidth 64) (o % size = 0 && o + size ≤ x.len.toNat),
    match k with
    | .load => .go
    | .atomic => Gate.check 0x81 (h.setWidth 64) (x.fn = 2)
    | .release => if x.fn = 0 ∨ (plane? ()).isSome then handlePerm h else .go
    | .store n =>
      if x.fn = 0 then handlePerm h
      else match plane? () with
        | none => .go
        | some p =>
          match s.dev.planeAt (p.addr (x.va.toNat + o)) with
          | none => .go
          | some pl =>
            if pl.bound.isNone then .go
            else if s.dev.isMember pl c.id && 4 ≤ n then .go else handlePerm h]

/-- No S word that will make h VALID is in flight (R131, R212). -/
def Core.handleReady (c : Core) (h : BitVec 4) : Bool :=
  !c.scalar.flights.any (fun f => match f.work with | .xlat k _ _ _ _ => k == h | _ => false)

/-- Whether an issued, incomplete word of any engine names h (R212, R214). -/
def Core.handleInUse (c : Core) (h : BitVec 4) : Bool :=
  c.scalar.flights.any (fun f => f.handle == some h) ||
  c.xfer.journal.any (fun e =>
    let op := wordOp e.word
    let tile := fun (i : BitVec 6) => (c.store.classes[(c.tile i).cls.toNat]'(c.tile i).cls.isLt).handle
    if op = 6 ∨ op = 7 then
      (if fld e.word 0 1 = 1 ∧ op = 7 then e.old.extractLsb' 0 4 = h else tile (fld e.word 15 6) = h)
    else op < 6 && ((e.qs.kind = 2 && e.qs.handle = h) || (e.qd.kind = 2 && e.qd.handle = h)))

/-! ### Vector register blocks (R32, R152, R154) -/

/-- Rows and columns of an ext block. -/
def extShape (e : BitVec 3) : Nat × Nat :=
  match e.toNat with
  | 0 => (1, 1) | 1 => (1, 2) | 2 => (1, 4) | 3 => (1, 8) | 4 => (2, 1) | 5 => (4, 1) | 6 => (2, 4) | _ => (4, 8)

/-- Registers of the block. -/
def extSize (e : BitVec 3) : Nat := (extShape e).1 * (extShape e).2

/-- The number of the k-th register of the block based at vN (R154). -/
def blockReg (e : BitVec 3) (n : BitVec 5) (k : Nat) : BitVec 5 :=
  let cols := (extShape e).2
  BitVec.ofNat 5 ((n.toNat / 8 + k / cols) % 4 * 8 + (n.toNat % 8 + k % cols) % 8)

/-- The k-th of consecutive registers from vN, wrapping from v31 to v0 (R169). -/
def runReg (n : BitVec 5) (k : Nat) : BitVec 5 := n + BitVec.ofNat 5 k

/-- The physical register of vN in the window in effect (R152). -/
def Core.phys (c : Core) (n : BitVec 5) : BitVec 8 := c.vec.window ++ n

/-- Replaces bytes lo to lo + n − 1 of a register. -/
def mergeBytes (old new : BitVec 8192) (lo n : Nat) : BitVec 8192 :=
  if lo = 0 ∧ 1024 ≤ n then new
  else
    let m := BitVec.ofNat 8192 ((2 ^ (8 * n) - 1) * 2 ^ (8 * lo))
    (old &&& ~~~m) ||| (new &&& m)

/-- What one landing does to a register, mask, latch or the scratchpad (R155). -/
def Flight.onReg (f : Flight) (p : BitVec 8) (v : BitVec 8192) : BitVec 8192 :=
  match f.result with
  | .vreg q w lo n => if q = p then mergeBytes v w lo n else v
  | _ => v

def Flight.onMask (f : Flight) (m : BitVec 2) (v : BitVec 256) : BitVec 256 :=
  match f.result with
  | .mask k w => if k = m then w else v
  | _ => v

def Flight.onLatch (f : Flight) (v : Word) : Word :=
  match f.result with
  | .latch w => w
  | _ => v

/-- Writes n elements of w bits of a register at scratchpad byte `off`; an odd count of 4-bit elements keeps
the last nibble (R52). -/
def putRow (m : Mem) (v : BitVec 8192) (off n w : Nat) : Mem :=
  if w = 4 then
    let m := m.store off (n / 2) (bitsAt v (n / 2 * 8) 0)
    if n % 2 = 1 then
      let a := off + n / 2
      m.store a 1 (m.load a 1 / 16 * 16 + bitsAt v 4 (n - 1))
    else m
  else m.store off (n * w / 8) (bitsAt v (n * w) 0)

/-- Writes the lanes of a scatter at their offsets, in lane order; 0xFFFFFFFF means skip (R175, R184). -/
def putScatter (m : Mem) (v offs : BitVec 8192) (wide : Bool) : Mem :=
  let n := if wide then 8 else 4
  (List.range (if wide then 128 else 256)).foldl (fun m i =>
    let o := bitsAt offs 32 (if wide then 2 * i else i)
    if o = 0xFFFFFFFF then m else m.store o n (bitsAt v (8 * n) i)) m

def Flight.onSpad (f : Flight) (m : Mem) : Mem :=
  match f.result with
  | .row v off n w => putRow m v off n w
  | .scatter v offs wide => putScatter m v offs wide
  | _ => m

/-- Folds the results that land within k V cycles from now, by landing cycle and then by issue: what a read
k cycles from now sees (R124, R155). -/
def landed {α : Type} (fs : List Flight) (k : Nat) (f : Flight → α → α) (x : α) : α :=
  (List.range (k + 1)).foldl (fun x j => fs.foldl (fun x g => if g.remain = j then f g x else x) x) x

/-- A register, mask, the latch and the scratchpad as a read k cycles after this one sees them. -/
def Core.vregAt (c : Core) (n : BitVec 5) (k : Nat) : BitVec 8192 :=
  landed c.vec.flights k (fun f v => f.onReg (c.phys n) v) (c.vec.regs[(c.phys n).toNat]'(c.phys n).isLt)

def Core.maskAt (c : Core) (m : BitVec 2) (k : Nat) : BitVec 256 :=
  landed c.vec.flights k (fun f v => f.onMask m v) (c.vec.masks[m.toNat]'m.isLt)

def Core.latchAt (c : Core) (k : Nat) : Word := landed c.vec.flights k (fun f v => f.onLatch v) c.vec.latch

def Core.spadAt (c : Core) (k : Nat) : Mem := landed c.vec.flights k Flight.onSpad c.store.spad

/-- A result that lands `remain` V cycles after issue. -/
def flight (remain : Nat) (r : Result) (fl : Flags) : Flight := ⟨remain, r, 0, 0, fl, none, false, false⟩

/-- A register of elements of w bits (R153). -/
def vecOf (w : Nat) (f : Nat → Nat) : BitVec 8192 := BitVec.ofNat 8192 (packBits w ((List.range (8192 / w)).map f))

/-- The same with flags. -/
def vecFlags (w : Nat) (f : Nat → Nat × Flags) : BitVec 8192 × Flags :=
  let xs := (List.range (8192 / w)).map f
  (BitVec.ofNat 8192 (packBits w (xs.map (·.1))), xs.foldl (fun a x => a ||| x.2) 0)

/-- The core with more results in flight: what a read of the same word sees, once it has read the registers before (R155). -/
def Core.withFlights (c : Core) (fs : List Flight) : Core :=
  { c with vec := { c.vec with flights := c.vec.flights ++ fs } }

/-- The results of a word over n registers, in block order: register k is read k cycles after issue, when the results of
the word's own earlier registers that have landed by then are seen as any other (R154, R155). -/
def Core.steps (c : Core) (f : Core → Nat → List Flight) : Nat → List Flight
  | 0 => []
  | n + 1 =>
    let fs := c.steps f n
    fs ++ f (c.withFlights fs) n

/-- The tile a V flight keeps READY (R157). -/
def Stream.tile? (q : Stream) : Option (BitVec 6) := if q.kind = 1 then some q.tile else none

/-- The bits and flags of element (r, c) of a stream as read k cycles after issue; zero where it is invalid or
beyond the block (R76, R174). -/
def Core.streamElem (c : Core) (q : Stream) (i : Idx) (m : Mem) (r col : Nat) : Nat × Flags :=
  if r < q.rows ∧ col < q.cols then
    if q.kind = 3 then c.downElem q i r col else (c.elemBits m q i r col, 0)
  else (0, 0)

/-- The elements that index register k of a VGATH or VSCAT names, in lane order (R175). -/
def Core.gatherNames (c : Core) (e : BitVec 3) (i : BitVec 5) (q : Stream) (k : Nat) : List (Option (Nat × Nat)) :=
  let v := c.vregAt (blockReg e i k) k
  (List.range (if q.width = 64 then 128 else 256)).map (fun l =>
    let x := bitsAt v 32 (if q.width = 64 then 2 * l else l)
    let r := x / q.cols
    let col := x % q.cols
    if r < q.rows && q.valid r col then some (r, col) else none)

/-- The results of VGATH: each lane takes the element its index names, or zero (R175). -/
def Core.gathered (c : Core) (e : BitVec 3) (d i : BitVec 5) (x : Stream) : List Flight :=
  c.steps (fun c k =>
    let m := c.spadAt k
    let names := (c.gatherNames e i x k).toArray
    let (v, fl) := vecFlags x.width (fun l =>
      match (names[l]?).getD none with
      | some (r, col) => c.streamElem x c.idx m r col
      | none => (0, 0))
    [{ flight (k + 14) (.vreg (c.phys (blockReg e d k)) v 0 1024) fl with tile := x.tile? }]) (extSize e)

end Sys2Proof.Machine
end

