-- ==== Sys2Proof/Machine/Flags.lean ====
section
/-! DEFINITION. Every condition and flag computation: the compares of S (spec/07 R137), the compares and
mask results of V (spec/08 R163, R166), and the control registers that hold modes and flags (spec/03 R46,
R47; spec/02 R19; spec/07 R145, R146). -/
namespace Sys2Proof.Machine

/-- The bit a scalar compare pushes, by fn (R137): EQ, NE, LT, GE signed, LT, GE unsigned. -/
def scalarCond (fn : Nat) (a b : Word) : Bool :=
  match fn with
  | 0 => a == b
  | 1 => a != b
  | 2 => a.slt b
  | 3 => !a.slt b
  | 4 => a.ult b
  | _ => !a.ult b

/-- A floating-point compare of two codes (R163): EQ, NE, LT, GE, UN. No flag is set. -/
def floatCond (F : Fmt) (ftz : Bool) (cond x y : Nat) : Bool :=
  let a := F.operand ftz x
  let b := F.operand ftz y
  let un := a == .nan || b == .nan
  match cond with
  | 0 => !un && FVal.cmp a b == .eq
  | 1 => un || FVal.cmp a b != .eq
  | 2 => !un && FVal.cmp a b == .lt
  | 3 => !un && FVal.cmp a b != .lt
  | _ => un

/-- An integer compare of two elements of w bits (R163). -/
def intCond (w cond x y : Nat) : Bool :=
  match cond with
  | 0 => x == y
  | 1 => x != y
  | 2 => signed w x < signed w y
  | 3 => !(signed w x < signed w y)
  | 4 => x < y
  | _ => !(x < y)

/-- A mask from the results of n elements (R163): 64-bit elements set both lanes of a pair, narrow elements
must all hold in a lane. -/
def condMask (w : Nat) (res : Nat → Bool) : BitVec 256 :=
  BitVec.ofNat 256 (packBits 1 ((List.range 256).map (fun i =>
    b2n (if w = 64 then res (i / 2)
      else (List.range (32 / w)).all (fun k => res (i * (32 / w) + k))))))

/-- FTZ and RM of FPMODE (R46). -/
def Scalar.ftz (x : Scalar) : Bool := x.fpmode.getLsbD 2
def Scalar.rm (x : Scalar) : RMode := RMode.ofField x.fpmode.toNat

/-- The value CRR reads from a control register (R146). -/
def State.readControl (s : State) (n : Nat) : Word :=
  let c := s.core
  let d := s.dev
  match n with
  | 0x00 => BitVec.ofNat 64 (c.id + d.dieOf c.id * 2 ^ 16 + (d.place c.id).1 * 2 ^ 19 + (d.place c.id).2 * 2 ^ 21)
  | 0x01 => BitVec.ofNat 64 d.cycle
  | 0x02 => BitVec.ofNat 64 (d.cycle % 256 + d.cycle / 256 * 256)
  | 0x03 => d.enumBase
  | 0x04 => c.scalar.slip.setWidth 64
  | 0x05 => c.scalar.fpmode.setWidth 64
  | 0x06 => c.scalar.fpflags.setWidth 64
  | 0x07 => d.segtab
  | 0x08 => c.scalar.tvec
  | 0x09 => c.scalar.tcause.setWidth 64
  | 0x0A => c.scalar.tval
  | 0x0B => BitVec.ofNat 64 (d.segcnt % 2 ^ 24)
  | 0x0C => c.scalar.timer.setWidth 64
  | 0x0D => BitVec.ofNat 64 c.store.tsave
  | 0x0E => c.store.part.setWidth 64
  | 0x10 => c.scalar.ien.setWidth 64
  | 0x11 => c.scalar.ipend.setWidth 64
  | _ => 0

end Sys2Proof.Machine
end

