-- ==== Sys2Proof/Machine/Keccak.lean ====
section
/-! DEFINITION. KMAC256, the seal of code handles (spec/07 R141). The manual names the function; its
definition is the published one of FIPS 202 and SP 800-185 (log 6). -/
namespace Sys2Proof.Machine

/-- Round constants of the iota step. -/
def keccakRc : List Word :=
  [0x0000000000000001, 0x0000000000008082, 0x800000000000808A, 0x8000000080008000,
   0x000000000000808B, 0x0000000080000001, 0x8000000080008081, 0x8000000000008009] ++
  [0x000000000000008A, 0x0000000000000088, 0x0000000080008009, 0x000000008000000A,
   0x000000008000808B, 0x800000000000008B, 0x8000000000008089, 0x8000000000008003] ++
  [0x8000000000008002, 0x8000000000000080, 0x000000000000800A, 0x800000008000000A,
   0x8000000080008081, 0x8000000000008080, 0x0000000080000001, 0x8000000080008008]

/-- Rotations of the rho step, by lane x + 5y. -/
def keccakRot : List Nat :=
  [0, 1, 62, 28, 27, 36, 44, 6, 55, 20, 3, 10, 43] ++ [25, 39, 41, 45, 15, 21, 8, 18, 2, 61, 56, 14]

def lane (a : List Word) (i : Nat) : Word := (a[i]?).getD 0

/-- One round of Keccak-f[1600] on 25 lanes. -/
def keccakRound (a : List Word) (rc : Word) : List Word :=
  let c := (List.range 5).map (fun x => lane a x ^^^ lane a (x + 5) ^^^ lane a (x + 10) ^^^ lane a (x + 15) ^^^ lane a (x + 20))
  let d := (List.range 5).map (fun x => lane c ((x + 4) % 5) ^^^ (lane c ((x + 1) % 5)).rotateLeft 1)
  let t := (List.range 25).map (fun i => lane a i ^^^ lane d (i % 5))
  -- pi: lane (X, Y) comes from lane (x, y) with X = y and Y = 2x + 3y
  let b := (List.range 25).map (fun i =>
    let x := (i % 5 + 3 * (i / 5)) % 5
    let y := i % 5
    (lane t (x + 5 * y)).rotateLeft ((keccakRot[x + 5 * y]?).getD 0))
  let e := (List.range 25).map (fun i =>
    let y := i / 5
    lane b i ^^^ (~~~(lane b ((i + 1) % 5 + 5 * y)) &&& lane b ((i + 2) % 5 + 5 * y)))
  match e with
  | [] => []
  | z :: zs => (z ^^^ rc) :: zs

def keccakF (a : List Word) : List Word := keccakRc.foldl keccakRound a

/-- Absorbs whole blocks of 136 bytes, with fuel. -/
def keccakAbsorb : Nat → List Word → List Byte → List Word
  | 0, a, _ => a
  | n + 1, a, bs =>
    if bs = [] then a
    else
      let blk := (List.range 25).map (fun i =>
        if i < 17 then lane a i ^^^ BitVec.ofNat 64 (leNat ((bs.drop (8 * i)).take 8)) else lane a i)
      keccakAbsorb n (keccakF blk) (bs.drop 136)

/-- Big-endian bytes of a number, at least one. -/
def beBytes (v : Nat) : List Byte :=
  let n := if v = 0 then 1 else Nat.log2 v / 8 + 1
  (leBytes n v).reverse

def leftEncode (v : Nat) : List Byte := BitVec.ofNat 8 (beBytes v).length :: beBytes v
def rightEncode (v : Nat) : List Byte := beBytes v ++ [BitVec.ofNat 8 (beBytes v).length]
def encodeString (s : List Byte) : List Byte := leftEncode (8 * s.length) ++ s

/-- Pads with zeros to a multiple of the rate, 136 bytes. -/
def bytepad (x : List Byte) : List Byte :=
  let y := leftEncode 136 ++ x
  y ++ List.replicate ((136 - y.length % 136) % 136) 0

/-- Pads a message with the cSHAKE suffix and the final bit. -/
def keccakPad (m : List Byte) : List Byte :=
  let n := 136 - m.length % 136
  if n = 1 then m ++ [0x84] else m ++ [0x04] ++ List.replicate (n - 2) 0 ++ [0x80]

/-- The first 8 bytes of KMAC256 of a message under a key and customisation string. -/
def kmac256 (key msg custom : List Byte) : Word :=
  let kmac : List Byte := [0x4B, 0x4D, 0x41, 0x43]
  let m := bytepad (encodeString kmac ++ encodeString custom) ++ bytepad (encodeString key) ++ msg ++ rightEncode 64
  let p := keccakPad m
  lane (keccakAbsorb (p.length / 136 + 1) (List.replicate 25 0) p) 0

/-- "NEROFT-CODE". -/
def sealName : List Byte := [0x4E, 0x45, 0x52, 0x4F, 0x46, 0x54, 0x2D, 0x43, 0x4F, 0x44, 0x45]

/-- The tag of a code handle's low doubleword under the boot key (R141). That the key is 256 bits long and enters KMAC256 as 32
bytes, the least significant first, is the model's choice (log 6). -/
def sealTag (bootKey : BitVec 256) (lo : Word) : Word :=
  kmac256 (leBytes 32 bootKey.toNat) (leBytes 8 lo.toNat) sealName

end Sys2Proof.Machine
end

