-- ==== Sys2Proof/Machine/Gates.lean ====
section
/-! DEFINITION. Gates: for every instruction word, what it waits for and what it checks when it comes to
issue, before it has any effect (spec/07 R131, spec/09 R181). Each gate lists its waits first and then its
checks in the order of their rules. -/
namespace Sys2Proof.Machine

/-- ILLEGAL for a word that decodes but may not be used here (R37, R125, R237): TVAL is the word. -/
def illegalWord (i : Instr) : Gate := .fail 0x01 (((encode i).getD 0).setWidth 64)

/-! ### Scalar words -/

/-- A divide in flight (R131). -/
def Core.dividing (c : Core) : Bool :=
  c.scalar.flights.any (fun f => match f.work with | .muldiv _ _ b => b | _ => false)

def Core.divGate (c : Core) (t : BitVec 3) (rs : List (BitVec 6)) : Gate :=
  (c.sGate t 0 rs).then (Gate.need none !c.dividing)

/-- A path word needs room in the three path queues, except in a handler, where it pushes nothing (R20,
R125). -/
def Core.pathGate (c : Core) (t : BitVec 3) (rs : List (BitVec 6)) : Gate :=
  (c.sGate t 0 rs).then (Gate.need (some 2) (c.scalar.handler || c.pathRoom))

/-- BCQ and BCQN wait for a condition (R27). -/
def Core.branchGate (c : Core) (t : BitVec 3) : Gate :=
  (c.pathGate t []).then (Gate.need (some 3) (c.queues.cond ≠ []))

/-- A descriptor of the segment table (R142), and whether its VALID bit is set. -/
structure Segment where
  base    : Word
  length  : Nat
  entries : Nat
  gen     : BitVec 16
  elist   : Nat
  valid   : Bool
  deriving DecidableEq, Repr

/-- Reads n bytes of device memory at a device physical address (R331: [51:40] key slot, [39:0] frame):
none where the memory cannot be read. -/
def Device.readPhys (d : Device) (a n : Nat) : Option (List Byte) :=
  let key := a / 2 ^ 40 % 4096
  let f := a % 2 ^ 40
  let cap := d.stacks * d.stackGib * 2 ^ 30
  if a ≥ 2 ^ 52 ∨ cap < f + n then none
  else if (linesOf f n).any (fun l => d.linePoisoned .device key l || !d.reachable .device (64 * l) none) then none
  else some (d.bytesAt f n)

/-- Descriptor n of the segment table. -/
def Device.segment (d : Device) (n : Nat) : Option Segment :=
  (d.readPhys (d.segtab.toNat + 32 * n) 32).map (fun bs =>
    let at' := fun lo k => leNat ((bs.drop lo).take k)
    ⟨BitVec.ofNat 64 (at' 0 8), at' 8 4, at' 12 2, BitVec.ofNat 16 (at' 14 2), at' 16 8, at' 24 1 % 2 = 1⟩)

/-- The checks of R143, for the right at RIGHTS bit `right` (0 ENTER, 1 LAUNCH): the target address, or the
TVAL of SEGMENT. -/
def Device.enterCode (d : Device) (right : Nat) (lo tag : Word) (idx : Nat) : Except Word Word :=
  let seg := (lo.extractLsb' 0 24).toNat
  let bad := fun (reason : Nat) => Except.error (BitVec.ofNat 64 (reason + 256 * seg))
  if tag ≠ sealTag d.bootKey lo then bad 1
  else if lo.getLsbD (40 + right) = false then bad 2
  else if d.segcnt ≤ seg then bad 3
  else
    match d.segment seg with
    | none => bad 6
    | some g =>
      if !g.valid then bad 3
      else if g.gen ≠ lo.extractLsb' 24 16 then bad 4
      else if g.entries ≤ idx then bad 5
      else
        match d.readPhys (g.elist + 4 * idx) 4 with
        | none => bad 6
        | some bs =>
          let off := leNat bs
          if g.length ≤ 4 * off then bad 6 else .ok (g.base + BitVec.ofNat 64 (4 * off))

/-- The device physical ranges that those checks read: the descriptor, and the entry of the entry list. -/
def Device.codeReads (d : Device) (right : Nat) (lo tag : Word) (idx : Nat) : List (Nat × Nat) :=
  let seg := (lo.extractLsb' 0 24).toNat
  if tag ≠ sealTag d.bootKey lo ∨ lo.getLsbD (40 + right) = false ∨ d.segcnt ≤ seg then []
  else
    (d.segtab.toNat + 32 * seg, 32) ::
      (match d.segment seg with
       | some g => if g.valid ∧ g.gen = lo.extractLsb' 24 16 ∧ idx < g.entries then [(g.elist + 4 * idx, 4)] else []
       | none => [])

/-- What the fills of a range at a device physical address add to the error counters (R325). -/
def Device.notePhys (d : Device) (a n : Nat) : Device :=
  if 2 ^ 52 ≤ a then d
  else d.noteErrors ((linesOf (a % 2 ^ 40) n).filterMap (d.fillNote .device (a / 2 ^ 40 % 4096) none))

/-- What those reads add to the error counters. -/
def Device.noteCode (d : Device) (right : Nat) (lo tag : Word) (idx : Nat) : Device :=
  (d.codeReads right lo tag idx).foldl (fun d x => d.notePhys x.1 x.2) d

/-- CALLK's checks (R143). -/
def State.callkTarget (s : State) (a : BitVec 5) (b : BitVec 6) : Except Word Word :=
  s.dev.enterCode 0 (s.core.reg (pairEven a)) (s.core.reg (pairOdd a)) (s.core.reg b).toNat

def State.callkGate (s : State) (t : BitVec 3) (a : BitVec 5) (b : BitVec 6) : Gate :=
  (s.core.pathGate t [pairEven a, pairOdd a, b, 62]).then
    (match s.callkTarget a b with
     | .ok _ => .go
     | .error v => .fail 0x0D v)

/-- A member of the tag that this core is, if any. -/
def State.member (s : State) (g : BitVec 3) : Option Member :=
  (s.dev.tags[g.toNat]'g.isLt).members.find? (fun m => m.core = s.core.id)

/-- A collision that this core has still to take (R236). -/
def State.collision (s : State) : Option Word :=
  (List.range 8).findSome? (fun g => (s.member (BitVec.ofNat 3 g)).bind (fun m =>
    if m.unreleased || !m.bara then none else m.collided))

/-- Whether this core arrived with BARA in a phase that is unreleased (R18, R236). -/
def State.baraOpen (s : State) : Bool :=
  (List.range 8).any (fun g => match s.member (BitVec.ofNat 3 g) with
    | some m => m.unreleased && m.bara
    | none => false)

/-- HALT: V, M and X stand at it, but in a handler (R125), no BARA of this core is unreleased, and a collision due to
it is taken first (R18, R236). -/
def State.haltGate (s : State) (t : BitVec 3) : Gate :=
  let c := s.core
  let here := c.engV.pc = c.engS.pc && c.engM.pc = c.engS.pc && c.engX.pc = c.engS.pc
  Gate.all [c.sGate t 0 [], Gate.need none ((c.scalar.handler || here) && !s.baraOpen),
    match s.collision with
    | some va => .fail 0x0E va
    | none => .go]

/-- A write of this core that was lost and that a release or fence of scope DEVICE or wider must report
(R313, R334). -/
def State.lostGate (s : State) (scope : BitVec 2) : Gate :=
  match s.dev.lostLines.find? (fun x => x.1 = s.core.id) with
  | some x => if 2 ≤ scope.toNat then .fail 0x83 (BitVec.ofNat 64 x.2) else .go
  | none => .go

/-- Whether a request is a write or an update of memory at a peer. -/
def PeerReq.isWrite (r : PeerReq) : Bool :=
  match r.kind with
  | .write | .xwrite | .xred _ _ _ => true
  | .load | .xread => false

/-- Whether a write to a peer is not acknowledged yet, whoever made it: a release covers also those of other agents that
happen before it (R245, R249, R311; log 83). -/
def State.unacked (s : State) : Bool := s.dev.peerReqs.any PeerReq.isWrite

/-- Whether every die that may share a line can be reached, or its isolation is confirmed: a write whose invalidations fan out
completes then (R334; log 102). -/
def Device.allReached (d : Device) : Bool :=
  d.stopAt = [] && (List.range d.dies).all (fun x => !d.present x || d.liveComponent.contains x)

/-- Whether a load from a peer is out: a release follows it. -/
def State.peerLoads (s : State) : Bool :=
  s.core.scalar.flights.any (fun f => match f.work with | .peer _ _ _ _ _ => true | _ => false)

/-- Whether the writes made so far are performed at a scope: from DEVICE scope on at their peers too, and with every die
reached (R245, R249, R334; log 83). -/
def State.performed (s : State) (scope : BitVec 2) : Bool := scope.toNat < 2 || (!s.unacked && s.dev.allReached)

/-- A release at a scope: the loads before it have returned from peers, and the writes before it are performed (R245, R249,
R312, R334; log 83); a write that was lost is met here (R313, R334). -/
def State.releaseGate (s : State) (scope : BitVec 2) : Gate :=
  (Gate.need none (!s.peerLoads && s.performed scope)).then (s.lostGate scope)

/-- The window that holds a machine address of host memory (R308). -/
def Device.windowOf (d : Device) (addr : Nat) : Option Window :=
  d.windows.find? (fun w => decide (hostBase + w.base ≤ addr) && decide (addr < hostBase + w.base + w.len))

/-- Whether an STL of a scope to a line defers the flush of what it covers (R252): not at CORE scope, not at SYSTEM scope to host
memory that CXL.cache does not reach (R316), and not to a peer, where the line has no owner on this device. -/
def Device.defers (d : Device) (scope : BitVec 2) (line : Nat) : Bool :=
  scope != 0 && !(decide (peerBase ≤ 64 * line) && decide (64 * line < enumPage)) &&
    (!(decide (hostBase ≤ 64 * line) && decide (64 * line < peerBase)) || scope != 3 ||
      ((d.windowOf (64 * line)).map (·.cxlc)).getD false)

/-- Whether another agent's request for a line waits for the flush of a release that is deferred on it: writes to peers that
the release covers are not acknowledged (R252). -/
def Device.lineHeld (d : Device) (core : Option Nat) (line : Nat) : Bool :=
  d.lazy.any (fun z => z.line = line && core != some z.core && d.peerReqs.any (fun r => r.isWrite && decide (r.id < z.upto)))

/-- The machine line of offset o of handle h. -/
def Core.lineAt (c : Core) (h : BitVec 4) (o : Nat) : Option Nat :=
  (c.handlePage h o).map (fun p => lineOf (p.addr ((c.handle h).va.toNat + o)))

/-- A deferred release holds the line of an access of S. -/
def State.heldAt (s : State) (h : BitVec 4) (o : Nat) : Bool := (s.core.lineAt h o).any (s.dev.lineHeld (some s.core.id))

/-- Whether offset o of handle h lies in a PEER page. -/
def State.isPeer (s : State) (h : BitVec 4) (o : Nat) : Bool :=
  match s.core.handlePage h o with
  | some p => p.kind == .peer
  | none => false

/-- A load, store or atomic at offset o of handle h (R218), behind every fence in flight (R255), and once a release that another
core has deferred on its line is flushed (R252). -/
def State.memGate (s : State) (t : BitVec 3) (rs : List (BitVec 6)) (h : BitVec 4) (o : Word) (size : Nat)
    (k : AccessKind) : Gate :=
  Gate.all [s.core.sGate t 0 rs, Gate.need none (!s.core.fenced && s.core.handleReady h),
    s.accessGate h o.toNat size k, Gate.need none !s.heldAt h o.toNat]

/-- Offset of the SM and SA forms (R219). -/
def State.offset (s : State) (a : BitVec 6) (i : BitVec 5) (size : Nat) : Word :=
  s.core.reg a + BitVec.ofNat 64 (i.toNat * size)

def State.loadGate (s : State) (t : BitVec 3) (d a : BitVec 6) (h : BitVec 4) (i : BitVec 5) (size : Nat) : Gate :=
  s.memGate t [a, d] h (s.offset a i size) size .load

def State.storeGate (s : State) (t : BitVec 3) (d a : BitVec 6) (h : BitVec 4) (i : BitVec 5) (size : Nat) : Gate :=
  s.memGate t [a, d] h (s.offset a i size) size (.store size)

/-- A slot wheel position of this core (R253). -/
def State.wheelGate (s : State) (q : BitVec 1) : Gate :=
  Gate.need none (q = 0 || s.dev.cycle % 256 = s.core.id % 256)

def accessSize (w : BitVec 1) : Nat := if w = 1 then 8 else 4

def State.ldaGate (s : State) (t : BitVec 3) (d a : BitVec 6) (h : BitVec 4) (w q : BitVec 1) : Gate :=
  (s.memGate t [a, d] h (s.core.reg a) (accessSize w) .load).then (s.wheelGate q)

/-- Whether an STL at offset o of handle h defers its flush. -/
def State.stlDefers (s : State) (h : BitVec 4) (o : Nat) (c : BitVec 2) : Bool :=
  (s.core.lineAt h o).any (s.dev.defers c)

/-- STL, a release at its scope (R220): where the flush of what it covers is deferred, it does not wait for it (R252). -/
def State.stlGate (s : State) (t : BitVec 3) (d a : BitVec 6) (h : BitVec 4) (w : BitVec 1) (c : BitVec 2)
    (q : BitVec 1) : Gate :=
  Gate.all [s.memGate t [a, d] h (s.core.reg a) (accessSize w) .release,
    if s.stlDefers h (s.core.reg a).toNat c then (Gate.need none !s.peerLoads).then (s.lostGate c) else s.releaseGate c,
    s.wheelGate q]

/-- The atomics; with ord = 1 they are a release at their scope (R221). -/
def State.amoGate (s : State) (t : BitVec 3) (rs : List (BitVec 6)) (a : BitVec 6) (h : BitVec 3) (w o : BitVec 1)
    (c : BitVec 2) : Gate :=
  (s.memGate t rs (h.setWidth 4) (s.core.reg a) (accessSize w) .atomic).then (if o = 1 then s.releaseGate c else .go)

/-- LDS and STS (R205). -/
def Core.spadWordGate (c : Core) (t : BitVec 3) (d a : BitVec 6) (i : BitVec 9) : Gate :=
  let o := (c.reg a + i.signExtend 64 * 8).toNat
  (c.sGate t 0 [a, d]).then (Gate.check 0x84 (BitVec.ofNat 64 o) (o % 8 = 0 && o < c.store.spadBytes))


/-- t(p): the lowest 4 KiB-aligned address in p at or above va (R212). -/
def pageTval (va : Nat) (p : Nat) : Nat := if p < va / 4096 * 4096 then va / 4096 * 4096 else p / 4096 * 4096

/-- What translating the rest of a range finds (R212): every page in the cache, a page missing from it, or
the fault to raise. -/
inductive Xlat where
  | hit (ps : List Page)
  | miss (va : Nat)
  | fault (cause : BitVec 8) (tval : Nat)
  deriving DecidableEq, Repr

/-- Looks the pages of va to end − 1 up in address order, with fuel for their number (R212). -/
def xlatPages (cache : List Page) (pasid : BitVec 20) (fn : BitVec 2) (start fin : Nat) : Nat → Nat → List Page → Xlat
  | 0, _, ps => .hit ps.reverse
  | n + 1, va, ps =>
    if fin ≤ va then .hit ps.reverse
    else
      match findPage cache pasid va with
      | none => .miss va
      | some p =>
        if p.grants fn then xlatPages cache pasid fn start fin n (p.va + 2 ^ p.bits) (p :: ps)
        else .fault 0x09 (pageTval start p.va)

/-- Entries of a core's handle table in use by the handles other than h (R211): those of VALID ones, and those of XLATs
that have issued and not retired. -/
def Core.tableUsed (c : Core) (h : BitVec 4) : Nat :=
  (List.range 16).foldl (fun n k =>
    let x := c.handle (BitVec.ofNat 4 k)
    if k = h.toNat ∨ x.state ≠ .valid then n else n + x.pages.length) 0 +
  c.scalar.flights.foldl (fun n f => match f.work with
    | .xlat k _ _ _ ps => if k = h then n else n + ps.length
    | _ => n) 0

/-- The pages the current die's translation cache holds. -/
def State.cachedPages (s : State) : List Page :=
  (s.dev.tcache.filter (fun x => x.1 = s.dev.dieOf s.core.id)).map (·.2)

/-- XLAT of a range through the die translation cache (R212). -/
def State.translate (s : State) (h : BitVec 4) (va len : Word) (fn : BitVec 2) : Xlat :=
  let v := va.toNat
  let n := len.toNat
  if n = 0 ∨ 2 ^ 26 < n ∨ 2 ^ 57 < v + n then .fault 0x08 (v / 4096 * 4096 + 2)
  else
    match xlatPages s.cachedPages s.pasid fn v (v + n) 16385 v [] with
    | .hit ps =>
      let free := 4096 - s.core.tableUsed h
      if ps.length ≤ free then .hit ps
      else .fault 0x08 (pageTval v (((ps[free]?).map (·.va)).getD v) + 1)
    | x => x

/-- XLAT waits for its interlocks, for fences, for every word that names h, and for its token (R212). -/
def State.xlatReady (s : State) (t : BitVec 3) (h : BitVec 4) (a b : BitVec 6) : Gate :=
  (s.core.sGate t 0 [a, b]).then
    (Gate.need none (!s.core.fenced && s.core.handleReady h && !s.core.handleInUse h))

/-- The gate of an XLAT: it waits through the walk that a miss starts (R212). -/
def State.xlatGate (s : State) (t : BitVec 3) (h : BitVec 4) (a b : BitVec 6) (fn : BitVec 2) : Gate :=
  (s.xlatReady t h a b).then
    (match s.translate h (s.core.reg a) (s.core.reg b) fn with
     | .fault cause v => .fail cause (BitVec.ofNat 64 v)
     | .miss _ => .wait none
     | .hit _ => .go)

/-- The walk that an XLAT which could otherwise issue starts (R212): the missing address. -/
def State.xlatMiss (s : State) (t : BitVec 3) (h : BitVec 4) (a b : BitVec 6) (fn : BitVec 2) : Option Nat :=
  if s.xlatReady t h a b = .go then
    match s.translate h (s.core.reg a) (s.core.reg b) fn with
    | .miss va => some va
    | _ => none
  else none

/-! ### PROBE and the tile words (R209, R210) -/

def tileNums : List (BitVec 6) := (List.range 64).map (BitVec.ofNat 6)

/-- The used tile of a class whose tag is (h, b) (R209). -/
def Core.probeHit (c : Core) (cls : BitVec 3) (b : BitVec 60) : Option (BitVec 6) :=
  let h := (c.store.classes[cls.toNat]'cls.isLt).handle
  tileNums.find? (fun i =>
    let x := c.tile i
    x.used && x.cls == cls && x.state != .empty && x.handle == h && x.block == b)

/-- The tile a miss claims: the lowest EMPTY one, else the READY one of highest RANK, unpinned (R209). -/
def Core.probeVictim (c : Core) (cls : BitVec 3) : Option (BitVec 6) :=
  if !(c.store.classes[cls.toNat]'cls.isLt).valid then none
  else
    let cand := tileNums.filter (fun i =>
      let x := c.tile i
      x.used && x.cls == cls && x.pin == 0 && (x.state == .empty || x.state == .ready))
    match cand.find? (fun i => (c.tile i).state == .empty) with
    | some i => some i
    | none => cand.foldl (fun best i =>
        match best with
        | none => some i
        | some j => if (c.tile j).rank < (c.tile i).rank then some i else some j) none

/-- Journal entries that a miss would queue: a fill, and a drain before it for a dirty victim (R208). -/
def Core.probeEntries (c : Core) (i : BitVec 6) : Nat :=
  if (c.tile i).state = .ready ∧ (c.tile i).dirty then 2 else 1

def Core.probeGate (c : Core) (t : BitVec 3) (d a : BitVec 6) (cls : BitVec 3) : Gate :=
  (c.pathGate t [d, a]).then
    (match c.probeHit cls ((c.reg a).setWidth 60) with
     | some i => Gate.check 0x84 (i.setWidth 64) ((c.tile i).pin ≠ 15)
     | none =>
       match c.probeVictim cls with
       | none => .go
       | some i => Gate.need none (c.journalLoad + c.probeEntries i ≤ 32 && !c.tileInUse i))

/-- The index of the tile words (R210). -/
def Core.tileIndex (c : Core) (a : BitVec 6) : BitVec 6 := (c.reg a).setWidth 6

def Core.trelGate (c : Core) (t : BitVec 3) (a : BitVec 6) : Gate :=
  let i := c.tileIndex a
  Gate.all [c.sGate t 0 [a], Gate.check 0x84 (i.setWidth 64) (c.tile i).used, Gate.need none !c.tileInUse i]

def Core.tileStateGate (c : Core) (t : BitVec 3) (a : BitVec 6) : Gate :=
  (c.sGate t 0 [a]).then (c.tileGate (c.tileIndex a))

def Core.hrelGate (c : Core) (t : BitVec 3) (h : BitVec 4) : Gate :=
  (c.sGate t 0 []).then (Gate.need none (c.handleReady h && !c.handleInUse h))

/-! ### Barrier words (R237, R238) -/

/-- A barrier word of a tag that this core is a member of, behind every fence (R237, R255). -/
def State.barGate (s : State) (i : Instr) (t g : BitVec 3) (rs : List (BitVec 6)) : Gate :=
  (s.core.sGate t 0 rs).then
    ((Gate.need none !s.core.fenced).then (if (s.member g).isSome then .go else illegalWord i))

/-- Whether a load of S has not returned. -/
def Core.loading (c : Core) : Bool :=
  c.scalar.flights.any (fun f => match f.work with
    | .load _ _ _ _ | .peer _ _ _ _ _ => true
    | _ => false)

/-- An arrival waits while the previous arrival's phase is incomplete, and its count must fit (R238). -/
def State.arriveGate (s : State) (i : Instr) (t g : BitVec 3) (rs : List (BitVec 6)) (n : Nat) : Gate :=
  (s.barGate i t g rs).then
    (match s.member g with
     | none => .go
     | some m =>
       (Gate.need none (!m.arrived && !m.arriving)).then
         ((Gate.check 0x0F (g.setWidth 64) (n < 2 ^ 36 && m.count + n < 2 ^ 36)).then
           (s.lostGate (if (s.dev.tags[g.toNat]'g.isLt).device then 2 else 1))))

/-! ### Queue words (R265, R266, R284 to R288) -/

/-- Size of the current region's Spillway ring (R269). -/
def State.spillSize (s : State) : Nat :=
  match s.core.job.region with
  | none => 0
  | some k => ((s.dev.region? k).map (·.spillSize)).getD 0

/-- Whether a push onto the core's own deque finds room (R266, R274). -/
def State.pushRoom (s : State) : Bool :=
  let q := s.core.deque
  if 0 < q.spill then q.spill < s.spillSize else q.bank.length < 32

/-- The virtual address of the region control block, for QUEUE (R189). -/
def State.rcbVa (s : State) : Word :=
  match s.core.job.region with
  | none => 0
  | some k => ((s.dev.region? k).map (·.rcb)).getD 0

def State.qRecordGate (s : State) (t : BitVec 3) (rs : List (BitVec 6)) (a : BitVec 6) : Gate :=
  let o := (s.core.reg a).toNat
  (s.core.sGate t 0 (a :: rs)).then
    (Gate.check 0x84 (s.core.reg a) (o % 64 = 0 && o + 64 ≤ s.core.store.tsave))

/-- QPUSH is a release at DIE scope (R267). -/
def State.qpushGate (s : State) (t : BitVec 3) (a : BitVec 6) : Gate :=
  Gate.all [s.qRecordGate t [] a, s.releaseGate 1, Gate.check 0x11 s.rcbVa s.pushRoom]

/-- TSYNC checks its handle as a doubleword atomic would, over a 640-byte block (R287, R288). -/
def State.tsyncGate (s : State) (t : BitVec 3) (h : BitVec 3) (a : BitVec 6) (rs : List (BitVec 6)) : Gate :=
  let o := (s.core.reg a).toNat
  let h4 := h.setWidth 4
  Gate.all [s.core.sGate t 0 (a :: rs), Gate.need none (!s.core.fenced && s.core.handleReady h4),
    s.core.handleGate h4,
    Gate.check 0x80 (h4.setWidth 64) (o % 64 = 0 && o + 640 ≤ (s.core.handle h4).len.toNat),
    Gate.check 0x81 (h4.setWidth 64) ((s.core.handle h4).fn = 2), s.releaseGate 2]

/-- The machine address at offset o of handle h. -/
def Core.handleAddr (c : Core) (h : BitVec 4) (o : Nat) : Option (Page × Nat) :=
  (c.handlePage h o).map (fun p => (p, p.addr ((c.handle h).va.toNat + o)))

/-- A doubleword through a handle, each byte in its own page. -/
def State.readHandle64 (s : State) (h : BitVec 4) (o : Nat) : Word :=
  BitVec.ofNat 64 (leNat ((List.range 8).map (fun j => match s.core.handleAddr h (o + j) with
    | some (_, a) => s.dev.byteAt a
    | none => 0)))

/-- TSYNC.ARRIVE whose push would find the Spillway full raises QUEUE (R288). -/
def State.tsyncArriveGate (s : State) (t h : BitVec 3) (a b : BitVec 6) : Gate :=
  (s.tsyncGate t h a [b]).then
    (let o := (s.core.reg a).toNat
     let count := s.readHandle64 (h.setWidth 4) o
     let waiting := (s.readHandle64 (h.setWidth 4) (o + 8)).getLsbD 0
     if count = 1 && waiting then Gate.check 0x11 s.rcbVa s.pushRoom else .go)

/-- Every scalar register (R288: a join writes s1 to s61 to memory). -/
def allRegs : List (BitVec 6) := (List.range 64).map (BitVec.ofNat 6)

/-! ### Vector words (R155, R159, R174 to R176) -/

/-- What every V word waits for: room behind the word before it, and a VCQ bit that the full condition queue
holds (R27, R155). -/
def Core.vGate (c : Core) (t m : BitVec 3) : Gate :=
  Gate.all [Gate.need none (c.vec.busy = 0), Gate.need (some 3) (c.queues.held = []), c.baseGate .v t m]

/-- Elements of a stream's width in one register (R153). -/
def Stream.perReg (q : Stream) : Nat := 8192 / q.width

/-- VSLD: any stored kind or ACCV, over rows ro to ro + b − 1 (R174). -/
def Core.vsldGate (c : Core) (t e : BitVec 3) (q : BitVec 4) (r : BitVec 5) : Gate :=
  let x := c.stream q
  let i := c.idx
  Gate.all [c.vGate t 0,
    c.checkStream q (x.kind ≠ 3 || !(fmtScaled x.fmt || x.fmt = 8)) (x.kind ≠ 2)
      (x.vrows ≤ r.toNat || x.pairsEven i x.perReg) true,
    c.streamTileGate x,
    c.spadGate x i r.toNat (Nat.min x.rows (r.toNat + extSize e)) 0 (Nat.min x.cols x.perReg) false,
    if r.toNat < x.vrows then c.accvGate x i x.perReg else .go]

/-- VSST: SPAD or TILE (R174). -/
def Core.vsstGate (c : Core) (t e : BitVec 3) (q : BitVec 4) (r : BitVec 5) : Gate :=
  let x := c.stream q
  Gate.all [c.vGate t 0, c.checkStream q true (x.kind ≤ 1) true false, c.streamTileGate x,
    c.spadGate x c.idx r.toNat (Nat.min x.rows (r.toNat + extSize e)) 0 (Nat.min x.cols x.perReg) false]

/-- Whether a gather names an odd accumulator of an FP64 stream: MATFMT, reason 3 (R109). -/
def Stream.namesOdd (q : Stream) (i : Idx) (xs : List (Option (Nat × Nat))) : Bool :=
  q.kind = 3 && q.fmt = 3 && xs.any (fun x => match x with
    | some (_, col) => q.accNum i col % 2 = 1
    | none => false)

/-- R80 over the elements a gather or scatter names. -/
def Core.namesGate (c : Core) (q : Stream) (xs : List (Option (Nat × Nat))) : Gate :=
  let i := c.idx
  if q.kind = 3 then
    match xs.findSome? (fun x => x.bind (fun (_, col) =>
        let k := q.accNum i col
        let odd := if q.fmt = 3 then 1 else 0
        if c.store.accs ≤ k + odd then some (spadBounds (if c.store.accs ≤ k then k else k + odd)) else none)) with
    | some g => g
    | none => .go
  else
    match xs.findSome? (fun x => x.bind (fun (r, col) =>
        let o := q.elemOff i r col
        if c.spadLimit q < o + q.width / 8 then some (spadBounds o) else none)) with
    | some g => g
    | none => .go

/-- VGATH reads its index registers as it goes, and may see there what it has gathered itself (R155). -/
def Core.namesOf (c : Core) (e : BitVec 3) (d i : BitVec 5) (x : Stream) (read : Bool) : List (List (Option (Nat × Nat))) :=
  let fs := if read then c.gathered e d i x else []
  (List.range (extSize e)).map (fun k => (c.withFlights (fs.take k)).gatherNames e i x k)

def Core.gatherGate (c : Core) (t e : BitVec 3) (d i : BitVec 5) (q : BitVec 4) (read : Bool) : Gate :=
  let x := c.stream q
  let names := c.namesOf e d i x read
  Gate.all [c.vGate t 0,
    c.checkStream q ((x.width = 32 || x.width = 64) && (x.kind ≠ 3 || x.fmt ≠ 8)) (if read then x.kind ≠ 2 else x.kind ≤ 1)
      (names.all (fun xs => !x.namesOdd c.idx xs)) read,
    c.streamTileGate x,
    Gate.all (names.map (c.namesGate x))]

/-- VWIN beyond the partition's windows raises SPADBOUNDS (R159, R178); that TVAL is the window's number is the model's choice
(log 91). -/
def Core.vwinGate (c : Core) (t n : BitVec 3) : Gate :=
  (c.vGate t 0).then (if n.toNat < c.store.windows then .go else spadBounds n.toNat)

/-! ### Matrix words (R96, R98, R105, R111) -/

/-- An M word with wait mask `m` waits while 8 words are held (R92, R98). -/
def Core.mWordGate (c : Core) (t m : BitVec 3) : Gate :=
  (c.baseGate .m t m).then (Gate.need none (c.mat.queue.length < 8))

/-- An M word without a wait mask. -/
def Core.mGate (c : Core) (t : BitVec 3) : Gate := c.mWordGate t 0

/-- The accumulators a word names are present (R96). -/
def Core.accGate (c : Core) (ks : List Nat) : Gate :=
  match ks.find? (fun k => c.store.accs ≤ k) with
  | some k => spadBounds k
  | none => .go

/-- The pairing class of a format and its K (R105). -/
def mmaClass (f : Nat) : Option (Nat × Nat) :=
  match f with
  | 3 => some (0, 4)
  | 0 => some (1, 8)
  | 1 | 2 => some (2, 32)
  | 10 | 11 | 12 | 13 => some (3, 64)
  | 6 | 7 => some (4, 64)
  | 14 => some (5, 128)
  | 9 => some (6, 128)
  | _ => none

def classOf (f : Nat) : Nat := ((mmaClass f).map (·.1)).getD 99
def kOf (f : Nat) : Nat := ((mmaClass f).map (·.2)).getD 0

/-- The K that the pair of an A and a B format fixes; formats that do not pair fix none (R105). -/
def kPair (fa fb : Nat) : Nat := if classOf fb = classOf fa then kOf fa else 0

/-- Accumulators of an operation: a pair for FP64. -/
def accRun (a : Nat) (pair : Bool) : List Nat := if pair then [a, a + 1] else [a]

/-- MMA's checks (R105); in reduced service only the FP32 and FP64 pairs are accepted (R339). -/
def State.mmaGate (s : State) (t : BitVec 3) (acc : BitVec 7) (a b : BitVec 4) : Gate :=
  let c := s.core
  let qa := c.stream a
  let qb := c.stream b
  let k := kPair qa.fmt qb.fmt
  let okA := (mmaClass qa.fmt).isSome && (!s.dev.reduced || classOf qa.fmt ≤ 1) &&
    (qa.fmt ≠ 3 || qb.fmt ≠ 3 || acc.toNat % 2 = 0)
  Gate.all [c.mGate t,
    c.checkStream a okA (qa.kind ≠ 2)
      ((if qa.kind = 3 then qa.rows = 32 else 32 ≤ qa.rows) && k ≤ qa.cols && qa.pairsEven c.idx k) true,
    c.checkStream b (classOf qb.fmt = classOf qa.fmt) (qb.kind ≤ 1) (k ≤ qb.rows && 32 ≤ qb.cols) true,
    c.streamTileGate qa, c.streamTileGate qb,
    c.spadGate qa c.idx 0 32 0 k true, c.accvGate qa c.idx k, c.spadGate qb c.idx 0 k 0 32 true,
    c.accGate (accRun acc.toNat (qa.fmt = 3))]

/-- Whether the indices of each group of N are below 12 and rising (R59). -/
def metaRising (n : Nat) : Nat → Option Nat → List Nat → Bool
  | _, _, [] => true
  | j, prev, x :: xs =>
    x < 12 && (match prev with
      | some p => j % n = 0 || p < x
      | none => true) && metaRising n (j + 1) (some x) xs

/-- The metadata nibbles of a row (R58). -/
def Core.metaRow (c : Core) (m : Stream) (i : Idx) (r ks : Nat) : List Nat :=
  (List.range ks).map (fun k => c.elemBits c.store.spad m i r k)

/-- MMAS's checks (R111, R112), with N = 4 or 8. That all its rows of B are bounds-checked, named by an index or not, and
that bad metadata comes before an absent accumulator, are the model's choices (R80, R98, R111; log 89). -/
def State.mmasGate (s : State) (t : BitVec 3) (n : Nat) (acc : BitVec 7) (a b : BitVec 4) : Gate :=
  let c := s.core
  let qa := c.stream a
  let qb := c.stream b
  let m := c.stream qa.mq
  let ks := kPair qa.fmt qb.fmt
  let okA := 2 ≤ classOf qa.fmt && (mmaClass qa.fmt).isSome && !s.dev.reduced
  Gate.all [c.mGate t,
    c.checkStream a okA (qa.kind ≤ 1) (32 ≤ qa.rows && ks ≤ qa.cols) true (fun m => 32 ≤ m.rows && ks ≤ m.cols),
    if qa.men then .go else matfmt a 5,
    c.checkStream b (classOf qb.fmt = classOf qa.fmt) (qb.kind ≤ 1) (ks * 12 / n ≤ qb.rows && 32 ≤ qb.cols) true,
    c.streamTileGate qa, c.streamTileGate m, c.streamTileGate qb,
    c.spadGate qa c.idx 0 32 0 ks true, c.spadGate m c.idx 0 (Nat.min 32 qa.vrows) 0 ks false,
    c.spadGate qb c.idx 0 (ks * 12 / n) 0 32 true,
    if (List.range (Nat.min 32 qa.vrows)).all (fun r => metaRising n 0 none (c.metaRow m c.idx r ks)) then .go
      else matfmt a 6,
    c.accGate [acc.toNat]]

/-- MLOAD (R114). -/
def Core.mloadGate (c : Core) (t : BitVec 3) (acc : BitVec 7) (a : BitVec 4) : Gate :=
  let q := c.stream a
  Gate.all [c.mGate t,
    c.checkStream a (q.fmt ≠ 8 && (q.fmt ≠ 3 || acc.toNat % 2 = 0)) (q.kind ≠ 2)
      (32 ≤ q.rows && 32 ≤ q.cols && q.pairsEven c.idx 32) true,
    c.streamTileGate q, c.spadGate q c.idx 0 32 0 32 true, c.accvGate q c.idx 32,
    c.accGate (accRun acc.toNat (q.fmt = 3))]

/-- The type and format pairs of MOUT (R115). -/
def moutOk (y : Nat) (f : Nat) : Bool :=
  match y with
  | 0 => f ≤ 3 || (10 ≤ f && f ≤ 14)
  | 1 => f ≤ 9
  | _ => f ≤ 3

def Core.moutGate (c : Core) (t : BitVec 3) (acc : BitVec 7) (a : BitVec 4) (y : BitVec 2) : Gate :=
  let q := c.stream a
  Gate.all [c.mGate t,
    c.checkStream a (moutOk y.toNat q.fmt) (q.kind ≤ 1) (32 ≤ q.rows && 32 ≤ q.cols) false,
    c.streamTileGate q, c.spadGate q c.idx 0 32 0 32 true, c.accGate (accRun acc.toNat (y = 2))]

/-- The formats of MBIAS and MSCALE (R118). -/
def vecFmtOk (y : Nat) (f : Nat) : Bool :=
  match y with
  | 0 => f ≤ 2 || f = 10 || f = 11
  | 1 => 4 ≤ f && f ≤ 7
  | _ => f = 0 || f = 3

def Core.mvecGate (c : Core) (t : BitVec 3) (acc : BitVec 7) (a : BitVec 4) (col : BitVec 1) (y : BitVec 2) : Gate :=
  let q := c.stream a
  let (rows, cols) := if col = 0 then (1, 32) else (32, 1)
  Gate.all [c.mGate t,
    c.checkStream a (vecFmtOk y.toNat q.fmt) (q.kind ≤ 1) (rows ≤ q.rows && cols ≤ q.cols) true,
    c.streamTileGate q, c.spadGate q c.idx 0 rows 0 cols false, c.accGate (accRun acc.toNat (y = 2))]

/-! ### Transfer words (R222 to R228) -/

/-- A copying command waits while the journal is full (R92, R222). -/
def Core.xGate (c : Core) (t : BitVec 3) : Gate :=
  (c.baseGate .x t 0).then (Gate.need none (c.journalLoad < 32))

/-- XWAIT, XSIG and XNOP enter no journal; only in a nest does a full one hold them, as any X word (R92, R227). -/
def Core.xOrderGate (c : Core) (t m : BitVec 3) : Gate :=
  (c.baseGate .x t m).then (Gate.need none (c.nest.isNone || decide (c.journalLoad < 32)))

/-- The bound plane regions that n bytes from offset o of handle h touch. -/
def State.boundOver (s : State) (h : BitVec 4) (o n : Nat) : List Plane :=
  let va := (s.core.handle h).va.toNat + o
  ((s.core.handle h).pages.map (fun p =>
    let lo := Nat.max va p.va
    let fin := Nat.min (va + n) (p.va + 2 ^ p.bits)
    if p.kind = .plane ∧ lo < fin then
      s.dev.planes.filter (fun pl => pl.bound.isSome && decide (pl.base < p.addr fin) && decide (p.addr lo < pl.base + pl.len))
    else [])).flatten

/-- The handle bytes of the valid elements in rows below `rows` and columns below `cols`: offset and length of each row. -/
def Stream.rowSpans (q : Stream) (i : Idx) (rows cols : Nat) : List (Nat × Nat) :=
  let n := Nat.min cols q.vcols
  (List.range (Nat.min rows q.vrows)).map (fun r => (q.elemOff i r 0, (n * q.width + 7) / 8))

/-- The handle bytes of the elements that indices name. -/
def Stream.nameSpans (q : Stream) (i : Idx) (xs : List (Option (Nat × Nat))) : List (Nat × Nat) :=
  xs.filterMap (fun x => x.map (fun p => (q.elemOff i p.1 p.2, (q.width + 7) / 8)))

/-- R80 for a GLOBAL stream over its rows below `rows` and columns below `cols`, where any of them is valid: the
handle's state, its bounds, and the right to write (R218). -/
def State.globalGate (s : State) (q : Stream) (i : Idx) (rows cols : Nat) (write : Bool) : Gate :=
  if q.kind = 2 ∧ 0 < Nat.min rows q.vrows ∧ 0 < Nat.min cols q.vcols then
    let c := s.core
    let h := q.handle
    let len := (c.handle h).len.toNat
    Gate.all [c.handleGate h,
      Gate.check 0x80 (h.setWidth 64)
        ((List.range (Nat.min rows q.vrows)).all (fun r => (q.rowOver i len r 0 (Nat.min cols q.vcols)).isNone)),
      Gate.check 0x81 (h.setWidth 64) (!write || (c.handle h).fn ≠ 0)]
  else .go

/-- R80 for the elements that indices name in a GLOBAL, SPAD or TILE stream, where they name any. -/
def State.addressedGate (s : State) (q : Stream) (i : Idx) (xs : List (Option (Nat × Nat))) (write : Bool) : Gate :=
  let c := s.core
  let h := q.handle
  let lim := if q.kind = 2 then (c.handle h).len.toNat else c.spadLimit q
  let nb := if q.width < 8 then 1 else q.width / 8
  let past := xs.findSome? (fun x => x.bind (fun (r, col) =>
    let o := q.elemOff i r col
    if lim < o + nb then some o else none))
  if q.kind = 2 then
    if xs.all (·.isNone) then .go
    else Gate.all [c.handleGate h, Gate.check 0x80 (h.setWidth 64) past.isNone,
      Gate.check 0x81 (h.setWidth 64) (!write || (c.handle h).fn ≠ 0)]
  else match past with
    | some o => spadBounds o
    | none => .go

/-- An X write of the spans of handle h, of which every bound plane region must have this core as a member (R234). -/
def State.memberGate (s : State) (h : BitVec 4) (spans : List (Nat × Nat)) : Gate :=
  if spans.any (fun x => (s.boundOver h x.1 x.2).any (fun p => !s.dev.isMember p s.core.id)) then handlePerm h else .go

/-- An X write that touches a bound plane region: members only, no XRED, and elements of 32 or 64 bits (R234). A word makes this
check after those of R79 of all its streams, XSCAT before its index tile is READY, and before those of R80 and of the other
stream's tile and scratchpad: the model's choices (log 106). -/
def State.planeWriteGate (s : State) (n : BitVec 4) (q : Stream) (red : Bool) (spans : List (Nat × Nat)) : Gate :=
  if q.kind = 2 ∧ spans.any (fun x => s.boundOver q.handle x.1 x.2 ≠ []) then
    if red then handlePerm q.handle
    else if q.width < 32 then matfmt n 1
    else s.memberGate q.handle spans
  else .go

/-- The stored kinds X accepts (R75, R223). -/
def Stream.xKind (q : Stream) : Bool := q.kind ≠ 3

/-- The elements of q that an index stream names at the positions that take part, as they stand at issue (R224). -/
def Core.indexNames (c : Core) (qi : Stream) (i : Idx) (rows cols : Nat) (q : Stream)
    (part : Nat → Nat → Bool := fun _ _ => true) : List (Option (Nat × Nat)) :=
  (List.range (rows * cols)).map (fun k =>
    let x := c.elemBits c.store.spad qi i (k / cols) (k % cols)
    if part (k / cols) (k % cols) && x / q.cols < q.rows && q.valid (x / q.cols) (x % q.cols) then some (x / q.cols, x % q.cols) else none)

def State.xmovGate (s : State) (t : BitVec 3) (a b : BitVec 4) : Gate :=
  let c := s.core
  let qs := c.stream a
  let qd := c.stream b
  Gate.all [c.xGate t, c.checkStream a true qs.xKind true true,
    c.checkStream b (qd.fmt = qs.fmt) qd.xKind (qd.rows = qs.rows && qd.cols = qs.cols) false,
    s.planeWriteGate b qd false (qd.rowSpans c.idx qd.rows qd.cols), c.streamTileGate qs, c.streamTileGate qd,
    c.spadGate qs c.idx 0 qs.rows 0 qs.cols false, s.globalGate qs c.idx qs.rows qs.cols false,
    c.spadGate qd c.idx 0 qd.rows 0 qd.cols false, s.globalGate qd c.idx qd.rows qd.cols true]

def State.xsetGate (s : State) (t : BitVec 3) (a b : BitVec 4) : Gate :=
  let c := s.core
  let qs := c.stream a
  let qd := c.stream b
  Gate.all [c.xGate t, c.checkStream a true qs.xKind true true, c.checkStream b (qd.fmt = qs.fmt) qd.xKind true false,
    s.planeWriteGate b qd false (qd.rowSpans c.idx qd.rows qd.cols), c.streamTileGate qs, c.streamTileGate qd,
    c.spadGate qs c.idx 0 1 0 1 false, s.globalGate qs c.idx 1 1 false,
    c.spadGate qd c.idx 0 qd.rows 0 qd.cols false, s.globalGate qd c.idx qd.rows qd.cols true]

/-- An index stream: INT32, SPAD or TILE, of the command's shape (R224). -/
def Core.indexGate (c : Core) (n : BitVec 4) (rows cols : Nat) : Gate :=
  let q := c.stream n
  c.checkStream n (q.fmt = 4) (q.kind ≤ 1) (q.rows = rows && q.cols = cols) true

def State.xgathGate (s : State) (t : BitVec 3) (a b x : BitVec 4) : Gate :=
  let c := s.core
  let qs := c.stream a
  let qd := c.stream b
  let qi := c.stream x
  Gate.all [c.xGate t, c.checkStream a true qs.xKind true true,
    c.checkStream b (qd.fmt = qs.fmt) qd.xKind (qd.rows = qs.rows && qd.cols = qs.cols) false, c.indexGate x qd.rows qd.cols,
    s.planeWriteGate b qd false (qd.rowSpans c.idx qd.rows qd.cols), c.streamTileGate qs, c.streamTileGate qd, c.streamTileGate qi,
    c.spadGate qi c.idx 0 qi.rows 0 qi.cols false,
    s.addressedGate qs c.idx (c.indexNames qi c.idx qd.rows qd.cols qs) false,
    c.spadGate qd c.idx 0 qd.rows 0 qd.cols false, s.globalGate qd c.idx qd.rows qd.cols true]

def State.xscatGate (s : State) (t : BitVec 3) (a b x : BitVec 4) : Gate :=
  let c := s.core
  let qs := c.stream a
  let qd := c.stream b
  let qi := c.stream x
  Gate.all [c.xGate t, c.checkStream a true qs.xKind true true,
    c.checkStream b (qd.fmt = qs.fmt) qd.xKind (qd.rows = qs.rows && qd.cols = qs.cols) false, c.indexGate x qs.rows qs.cols,
    s.planeWriteGate b qd false (qd.nameSpans c.idx (c.indexNames qi c.idx qs.rows qs.cols qd qs.valid)), c.streamTileGate qs, c.streamTileGate qd, c.streamTileGate qi,
    c.spadGate qs c.idx 0 qs.rows 0 qs.cols false, s.globalGate qs c.idx qs.rows qs.cols false,
    c.spadGate qi c.idx 0 qi.rows 0 qi.cols false,
    s.addressedGate qd c.idx (c.indexNames qi c.idx qs.rows qs.cols qd qs.valid) true]

/-- The formats of an XRED operation (R225). -/
def xredOk (o : Nat) (f : Nat) : Bool := if o ≤ 2 then f = 0 || f = 3 || f = 4 || f = 8 else f = 4 || f = 8

def State.xredGate (s : State) (t : BitVec 3) (a b : BitVec 4) (o : BitVec 3) : Gate :=
  let c := s.core
  let qs := c.stream a
  let qd := c.stream b
  Gate.all [c.xGate t, c.checkStream a (xredOk o.toNat qs.fmt) qs.xKind true true,
    c.checkStream b (qd.fmt = qs.fmt) (qd.kind = 2) (qd.rows = qs.rows && qd.cols = qs.cols) true,
    s.planeWriteGate b qd true (qd.rowSpans c.idx qs.vrows qs.vcols), c.streamTileGate qs,
    c.spadGate qs c.idx 0 qs.rows 0 qs.cols false, s.globalGate qs c.idx qs.rows qs.cols false,
    s.globalGate qd c.idx qs.vrows qs.vcols true]

/-- XFILL and XDRAIN from the text (R226): the tile READY and named by no word that is incomplete, which keeps it READY
(R101, R157, R208), the class handle usable, and of a drain every bound plane region of the block the core's (R234). -/
def State.xtileGate (s : State) (t : BitVec 3) (i : BitVec 6) (write : Bool) : Gate :=
  let c := s.core
  let h := (c.tile i).handle
  let lo := (c.tile i).block.toNat * (c.tile i).len
  Gate.all [c.xGate t, c.tileGate i, Gate.need none !c.tileInUse i, c.handleGate h,
    Gate.check 0x81 (h.setWidth 64) (!write || (c.handle h).fn ≠ 0),
    if write then s.memberGate h [(lo, Nat.min (c.tile i).len ((c.handle h).len.toNat - lo))] else .go]

/-- Every barrier and nest rendezvous condition of NEST: all four engines stand at it, every earlier S word
has retired and every V result has landed: a condition bit that V holds has not (R86, R124). -/
def Core.nestMeet (c : Core) : Bool :=
  let at' := fun e => (c.eng e).pc = c.engS.pc
  at' .v && at' .m && at' .x && c.scalar.flights = [] && c.queues.pushes = [] && c.vec.flights = [] && c.queues.held = [] &&
    c.vec.busy = 0

/-- NEST at the rendezvous; its body is checked before its tok wait (R86). -/
def Core.nestReady (c : Core) : Gate :=
  Gate.all [c.sFree, Gate.need none (c.walk.isNone && !c.scalar.handler), Gate.need (some 1) (!c.pushPending .s),
    Gate.need none c.nestMeet]

/-- A path word, by tag and op alone (R15, R20). -/
def isPathWord (w : W32) : Bool :=
  wordEngine w = .s && ((0x11 ≤ wordOp w && wordOp w ≤ 0x16) || wordOp w = 0x35)

/-- NEST and HALT, by tag, op and fn alone (R15). -/
def isNestWord (w : W32) : Bool := wordEngine w = .s && wordOp w = 0x1F
def isHaltWord (w : W32) : Bool := wordEngine w = .s && wordOp w = 0x1A && fld w 0 3 = 2

/-- The engine of a body slot: slot order S, V, M, X (R29). -/
def slotEngine (k : Nat) : Engine :=
  match k % 4 with
  | 0 => .s
  | 1 => .v
  | 2 => .m
  | _ => .x

/-- The first check of R30, of the body word in slot k: BODY, or ILLEGAL for a word that does not decode. -/
def bodyWordCause (k : Nat) (w : W32) : Option (BitVec 8) :=
  if wordEngine w ≠ slotEngine k then some 0x02
  else if k % 4 = 0 && (isPathWord w || isNestWord w || isHaltWord w ||
      (wordOp w = 0x1A && (fld w 0 3 = 1 || fld w 0 3 = 3))) then some 0x02
  else match decodeWord w with
    | .ok _ => none
    | .error _ => some 0x01

/-- Whether the word in slot k has an earlier word of its engine in a row congruent modulo II (R30). -/
def moduloClash (body : List W32) (ii k : Nat) : Bool :=
  let busy := fun j => match body[j]? with
    | some w => !isNop w
    | none => false
  busy k && (List.range (k / 4)).any (fun a => (k / 4 - a) % ii = 0 && busy (4 * a + k % 4))

/-- The checks of R30 over a body: the slot and cause of its fault, which is one of the NEST word (R189). -/
def bodyFault (body : List W32) (ii : Nat) : Option (Nat × BitVec 8) :=
  let ks := List.range body.length
  match ks.findSome? (fun k => (body[k]?).bind (fun w => (bodyWordCause k w).map (fun c => (k, c)))) with
  | some x => some x
  | none => (ks.find? (moduloClash body ii)).map (fun k => (k, 0x03))

/-- The body words after address `pc`, as far as their lines are fetched. -/
def State.bodyWords (s : State) (pc : Word) (rows : Nat) : List (Option W32) :=
  (List.range (4 * rows)).map (fun k => s.fetchWord (pc + 4 + BitVec.ofNat 64 (4 * k)))

/-- The body of the NEST at S's program counter, where all of it is fetched. -/
def State.nestBody (s : State) (r : BitVec 6) : Option (List W32) :=
  (s.bodyWords s.core.engS.pc (r.toNat + 1)).foldr (fun w acc => match w, acc with
    | some w, some ws => some (w :: ws)
    | _, _ => none) (some [])

/-- NEST: the rendezvous, the body check, then the tok wait (R30, R86). -/
def State.nestGate (s : State) (t : BitVec 3) (r i : BitVec 6) : Gate :=
  s.core.nestReady.then
    (match s.nestBody r with
     | none => .wait none
     | some body =>
       match bodyFault body (i.toNat + 1) with
       | some (k, cause) => .fail cause (s.core.engS.pc + 4 + BitVec.ofNat 64 (4 * k))
       | none => Gate.need (some 0) (s.core.tokensOk .s t 0))

end Sys2Proof.Machine

namespace Sys2Proof
open Machine

/-- What a word waits for and checks when it comes to issue; the whole steps without an encoding are not
issued. -/
def Instr.gate (i : Instr) (s : State) : Gate :=
  match i with
  | .add t d a b => s.core.sGate t 0 [a, b, d]
  | .sub t d a b => s.core.sGate t 0 [a, b, d]
  | .and t d a b => s.core.sGate t 0 [a, b, d]
  | .or t d a b => s.core.sGate t 0 [a, b, d]
  | .xor t d a b => s.core.sGate t 0 [a, b, d]
  | .shl t d a b => s.core.sGate t 0 [a, b, d]
  | .shr t d a b => s.core.sGate t 0 [a, b, d]
  | .sra t d a b => s.core.sGate t 0 [a, b, d]
  | .mul t d a b => s.core.sGate t 0 [a, b, d]
  | .mulh t d a b => s.core.sGate t 0 [a, b, d]
  | .mulhu t d a b => s.core.sGate t 0 [a, b, d]
  | .div t d a b => s.core.divGate t [a, b, d]
  | .divu t d a b => s.core.divGate t [a, b, d]
  | .rem t d a b => s.core.divGate t [a, b, d]
  | .remu t d a b => s.core.divGate t [a, b, d]
  | .min t d a b => s.core.sGate t 0 [a, b, d]
  | .max t d a b => s.core.sGate t 0 [a, b, d]
  | .minu t d a b => s.core.sGate t 0 [a, b, d]
  | .maxu t d a b => s.core.sGate t 0 [a, b, d]
  | .slt t d a b => s.core.sGate t 0 [a, b, d]
  | .sltu t d a b => s.core.sGate t 0 [a, b, d]
  | .ceq t a b => s.core.sGate t 0 [a, b]
  | .cne t a b => s.core.sGate t 0 [a, b]
  | .clt t a b => s.core.sGate t 0 [a, b]
  | .cge t a b => s.core.sGate t 0 [a, b]
  | .cltu t a b => s.core.sGate t 0 [a, b]
  | .cgeu t a b => s.core.sGate t 0 [a, b]
  | .addi t d a _ => s.core.sGate t 0 [a, d]
  | .andi t d a _ => s.core.sGate t 0 [a, d]
  | .ori t d a _ => s.core.sGate t 0 [a, d]
  | .xori t d a _ => s.core.sGate t 0 [a, d]
  | .shli t d a _ => s.core.sGate t 0 [a, d]
  | .shri t d a _ => s.core.sGate t 0 [a, d]
  | .srai t d a _ => s.core.sGate t 0 [a, d]
  | .ceqi t a _ => s.core.sGate t 0 [a]
  | .clti t a _ => s.core.sGate t 0 [a]
  | .lui t d _ => s.core.sGate t 0 [d]
  | .lsh t d _ => s.core.sGate t 0 [d]
  | .addpc t d _ => s.core.sGate t 0 [d]
  | .bcq t _ => s.core.branchGate t
  | .bcqn t _ => s.core.branchGate t
  | .jmp t _ => s.core.pathGate t []
  | .call t _ => s.core.pathGate t [62]
  | .jr t a => s.core.pathGate t [a]
  | .callr t a => s.core.pathGate t [a, 62]
  | .callk t a b => s.callkGate t a b
  | .crr t d _ => s.core.sGate t 0 [d]
  | .crw t a _ => s.core.sGate t 0 [a]
  | .crwTimer t a => s.core.sGate t 0 [a]
  | .crwSlip t a => s.core.sGate t 0 [a]
  | .crwFpflags t a => s.core.sGate t 0 [a]
  | .crwIen t a => s.core.sGate t 0 [a]
  | .trap t _ => s.core.sGate t 0 []
  | .nop t => s.core.sGate t 0 []
  | .tret t => if s.core.scalar.handler then s.core.sGate t 0 [] else illegalWord (.tret t)
  | .halt t => s.haltGate t
  | .pause t => s.core.sGate t 0 []
  | .twait t m => s.core.sGate t m []
  | .tsig t _ => s.core.sGate t 0 []
  | .scfg t _ a _ => s.core.sGate t 0 [a]
  | .ncfg t a _ => s.core.sGate t 0 [a]
  | .nmaskFirst t a _ => s.core.sGate t 0 [a]
  | .nmaskLast t a _ => s.core.sGate t 0 [a]
  | .nest t r i _ => s.nestGate t r i
  | .ldb t d a h i => s.loadGate t d a h i 1
  | .ldbu t d a h i => s.loadGate t d a h i 1
  | .ldh t d a h i => s.loadGate t d a h i 2
  | .ldhu t d a h i => s.loadGate t d a h i 2
  | .ldw t d a h i => s.loadGate t d a h i 4
  | .ldwu t d a h i => s.loadGate t d a h i 4
  | .ldd t d a h i => s.loadGate t d a h i 8
  | .stb t d a h i => s.storeGate t d a h i 1
  | .sth t d a h i => s.storeGate t d a h i 2
  | .stw t d a h i => s.storeGate t d a h i 4
  | .std t d a h i => s.storeGate t d a h i 8
  | .lds t d a i => s.core.spadWordGate t d a i
  | .sts t d a i => s.core.spadWordGate t d a i
  | .lda t d a h w _ q => s.ldaGate t d a h w q
  | .stl t d a h w c q => s.stlGate t d a h w c q
  | .amoadd t d a h w o c => s.amoGate t [a, d] a h w o c
  | .amoswp t d a h w o c => s.amoGate t [a, d] a h w o c
  | .amocas t d a h w o c => s.amoGate t [a, pairEven d, pairOdd d] a h w o c
  | .amomin t d a h w o c => s.amoGate t [a, d] a h w o c
  | .amomax t d a h w o c => s.amoGate t [a, d] a h w o c
  | .amominu t d a h w o c => s.amoGate t [a, d] a h w o c
  | .amomaxu t d a h w o c => s.amoGate t [a, d] a h w o c
  | .amoand t d a h w o c => s.amoGate t [a, d] a h w o c
  | .amoor t d a h w o c => s.amoGate t [a, d] a h w o c
  | .amoxor t d a h w o c => s.amoGate t [a, d] a h w o c
  | .xlatR t h a b => s.xlatGate t h a b 0
  | .xlatRw t h a b => s.xlatGate t h a b 1
  | .xlatRwa t h a b => s.xlatGate t h a b 2
  | .probe t d a _ c => s.core.probeGate t d a c
  | .trel t a => s.core.trelGate t a
  | .tstat t d a => s.core.sGate t 0 [d, a]
  | .tclean t a => s.core.tileStateGate t a
  | .tdirty t a => s.core.tileStateGate t a
  | .hrel t h => s.core.hrelGate t h
  | .hqry t d h => (s.core.sGate t 0 [pairEven d, pairOdd d]).then (Gate.need none (s.core.handleReady h))
  | .fence t c => (s.core.sGate t 0 []).then (s.lostGate c)
  | .cfence t a b c => (s.core.sGate t 0 [a, b]).then (s.lostGate c)
  | .bar t g => s.arriveGate (.bar t g) t g [] 0
  | .bara t a g => s.arriveGate (.bara t a g) t g [a] (s.core.reg a).toNat
  | .barw t g => s.barGate (.barw t g) t g []
  | .barq t d g => s.barGate (.barq t d g) t g [pairEven d, pairOdd d]
  | .step t g => (s.arriveGate (.step t g) t g [] 0).then (Gate.need none !s.core.loading)
  | .stwp t d a h i => s.memGate t [a, pairEven d, pairOdd d] h (s.offset a i 4) 4 (.store 4)
  | .qpush t a => s.qpushGate t a
  | .qpop t d a => s.qRecordGate t [d] a
  | .qsteal t d a => s.qRecordGate t [d] a
  | .qlen t d => s.core.sGate t 0 [d]
  | .wnext t d => s.core.sGate t 0 [1, 2, 3, 4, d]
  | .rspawn t d a => (s.core.sGate t 0 [a, d]).then (s.releaseGate 2)
  | .tsyncJoin t h a b => s.tsyncGate t h a (b :: allRegs)
  | .tsyncArrive t h a b => s.tsyncArriveGate t h a b
  | .vadd t _ _ _ _ _ => s.core.vGate t 0
  | .vsub t _ _ _ _ _ => s.core.vGate t 0
  | .vmul t _ _ _ _ _ => s.core.vGate t 0
  | .vfma t _ _ _ _ _ => s.core.vGate t 0
  | .vfms t _ _ _ _ _ => s.core.vGate t 0
  | .vfnma t _ _ _ _ _ => s.core.vGate t 0
  | .vmin t _ _ _ _ _ => s.core.vGate t 0
  | .vmax t _ _ _ _ _ => s.core.vGate t 0
  | .vabs t _ _ _ _ => s.core.vGate t 0
  | .vneg t _ _ _ _ => s.core.vGate t 0
  | .vrcp t _ _ _ => s.core.vGate t 0
  | .vrsq t _ _ _ => s.core.vGate t 0
  | .vex2 t _ _ _ => s.core.vGate t 0
  | .vlg2 t _ _ _ => s.core.vGate t 0
  | .viadd t _ _ _ _ _ _ => s.core.vGate t 0
  | .visub t _ _ _ _ _ _ => s.core.vGate t 0
  | .vimul t _ _ _ _ _ => s.core.vGate t 0
  | .vimad t _ _ _ _ _ => s.core.vGate t 0
  | .vand t _ _ _ _ _ => s.core.vGate t 0
  | .vor t _ _ _ _ _ => s.core.vGate t 0
  | .vxor t _ _ _ _ _ => s.core.vGate t 0
  | .vshl t _ _ _ _ _ => s.core.vGate t 0
  | .vshr t _ _ _ _ _ => s.core.vGate t 0
  | .vsra t _ _ _ _ _ => s.core.vGate t 0
  | .vimin t _ _ _ _ _ _ => s.core.vGate t 0
  | .vimax t _ _ _ _ _ _ => s.core.vGate t 0
  | .vcmp t _ _ _ _ _ _ => s.core.vGate t 0
  | .vsel t _ _ _ _ _ => s.core.vGate t 0
  | .vcqAny t _ => s.core.vGate t 0
  | .vcqAll t _ => s.core.vGate t 0
  | .vmskAnd t _ _ _ => s.core.vGate t 0
  | .vmskOr t _ _ _ => s.core.vGate t 0
  | .vmskXor t _ _ _ => s.core.vGate t 0
  | .vmskAndn t _ _ _ => s.core.vGate t 0
  | .vmskNot t _ _ => s.core.vGate t 0
  | .vmskSet t _ => s.core.vGate t 0
  | .vmskClr t _ => s.core.vGate t 0
  | .vmov t _ _ _ => s.core.vGate t 0
  | .vmovi t _ _ _ _ => s.core.vGate t 0
  | .vwin t n => s.core.vwinGate t n
  | .vwait t m => s.core.vGate t m
  | .vsig t _ => s.core.vGate t 0
  | .vnop t => s.core.vGate t 0
  | .vcvt t _ _ _ _ _ _ => s.core.vGate t 0
  | .vpack t _ _ _ _ _ => s.core.vGate t 0
  | .vunpk t _ _ _ _ _ => s.core.vGate t 0
  | .vrsum t _ _ _ _ _ => s.core.vGate t 0
  | .vrmax t _ _ _ _ _ => s.core.vGate t 0
  | .vrmin t _ _ _ _ _ => s.core.vGate t 0
  | .vperm t _ _ _ _ => s.core.vGate t 0
  | .vbcast t _ _ _ _ _ => s.core.vGate t 0
  | .vslide t _ _ _ _ => s.core.vGate t 0
  | .viota t _ _ _ => s.core.vGate t 0
  | .vsld t e _ q r => s.core.vsldGate t e q r
  | .vsst t e _ q r => s.core.vsstGate t e q r
  | .vgath t e d i q => s.core.gatherGate t e d i q true
  | .vscat t e d i q => s.core.gatherGate t e d i q false
  | .vpart t _ _ _ => s.core.vGate t 0
  | .vxs t _ _ _ => s.core.vGate t 0
  | .vxsPart t _ => s.core.vGate t 0
  | .vsx t _ _ _ _ => s.core.vGate t 0
  | .mma t c a b _ _ _ _ => s.mmaGate t c a b
  | .mmasN4 t c a b _ _ _ _ => s.mmasGate t 4 c a b
  | .mmasN8 t c a b _ _ _ _ => s.mmasGate t 8 c a b
  | .mzero t c k => (s.core.mGate t).then (s.core.accGate ((List.range (k.toNat + 1)).map (c.toNat + ·)))
  | .mload t c a => s.core.mloadGate t c a
  | .mout t c a _ y => s.core.moutGate t c a y
  | .mcopy t c s' y => (s.core.mGate t).then (s.core.accGate (accRun c.toNat (y = 1) ++ accRun s'.toNat (y = 1)))
  | .madd t c s' _ _ y => (s.core.mGate t).then (s.core.accGate (accRun c.toNat (y = 2) ++ accRun s'.toNat (y = 2)))
  | .mbias t c a _ l _ y => s.core.mvecGate t c a l y
  | .mscale t c a _ l y => s.core.mvecGate t c a l y
  | .mwait t k => s.core.mWordGate t k
  | .msig t _ => s.core.mGate t
  | .mnop t => s.core.mGate t
  | .xmov t s' d _ _ _ _ _ => s.xmovGate t s' d
  | .xgath t s' d _ _ _ _ _ i => s.xgathGate t s' d i
  | .xscat t s' d _ _ _ _ _ i => s.xscatGate t s' d i
  | .xset t s' d _ _ _ _ _ => s.xsetGate t s' d
  | .xred t s' d _ _ _ _ _ o => s.xredGate t s' d o
  | .xfill t n _ _ _ _ _ => s.xtileGate t n false
  | .xdrain t n _ _ _ _ _ => s.xtileGate t n true
  | .xsync t _ _ _ => s.core.xGate t
  | .xwait t k => s.core.xOrderGate t k
  | .xsig t _ => s.core.xOrderGate t 0
  | .xnop t => s.core.xOrderGate t 0
  | .callkRetire | .nestCycle | .nestExit | .loadDataReturn | .atomicopCompletion _ _ | .priResponse _ _
  | .xlatRetire | .fenceRetire | .arrivalRegister | .phaseComplete _ | .barrierRelease _ | .planeStoreSettle
  | .muldivResult | .vResultLand | .conditionPushDeferred | .pendingTokenPush | .pathEntryPop _
  | .mWordComplete | .xChunk | .xCommandComplete | .revocation _ _ | .pageMoveRequest _ _ _ | .timer
  | .interruptTake | .trapEntry | .replayEntryLand | .fatalError | .watchdog _ | .pauseHoldEnd | .haltRetire
  | .preemption | .restore _ | .dispatch _ | .regionComplete _ | .fairnessPeriod | .priorityPreemptWait _
  | .policyCheck _ | .start _ _ _ | .abort _ _ | .signal _ _ | .ccbNoop _ _ | .ccbReservedOp _ _ _ | .query _
  | .join _ | .regccb _ _ _ _ _ | .unregccb _ _ _ _ _ | .setsegtab _ _ _ _ _ | .regseg _ _ _ _ _
  | .bumpgen _ _ _ _ _ | .declwin _ _ _ _ _ | .peerap _ _ _ _ _ | .setplane _ _ _ _ _ | .planealloc _ _ _ _ _
  | .planefree _ _ _ _ _ | .dcmdReservedOp _ _ _ _ _ _ | .hostMemoryWrite _ _ | .atomicopRequest
  | .msixVectorUnmask _ | .remoteWriteApply _ | .lazyReleaseFlush | .flitReceive _ _ _ _ _ | .read _ _ _ _
  | .readdata _ _ _ | .write _ _ _ _ _ _ | .op _ _ _ _ _ _ _ _ _ | .opdata _ _ _ | .ack _ _ | .peerLinkFail _
  | .rillLinkRetraining _ | .rillLinkDown _ | .rillLinkUp _ | .dieIsolationStop _ | .isolationConfirm _
  | .dieThrottle _ _ | .semget _ _ | .semput _ | .semaphoreLeaseExpiry | .getenum _ | .getcounters _
  | .imagestage _ _ _ | .imagecommit _ _ | .keyinstall _ _ _ _ | .keydestroy _ _ _ | .setpolicy _ _ _
  | .debug _ _ | .reset _ | .getMeasurements _ | .deviceReset | .powerOn | .trainingComplete _ _
  | .counterPersist | .translationWalkComplete | .cfenceRetire | .stlRetire | .sluiceOrHomeAnswer
  | .instructionFetch _ | .powerLoss => .go

end Sys2Proof
end

