-- ==== Sys2Proof/Machine/Scalar.lean ====
section
/-! DEFINITION. The scalar words that compute (spec/07 R131, R134 to R136): the register and immediate
arithmetic, multiply and divide, and the constants; and the compares, which push a condition (R137). -/
namespace Sys2Proof.Machine

/-- Adds an S word in flight (R131); its token is pushed when it retires. -/
def Core.addFlight (c : Core) (born remain : Nat) (work : SWork) (t : BitVec 3) (h : Option (BitVec 4)) : Core :=
  let f : SFlight := ⟨remain, work, sigMask t, born, false, h⟩
  { c with scalar := { c.scalar with flights := c.scalar.flights ++ [f] } }

/-- The result of a word that retires in the cycle after issue (R131). -/
def Core.result (c : Core) (t : BitVec 3) (d : BitVec 6) (v : Word) : Core := (c.setReg d v).signal 1 .s 0 t

/-- A word that writes s[d] and retires in the cycle after issue (R131). -/
def State.scalarOp (s : State) (i : Instr) (t : BitVec 3) (d : BitVec 6) (v : Word) : State :=
  s.issue .s t 0 (i.gate s) (fun s => s.onCore (·.result t d v))

/-- MUL to REMU: the result is written `lat` cycles after issue (R131). -/
def State.muldivOp (s : State) (i : Instr) (t : BitVec 3) (d : BitVec 6) (lat : Nat) (div : Bool) (v : Word) : State :=
  s.issue .s t 0 (i.gate s) (fun s => s.onCore (·.addFlight s.dev.cycle lat (.muldiv d v div) t none))

/-- A compare: the bit enters the condition queue when the word retires (R27, R137). -/
def State.compareOp (s : State) (i : Instr) (t : BitVec 3) (b : Bool) : State :=
  s.issue .s t 0 (i.gate s) (fun s => s.onCore (·.addPushes (retirePush 1 0 (sigMask t) (.cond b))))

/-! ### The values (R134) -/

def shl64 (a : Word) (n : Nat) : Word := a <<< n
def shr64 (a : Word) (n : Nat) : Word := a >>> n
def sra64 (a : Word) (n : Nat) : Word := a.sshiftRight n

/-- Bits [127:64] of the signed product. -/
def mulHi (a b : Word) : Word := BitVec.ofInt 64 (a.toInt * b.toInt / 2 ^ 64)
/-- Bits [127:64] of the unsigned product. -/
def mulHiU (a b : Word) : Word := BitVec.ofNat 64 (a.toNat * b.toNat / 2 ^ 64)
/-- Signed quotient, truncated toward zero; a ÷ 0 is −1 and −2^63 ÷ −1 wraps to −2^63. -/
def quot (a b : Word) : Word := if b = 0 then -1 else BitVec.ofInt 64 (Int.tdiv a.toInt b.toInt)
def quotU (a b : Word) : Word := if b = 0 then -1 else BitVec.ofNat 64 (a.toNat / b.toNat)
/-- a − b · DIV(a, b): the sign of a; a when b is 0. -/
def rem64 (a b : Word) : Word := if b = 0 then a else BitVec.ofInt 64 (Int.tmod a.toInt b.toInt)
def remU64 (a b : Word) : Word := if b = 0 then a else BitVec.ofNat 64 (a.toNat % b.toNat)
def minS (a b : Word) : Word := if a.slt b then a else b
def maxS (a b : Word) : Word := if a.slt b then b else a
def minU (a b : Word) : Word := if a.ult b then a else b
def maxU (a b : Word) : Word := if a.ult b then b else a
def bool64 (b : Bool) : Word := if b then 1 else 0

/-! ### Register forms (R134) -/

/-- ADD. -/
def execAdd (t : BitVec 3) (d a b : BitVec 6) (s : State) : Host.Outcome State Fault Refusal :=
  .next (s.scalarOp (.add t d a b) t d (s.core.reg a + s.core.reg b))

/-- SUB. -/
def execSub (t : BitVec 3) (d a b : BitVec 6) (s : State) : Host.Outcome State Fault Refusal :=
  .next (s.scalarOp (.sub t d a b) t d (s.core.reg a - s.core.reg b))

/-- AND. -/
def execAnd (t : BitVec 3) (d a b : BitVec 6) (s : State) : Host.Outcome State Fault Refusal :=
  .next (s.scalarOp (.and t d a b) t d (s.core.reg a &&& s.core.reg b))

/-- OR. -/
def execOr (t : BitVec 3) (d a b : BitVec 6) (s : State) : Host.Outcome State Fault Refusal :=
  .next (s.scalarOp (.or t d a b) t d (s.core.reg a ||| s.core.reg b))

/-- XOR. -/
def execXor (t : BitVec 3) (d a b : BitVec 6) (s : State) : Host.Outcome State Fault Refusal :=
  .next (s.scalarOp (.xor t d a b) t d (s.core.reg a ^^^ s.core.reg b))

/-- SHL by b[5:0]. -/
def execShl (t : BitVec 3) (d a b : BitVec 6) (s : State) : Host.Outcome State Fault Refusal :=
  .next (s.scalarOp (.shl t d a b) t d (shl64 (s.core.reg a) ((s.core.reg b).toNat % 64)))

/-- SHR by b[5:0]. -/
def execShr (t : BitVec 3) (d a b : BitVec 6) (s : State) : Host.Outcome State Fault Refusal :=
  .next (s.scalarOp (.shr t d a b) t d (shr64 (s.core.reg a) ((s.core.reg b).toNat % 64)))

/-- SRA by b[5:0]. -/
def execSra (t : BitVec 3) (d a b : BitVec 6) (s : State) : Host.Outcome State Fault Refusal :=
  .next (s.scalarOp (.sra t d a b) t d (sra64 (s.core.reg a) ((s.core.reg b).toNat % 64)))

/-- MUL. -/
def execMul (t : BitVec 3) (d a b : BitVec 6) (s : State) : Host.Outcome State Fault Refusal :=
  .next (s.muldivOp (.mul t d a b) t d 3 false (s.core.reg a * s.core.reg b))

/-- MULH. -/
def execMulh (t : BitVec 3) (d a b : BitVec 6) (s : State) : Host.Outcome State Fault Refusal :=
  .next (s.muldivOp (.mulh t d a b) t d 3 false (mulHi (s.core.reg a) (s.core.reg b)))

/-- MULHU. -/
def execMulhu (t : BitVec 3) (d a b : BitVec 6) (s : State) : Host.Outcome State Fault Refusal :=
  .next (s.muldivOp (.mulhu t d a b) t d 3 false (mulHiU (s.core.reg a) (s.core.reg b)))

/-- DIV. -/
def execDiv (t : BitVec 3) (d a b : BitVec 6) (s : State) : Host.Outcome State Fault Refusal :=
  .next (s.muldivOp (.div t d a b) t d 18 true (quot (s.core.reg a) (s.core.reg b)))

/-- DIVU. -/
def execDivu (t : BitVec 3) (d a b : BitVec 6) (s : State) : Host.Outcome State Fault Refusal :=
  .next (s.muldivOp (.divu t d a b) t d 18 true (quotU (s.core.reg a) (s.core.reg b)))

/-- REM. -/
def execRem (t : BitVec 3) (d a b : BitVec 6) (s : State) : Host.Outcome State Fault Refusal :=
  .next (s.muldivOp (.rem t d a b) t d 18 true (rem64 (s.core.reg a) (s.core.reg b)))

/-- REMU. -/
def execRemu (t : BitVec 3) (d a b : BitVec 6) (s : State) : Host.Outcome State Fault Refusal :=
  .next (s.muldivOp (.remu t d a b) t d 18 true (remU64 (s.core.reg a) (s.core.reg b)))

/-- MIN, signed. -/
def execMin (t : BitVec 3) (d a b : BitVec 6) (s : State) : Host.Outcome State Fault Refusal :=
  .next (s.scalarOp (.min t d a b) t d (minS (s.core.reg a) (s.core.reg b)))

/-- MAX, signed. -/
def execMax (t : BitVec 3) (d a b : BitVec 6) (s : State) : Host.Outcome State Fault Refusal :=
  .next (s.scalarOp (.max t d a b) t d (maxS (s.core.reg a) (s.core.reg b)))

/-- MINU. -/
def execMinu (t : BitVec 3) (d a b : BitVec 6) (s : State) : Host.Outcome State Fault Refusal :=
  .next (s.scalarOp (.minu t d a b) t d (minU (s.core.reg a) (s.core.reg b)))

/-- MAXU. -/
def execMaxu (t : BitVec 3) (d a b : BitVec 6) (s : State) : Host.Outcome State Fault Refusal :=
  .next (s.scalarOp (.maxu t d a b) t d (maxU (s.core.reg a) (s.core.reg b)))

/-- SLT. -/
def execSlt (t : BitVec 3) (d a b : BitVec 6) (s : State) : Host.Outcome State Fault Refusal :=
  .next (s.scalarOp (.slt t d a b) t d (bool64 ((s.core.reg a).slt (s.core.reg b))))

/-- SLTU. -/
def execSltu (t : BitVec 3) (d a b : BitVec 6) (s : State) : Host.Outcome State Fault Refusal :=
  .next (s.scalarOp (.sltu t d a b) t d (bool64 ((s.core.reg a).ult (s.core.reg b))))

/-! ### Compares (R137) -/

/-- CEQ. -/
def execCeq (t : BitVec 3) (a b : BitVec 6) (s : State) : Host.Outcome State Fault Refusal :=
  .next (s.compareOp (.ceq t a b) t (scalarCond 0 (s.core.reg a) (s.core.reg b)))

/-- CNE. -/
def execCne (t : BitVec 3) (a b : BitVec 6) (s : State) : Host.Outcome State Fault Refusal :=
  .next (s.compareOp (.cne t a b) t (scalarCond 1 (s.core.reg a) (s.core.reg b)))

/-- CLT. -/
def execClt (t : BitVec 3) (a b : BitVec 6) (s : State) : Host.Outcome State Fault Refusal :=
  .next (s.compareOp (.clt t a b) t (scalarCond 2 (s.core.reg a) (s.core.reg b)))

/-- CGE. -/
def execCge (t : BitVec 3) (a b : BitVec 6) (s : State) : Host.Outcome State Fault Refusal :=
  .next (s.compareOp (.cge t a b) t (scalarCond 3 (s.core.reg a) (s.core.reg b)))

/-- CLTU. -/
def execCltu (t : BitVec 3) (a b : BitVec 6) (s : State) : Host.Outcome State Fault Refusal :=
  .next (s.compareOp (.cltu t a b) t (scalarCond 4 (s.core.reg a) (s.core.reg b)))

/-- CGEU. -/
def execCgeu (t : BitVec 3) (a b : BitVec 6) (s : State) : Host.Outcome State Fault Refusal :=
  .next (s.compareOp (.cgeu t a b) t (scalarCond 5 (s.core.reg a) (s.core.reg b)))

/-! ### Immediate forms (R135) -/

/-- ADDI. -/
def execAddi (t : BitVec 3) (d a : BitVec 6) (i : BitVec 9) (s : State) : Host.Outcome State Fault Refusal :=
  .next (s.scalarOp (.addi t d a i) t d (s.core.reg a + i.signExtend 64))

/-- ANDI. -/
def execAndi (t : BitVec 3) (d a : BitVec 6) (i : BitVec 9) (s : State) : Host.Outcome State Fault Refusal :=
  .next (s.scalarOp (.andi t d a i) t d (s.core.reg a &&& i.signExtend 64))

/-- ORI. -/
def execOri (t : BitVec 3) (d a : BitVec 6) (i : BitVec 9) (s : State) : Host.Outcome State Fault Refusal :=
  .next (s.scalarOp (.ori t d a i) t d (s.core.reg a ||| i.signExtend 64))

/-- XORI. -/
def execXori (t : BitVec 3) (d a : BitVec 6) (i : BitVec 9) (s : State) : Host.Outcome State Fault Refusal :=
  .next (s.scalarOp (.xori t d a i) t d (s.core.reg a ^^^ i.signExtend 64))

/-- SHLI. -/
def execShli (t : BitVec 3) (d a i : BitVec 6) (s : State) : Host.Outcome State Fault Refusal :=
  .next (s.scalarOp (.shli t d a i) t d (shl64 (s.core.reg a) i.toNat))

/-- SHRI. -/
def execShri (t : BitVec 3) (d a i : BitVec 6) (s : State) : Host.Outcome State Fault Refusal :=
  .next (s.scalarOp (.shri t d a i) t d (shr64 (s.core.reg a) i.toNat))

/-- SRAI. -/
def execSrai (t : BitVec 3) (d a i : BitVec 6) (s : State) : Host.Outcome State Fault Refusal :=
  .next (s.scalarOp (.srai t d a i) t d (sra64 (s.core.reg a) i.toNat))

/-- CEQI (R137). -/
def execCeqi (t : BitVec 3) (a : BitVec 6) (i : BitVec 9) (s : State) : Host.Outcome State Fault Refusal :=
  .next (s.compareOp (.ceqi t a i) t (scalarCond 0 (s.core.reg a) (i.signExtend 64)))

/-- CLTI (R137). -/
def execClti (t : BitVec 3) (a : BitVec 6) (i : BitVec 9) (s : State) : Host.Outcome State Fault Refusal :=
  .next (s.compareOp (.clti t a i) t (scalarCond 2 (s.core.reg a) (i.signExtend 64)))

/-! ### Constants (R136) -/

/-- LUI. -/
def execLui (t : BitVec 3) (d : BitVec 6) (i : BitVec 15) (s : State) : Host.Outcome State Fault Refusal :=
  .next (s.scalarOp (.lui t d i) t d (i.signExtend 64 <<< 9))

/-- LSH reads the register it writes. -/
def execLsh (t : BitVec 3) (d : BitVec 6) (i : BitVec 15) (s : State) : Host.Outcome State Fault Refusal :=
  .next (s.scalarOp (.lsh t d i) t d ((s.core.reg d <<< 15) ||| i.setWidth 64))

/-- ADDPC: the byte address of this word and a word offset. -/
def execAddpc (t : BitVec 3) (d : BitVec 6) (i : BitVec 15) (s : State) : Host.Outcome State Fault Refusal :=
  .next (s.scalarOp (.addpc t d i) t d (s.core.wordAddr .s + i.signExtend 64 * 4))

end Sys2Proof.Machine
end

