-- ==== Sys2Proof/Machine/Control.lean ====
section
/-! DEFINITION. The scalar words that decide what runs next: path words (spec/02 R20, R21; spec/07 R138 to
R143), control registers (R145, R146), token words (R144), TRAP, NOP, HALT and PAUSE (R148 to R150; spec/02
R18), and the words that write the shadow configuration (spec/04 R82 to R84). -/
namespace Sys2Proof.Machine

/-! ### Path words (R20, R138, R139) -/

/-- A path word of S: PC.S moves to the target or on; the word retires in the next cycle, when its entry goes
to the three path queues, but not in a handler (R20, R125); a taken one costs S a cycle (R131). -/
def Core.branch (c : Core) (t : BitVec 3) (taken : Bool) (target : Word) : Core :=
  let here := c.engS.pc
  let c := c.moveTo .s (if taken then target else here + 4)
  let c := if taken then { c with scalar := { c.scalar with hold := .bubble 1 } } else c
  c.addPushes (retirePush 1 0 (sigMask t) (if c.scalar.handler then .none else .path taken target))

/-- The target of an SB form (R138). -/
def Core.near (c : Core) (o : BitVec 21) : Word := c.engS.pc + o.signExtend 64 * 4

/-- Pops the head of the condition queue (R27). -/
def Core.popCond (c : Core) : Core := { c with queues := { c.queues with cond := c.queues.cond.drop 1 } }

/-- The head of the condition queue. -/
def Core.headCond (c : Core) : Bool := (c.queues.cond[0]?).getD false

/-- BCQ. -/
def execBcq (t : BitVec 3) (o : BitVec 21) (s : State) : Host.Outcome State Fault Refusal :=
  .next (s.issueAt .s t 0 (Instr.gate (.bcq t o) s)
    (fun s => s.onCore (fun c => c.popCond.branch t c.headCond (c.near o))))

/-- BCQN. -/
def execBcqn (t : BitVec 3) (o : BitVec 21) (s : State) : Host.Outcome State Fault Refusal :=
  .next (s.issueAt .s t 0 (Instr.gate (.bcqn t o) s)
    (fun s => s.onCore (fun c => c.popCond.branch t (!c.headCond) (c.near o))))

/-- JMP. -/
def execJmp (t : BitVec 3) (o : BitVec 21) (s : State) : Host.Outcome State Fault Refusal :=
  .next (s.issueAt .s t 0 (Instr.gate (.jmp t o) s) (fun s => s.onCore (fun c => c.branch t true (c.near o))))

/-- CALL: s62 takes the address of the next word. -/
def execCall (t : BitVec 3) (o : BitVec 21) (s : State) : Host.Outcome State Fault Refusal :=
  .next (s.issueAt .s t 0 (Instr.gate (.call t o) s)
    (fun s => s.onCore (fun c => (c.setReg 62 (c.engS.pc + 4)).branch t true (c.near o))))

/-- JR. -/
def execJr (t : BitVec 3) (a : BitVec 6) (s : State) : Host.Outcome State Fault Refusal :=
  .next (s.issueAt .s t 0 (Instr.gate (.jr t a) s)
    (fun s => s.onCore (fun c => c.branch t true (c.reg a &&& ~~~3))))

/-- CALLR: the target is read before the link is written. -/
def execCallr (t : BitVec 3) (a : BitVec 6) (s : State) : Host.Outcome State Fault Refusal :=
  .next (s.issueAt .s t 0 (Instr.gate (.callr t a) s)
    (fun s => s.onCore (fun c => (c.setReg 62 (c.engS.pc + 4)).branch t true (c.reg a &&& ~~~3))))

/-- What the reads of a CALLK's checks add to the error counters, where it makes them. -/
def State.noteCallk (s : State) (a : BitVec 5) (b : BitVec 6) (g : Gate) : State :=
  match g with
  | .wait _ => s
  | _ => { s with dev := s.dev.noteCode 0 (s.core.reg (pairEven a)) (s.core.reg (pairOdd a)) (s.core.reg b).toNat }

/-- CALLK: the handle is checked and the entry read at issue; the word holds S until it retires 8 cycles
later (R143). -/
def execCallk (t : BitVec 3) (a : BitVec 5) (b : BitVec 6) (s : State) : Host.Outcome State Fault Refusal :=
  let g := Instr.gate (.callk t a b) s
  .next ((s.noteCallk a b g).issueAt .s t 0 g (fun s => s.onCore (fun c =>
    match s.callkTarget a b with
    | .ok target =>
      { c with scalar := { c.scalar with hold := .callk 8 target (c.engS.pc + 4) (sigMask t) } }
    | .error _ => c)))

/-- The retirement of a CALLK: link, path entries, token, and the move to the target (R143). -/
def Core.callkRetire (c : Core) : Core :=
  match c.scalar.hold with
  | .callk _ target link sig =>
    let c := (c.setReg 62 link).moveTo .s target
    let c := { c with scalar := { c.scalar with hold := .bubble 0 } }
    c.addPushes (retirePush 0 0 sig (if c.scalar.handler then .none else .path true target))
  | _ => c

def execCallkRetire (s : State) : Host.Outcome State Fault Refusal := .next (s.onCore Core.callkRetire)

/-- Replaces the path queue of V, M or X. -/
def Core.dropPath (c : Core) (e : Engine) : Core :=
  let q := c.queues
  { c with queues := match e with
    | .v => { q with pathV := q.pathV.drop 1 }
    | .m => { q with pathM := q.pathM.drop 1 }
    | .x => { q with pathX := q.pathX.drop 1 }
    | .s => q }

def Core.path (c : Core) (e : Engine) : List PathEntry :=
  match e with
  | .v => c.queues.pathV
  | .m => c.queues.pathM
  | .x => c.queues.pathX
  | .s => []

/-- V, M or X at a path word: it follows the head of its queue, or waits (R20, R22). -/
def Core.followPath (c : Core) (e : Engine) : Core :=
  match c.path e with
  | [] => c.stallTurn e (some 2)
  | x :: _ => (c.dropPath e).moveTo e (if x.taken then x.target else (c.eng e).pc + 4)

def execPathEntryPop (e : Engine) (s : State) : Host.Outcome State Fault Refusal :=
  .next (s.onCore (·.followPath e))

/-! ### Control registers (R145, R146) -/

/-- CRR. -/
def execCrr (t : BitVec 3) (d : BitVec 6) (n : BitVec 9) (s : State) : Host.Outcome State Fault Refusal :=
  .next (s.scalarOp (.crr t d n) t d (s.readControl n.toNat))

/-- The write of a CRW: it shows to every S word that issues in the cycle in which the word retires, or later (R121, R131).
That is the next cycle, where the write takes effect as it begins, or, where the word's token might be refused, before S
issues in it; a word whose token is refused retires, and writes, when it is accepted (R25). -/
def Core.controlWrite (c : Core) (t : BitVec 3) (n : Nat) (v : Word) : Core :=
  if c.sigRoom (sigMask t) then (c.addPushes (retirePush 0 0 0 (.control n v))).signal 1 .s 0 t
  else c.addPushes (retirePush 1 0 (sigMask t) (.control n v))

/-- A CRW. -/
def State.controlOp (s : State) (i : Instr) (t : BitVec 3) (a : BitVec 6) (n : Nat) : State :=
  s.issue .s t 0 (i.gate s) (fun s => s.onCore (fun c => c.controlWrite t n (c.reg a)))

/-- CRW of FPMODE or TVEC. -/
def execCrw (t : BitVec 3) (a : BitVec 6) (n : BitVec 9) (s : State) : Host.Outcome State Fault Refusal :=
  .next (s.controlOp (.crw t a n) t a n.toNat)

/-- CRW of TIMER (R122). -/
def execCrwTimer (t : BitVec 3) (a : BitVec 6) (s : State) : Host.Outcome State Fault Refusal :=
  .next (s.controlOp (.crwTimer t a) t a 0x0C)

/-- CRW of SLIP (R19). -/
def execCrwSlip (t : BitVec 3) (a : BitVec 6) (s : State) : Host.Outcome State Fault Refusal :=
  .next (s.controlOp (.crwSlip t a) t a 0x04)

/-- CRW of FPFLAGS (R47, R48). -/
def execCrwFpflags (t : BitVec 3) (a : BitVec 6) (s : State) : Host.Outcome State Fault Refusal :=
  .next (s.controlOp (.crwFpflags t a) t a 0x06)

/-- CRW of IEN (R147). -/
def execCrwIen (t : BitVec 3) (a : BitVec 6) (s : State) : Host.Outcome State Fault Refusal :=
  .next (s.controlOp (.crwIen t a) t a 0x10)

/-! ### TRAP, NOP, HALT and PAUSE (R18, R148 to R150) -/

/-- TRAP: it retires, and BREAK is raised with PC.S at the next word; in a handler DOUBLETRAP (R125, R149). -/
def execTrap (t : BitVec 3) (i : BitVec 9) (s : State) : Host.Outcome State Fault Refusal :=
  .next (s.issue .s t 0 (Instr.gate (.trap t i) s) (fun u => u.onCore (fun c =>
    c.failAfter 1 (sigMask t) 0x20 (i.setWidth 64) (s.core.wordAddr .s))))

/-- NOP: its tok field acts. -/
def execNop (t : BitVec 3) (s : State) : Host.Outcome State Fault Refusal :=
  .next (s.issue .s t 0 (Instr.gate (.nop t) s) (fun s => s.onCore (·.signal 1 .s 0 t)))

/-- The collision that HALT reports is no longer due (R236). -/
def State.dropCollision (s : State) : State :=
  let drop := fun (x : Tag) =>
    { x with members := x.members.map (fun m =>
        if m.core = s.core.id && m.bara && !m.unreleased && m.collided = s.collision then { m with collided := none } else m) }
  { s with dev := { s.dev with tags := s.dev.tags.map drop } }

/-- HALT: S stands at it until it retires; its tok field is kept for a trap that comes first (R18, R182). A collision
due at it is reported once. -/
def execHalt (t : BitVec 3) (s : State) : Host.Outcome State Fault Refusal :=
  let g := Instr.gate (.halt t) s
  let u := match g with
    | .fail 0x0E _ => s.dropCollision
    | _ => s
  .next (u.issueAt .s t 0 g
    (fun s => s.onCore (fun c => { c with scalar := { c.scalar with hold := .halt t.toNat } })))

/-- PAUSE: S issues nothing for the 64 cycles that follow (R150). -/
def execPause (t : BitVec 3) (s : State) : Host.Outcome State Fault Refusal :=
  .next (s.issue .s t 0 (Instr.gate (.pause t) s)
    (fun s => s.onCore (fun c => { c with scalar := { c.scalar with hold := .pause 65 (sigMask t) } })))

/-- The end of a PAUSE: it retires and signals (R150). -/
def Core.endPause (c : Core) : Core :=
  match c.scalar.hold with
  | .pause _ sig => ({ c with scalar := { c.scalar with hold := .none } } : Core).retire ⟨0, sig, .none⟩
  | _ => c

def execPauseHoldEnd (s : State) : Host.Outcome State Fault Refusal := .next (s.onCore Core.endPause)

/-! ### Token words (R144) -/

/-- TWAIT. -/
def execTwait (t m : BitVec 3) (s : State) : Host.Outcome State Fault Refusal :=
  .next (s.issue .s t m (Instr.gate (.twait t m) s) (fun s => s.onCore (·.signal 1 .s 0 t)))

/-- TSIG. -/
def execTsig (t m : BitVec 3) (s : State) : Host.Outcome State Fault Refusal :=
  .next (s.issue .s t 0 (Instr.gate (.tsig t m) s) (fun s => s.onCore (·.signal 1 .s m t)))

/-! ### Pushes that were refused (R25, R27) -/

def execPendingTokenPush (s : State) : Host.Outcome State Fault Refusal := .next (s.onCore Core.retryTokens)

/-- Whether a refused push finds room now (R25). -/
def Core.tokenReady (c : Core) : Bool :=
  (List.range 12).any (fun k => 0 < c.queues.fit k) || (c.runLate c.scalar.late).queues.tok != c.queues.tok

/-- Whether an S word that could not retire can now (R25, R27). -/
def Core.lateReady (c : Core) : Bool := (c.runLate c.scalar.late).scalar.late != c.scalar.late

/-- Whether a bit that V holds finds room now, behind those of S (R27). -/
def Core.heldReady (c : Core) : Bool := c.queues.held != [] && c.queues.cond.length + c.condsDue < 16

/-- The S words that can now retire do, among them compares that waited for room in the condition queue, and then V's
bits enter where the compares that retire in this cycle leave room (R27). -/
def execConditionPushDeferred (s : State) : Host.Outcome State Fault Refusal :=
  .next (s.onCore (fun c => let c := c.runLate c.scalar.late
    c.retryHeld c.condsDue))

/-! ### The shadow configuration (R82 to R84) -/

/-- Writes field f of stream q of the shadow copy; a code above 17 names no field. -/
def Core.setShadowField (c : Core) (q : BitVec 4) (f : Nat) (v : Word) : Core :=
  let x := c.shadow.streams[q.toNat]'q.isLt
  { c with shadow := { c.shadow with streams := c.shadow.streams.set q.toNat (x.setIfInBounds f v) q.isLt } }

/-- Changes level l of the shadow nest configuration. -/
def Core.setShadowLevel (c : Core) (l : Nat) (f : Level → Level) : Core :=
  { c with shadow := { c.shadow with levels := c.shadow.levels.setIfInBounds l (f ((c.shadow.levels[l]?).getD .reset)) } }

/-- SCFG. -/
def execScfg (t : BitVec 3) (q : BitVec 4) (a : BitVec 6) (f : BitVec 9) (s : State) :
    Host.Outcome State Fault Refusal :=
  .next (s.issue .s t 0 (Instr.gate (.scfg t q a f) s)
    (fun s => s.onCore (fun c => (c.setShadowField q f.toNat (c.reg a)).signal 1 .s 0 t)))

/-- NCFG: TRIP of a level. -/
def execNcfg (t : BitVec 3) (a : BitVec 6) (l : BitVec 3) (s : State) : Host.Outcome State Fault Refusal :=
  .next (s.issue .s t 0 (Instr.gate (.ncfg t a l) s) (fun s => s.onCore (fun c =>
    (c.setShadowLevel l.toNat (fun x => { x with trip := (c.reg a).setWidth 32 })).signal 1 .s 0 t)))

/-- NMASK.FIRST. -/
def execNmaskFirst (t : BitVec 3) (a : BitVec 6) (l : BitVec 3) (s : State) : Host.Outcome State Fault Refusal :=
  .next (s.issue .s t 0 (Instr.gate (.nmaskFirst t a l) s) (fun s => s.onCore (fun c =>
    (c.setShadowLevel l.toNat (fun x => { x with first := c.reg a })).signal 1 .s 0 t)))

/-- NMASK.LAST. -/
def execNmaskLast (t : BitVec 3) (a : BitVec 6) (l : BitVec 3) (s : State) : Host.Outcome State Fault Refusal :=
  .next (s.issue .s t 0 (Instr.gate (.nmaskLast t a l) s) (fun s => s.onCore (fun c =>
    (c.setShadowLevel l.toNat (fun x => { x with last := c.reg a })).signal 1 .s 0 t)))

end Sys2Proof.Machine
end

