-- ==== Sys2Proof/Machine/Matrix.lean ====
section
/-! DEFINITION. The matrix engine (spec/05): a word enters M's queue when it issues, with the streams and
nest indices of its issue, and has its whole effect when it completes (R98, R100; log 9). -/
namespace Sys2Proof.Machine

/-! ### Accumulators (R97) -/

/-- An accumulator from its elements. -/
def accOf (f : Nat → Nat → Nat) : BitVec 32768 :=
  BitVec.ofNat 32768 (packBits 32 ((List.range 1024).map (fun n => f (n / 32) (n % 32))))

/-- Writes accumulator k and marks its granule (R197, R204). -/
def Core.setAcc (c : Core) (k : Nat) (v : BitVec 32768) : Core :=
  let c := { c with mat := { c.mat with accs := c.mat.accs.setIfInBounds k v } }
  c.touch (c.store.vregBytes + 4096 * k) 4096

/-- Writes an FP64 pair. -/
def Core.setPair (c : Core) (k : Nat) (f : Nat → Nat → Nat) : Core :=
  (c.setAcc k (accOf (fun i j => f i j % 2 ^ 32))).setAcc (k + 1) (accOf (fun i j => f i j / 2 ^ 32))

/-- The 1,024 elements of an accumulator, or of a pair, in row-major order. -/
def elems {α : Type} (f : Nat → Nat → α) : List α := (List.range 1024).map (fun n => f (n / 32) (n % 32))

/-- Writes the elements of a result, with the flags of all of them. -/
def Core.putTile (c : Core) (k : Nat) (pair : Bool) (xs : List (Nat × Flags)) : Core :=
  let ar := (xs.map (·.1)).toArray
  let get := fun i j => (ar[32 * i + j]?).getD 0
  let c := if pair then c.setPair k get else c.setAcc k (accOf get)
  c.setFlags (xs.foldl (fun f x => f ||| x.2) 0)

/-! ### Scratchpad elements written through a stream (R76, R208) -/

/-- Writes a valid element and marks its granule. -/
def Core.putElem (c : Core) (q : Stream) (i : Idx) (r col v : Nat) : Core :=
  if q.valid r col then
    let c' := { c with store := { c.store with spad := c.setElem c.store.spad q i r col v } }
    c'.touch (c.store.vregBytes + c.store.accuBytes + c.spadBase q + q.elemOff i r col) ((q.width + 7) / 8)
  else c

/-- Writes the scale record of element (r, c). -/
def Core.putRec (c : Core) (q : Stream) (i : Idx) (r col v : Nat) : Core :=
  c.writeSpad (c.spadBase q + q.recOff i r col) (leBytes 2 v)

/-- A write through a TILE stream sets DIRTY (R208). -/
def Core.dirtyTile (c : Core) (q : Stream) : Core :=
  if q.kind = 1 then c.setTile q.tile { c.tile q.tile with dirty := true } else c

/-! ### Entering the queue (R98, R99) -/

/-- Tiles that a stream names. -/
def Stream.tiles (q : Stream) : List (BitVec 6) := if q.kind = 1 then [q.tile] else []

/-- A word that enters the queue: its streams a and b, its metadata and its occupancy. -/
def Core.enqueueM (c : Core) (i : Instr) (a b : BitVec 4) (md : List (BitVec 4)) (occ : Nat)
    (tiles : List (BitVec 6)) : Core :=
  let w : MWord := ⟨i, c.stream a, c.stream b, md, c.idx, occ, tiles⟩
  { c with mat := { c.mat with queue := c.mat.queue ++ [w] } }

/-- The issue of an M word that enters the queue. -/
def State.matrixOp (s : State) (i : Instr) (t : BitVec 3) (f : Core → Core) : State :=
  s.issue .m t 0 (i.gate s) (fun s => s.onCore f)

/-! ### MMA and MMAS (R105 to R107, R111, R112) -/

/-- The term of a product: +0 where either element is invalid (R68). -/
def productTerm (valid : Bool) (negA negB : Bool) (a b : FVal) : FVal × Bool :=
  if valid then FVal.mul (if negA then a.neg else a) (if negB then b.neg else b) else (.fin false 0 0, false)

/-- The result of one element with floating-point inputs (R68): the format of the accumulator, the old
element if it takes part, and the products. A product of zero and infinity is no NaN term: it only makes the sum
invalid. -/
def floatSum (F : Fmt) (old : Option Nat) (ts : List (FVal × Bool)) : Nat × Flags :=
  let terms := (ts.filter (!·.2)).map (·.1) ++ (match old with | some x => [F.value x] | none => [])
  let (v, fl) := FVal.sum terms (ts.any (·.2))
  let (code, fl') := F.round .rne v
  (code, fl ||| fl')

/-- The result of one element with integer inputs (R69). -/
def intSum (sat : Bool) (old : Option Nat) (ts : List (FVal × Bool)) : Nat × Flags :=
  let z := sumAt 0 (ts.map (·.1)) + (match old with | some x => signed 32 x | none => 0)
  placeInt 4 sat z

/-- MMA and MMAS at completion; `bRow i k` is the row of B that stored column k of row i takes. -/
def Core.product (c : Core) (w : MWord) (acc ks : Nat) (bRows : Nat) (bRow : Nat → Nat → Nat)
    (negA negB noAcc sat : Bool) : Core :=
  let qa := w.qa
  let qb := w.qb
  let pair : Bool := qa.fmt = 3
  let int := fmtIsInt qa.fmt
  let F := if pair then Fmt.f64 else Fmt.f32
  let rowsA := (List.range 32).map (fun i => c.rowValues qa w.idx i ks)
  let rowsB := ((List.range bRows).map (fun k => (c.rowValues qb w.idx k 32).1.toArray)).toArray
  let flA : Flags := rowsA.foldl (fun f x => f ||| x.2) 0
  let arA := (rowsA.map (·.1.toArray)).toArray
  let elem := fun i j =>
    let ts := (List.range ks).map (fun k =>
      let b := bRow i k
      productTerm (qa.valid i k && qb.valid b j) negA negB
        ((((arA[i]?).getD #[])[k]?).getD .nan) ((((rowsB[b]?).getD #[])[j]?).getD .nan))
    let old := if noAcc then none else some (if pair then c.pairBits acc i j else c.accBits acc i j)
    if int then intSum sat old ts else floatSum F old ts
  (c.putTile acc pair (elems elem)).setFlags flA

def occOf (pair : Bool) : Nat := if pair then 8 else 4

/-- MMA. -/
def execMma (t : BitVec 3) (c : BitVec 7) (a b : BitVec 4) (n m e y : BitVec 1) (s : State) :
    Host.Outcome State Fault Refusal :=
  .next (s.matrixOp (.mma t c a b n m e y) t (fun k =>
    k.enqueueM (.mma t c a b n m e y) a b [] (occOf ((k.stream a).fmt = 3))
      ((k.stream a).tiles ++ (k.stream b).tiles)))

/-- The metadata rows of A's valid rows, read when the MMAS issues (R112). -/
def Core.readMeta (c : Core) (a : BitVec 4) : List (BitVec 4) :=
  let qa := c.stream a
  let m := c.stream qa.mq
  ((List.range (Nat.min 32 qa.vrows)).map (fun r =>
    (c.metaRow m c.idx r (kOf qa.fmt)).map (BitVec.ofNat 4))).flatten

/-- MMAS with N = 4. -/
def execMmasN4 (t : BitVec 3) (c : BitVec 7) (a b : BitVec 4) (n m e y : BitVec 1) (s : State) :
    Host.Outcome State Fault Refusal :=
  .next (s.matrixOp (.mmasN4 t c a b n m e y) t (fun k =>
    k.enqueueM (.mmasN4 t c a b n m e y) a b (k.readMeta a) 4 ((k.stream a).tiles ++ (k.stream b).tiles ++
      (k.stream (k.stream a).mq).tiles)))

/-- MMAS with N = 8. -/
def execMmasN8 (t : BitVec 3) (c : BitVec 7) (a b : BitVec 4) (n m e y : BitVec 1) (s : State) :
    Host.Outcome State Fault Refusal :=
  .next (s.matrixOp (.mmasN8 t c a b n m e y) t (fun k =>
    k.enqueueM (.mmasN8 t c a b n m e y) a b (k.readMeta a) 4 ((k.stream a).tiles ++ (k.stream b).tiles ++
      (k.stream (k.stream a).mq).tiles)))

/-- An MMAS at completion: stored column k of row i takes row 12 · (k / N) + index of B (R112). -/
def Core.sparse (c : Core) (w : MWord) (n acc : Nat) (negA negB noAcc sat : Bool) : Core :=
  let ks := kOf w.qa.fmt
  let md := w.meta?.toArray
  c.product w acc ks (ks * 12 / n) (fun i k => 12 * (k / n) + ((md[i * ks + k]?).getD 0).toNat) negA negB noAcc sat

/-! ### The accumulator words (R113 to R118) -/

/-- MZERO. -/
def execMzero (t : BitVec 3) (c : BitVec 7) (k : BitVec 4) (s : State) : Host.Outcome State Fault Refusal :=
  .next (s.matrixOp (.mzero t c k) t (fun x => x.enqueueM (.mzero t c k) 0 0 [] (k.toNat + 1) []))

/-- MLOAD. -/
def execMload (t : BitVec 3) (c : BitVec 7) (a : BitVec 4) (s : State) : Host.Outcome State Fault Refusal :=
  .next (s.matrixOp (.mload t c a) t (fun x =>
    x.enqueueM (.mload t c a) a a [] (occOf ((x.stream a).fmt = 3)) (x.stream a).tiles))

/-- The element an MLOAD writes (R114): floats widen to FP32 exactly, integers to INT32. -/
def widenTo32 (f : Nat) (v : FVal) : Nat :=
  match v with
  | .fin s m e => if fmtIsInt f then wrapTo 32 (scaleTo s m e 0) else (Fmt.f32.round .rne v).1
  | _ => (Fmt.f32.round .rne v).1

def Core.loadTile (c : Core) (w : MWord) (acc : Nat) : Core :=
  let q := w.qa
  if q.fmt = 0 ∨ q.fmt = 3 ∨ q.fmt = 4 then
    c.putTile acc (q.fmt = 3) (elems (fun i j =>
      if q.kind = 3 then c.downElem q w.idx i j else (c.elemBits c.store.spad q w.idx i j, 0)))
  else
    let rows := (List.range 32).map (fun i => c.rowValues q w.idx i 32)
    let xs := (rows.map (fun r => r.1.map (fun v => (widenTo32 q.fmt v, (0 : Flags))))).flatten
    (c.putTile acc false xs).setFlags (rows.foldl (fun f r => f ||| r.2) 0)

/-- MOUT. -/
def execMout (t : BitVec 3) (c : BitVec 7) (a : BitVec 4) (y : BitVec 1) (ty : BitVec 2) (s : State) :
    Host.Outcome State Fault Refusal :=
  .next (s.matrixOp (.mout t c a y ty) t (fun x =>
    x.enqueueM (.mout t c a y ty) a a [] (occOf (ty = 2)) (x.stream a).tiles))

/-- The code and flags of one element that MOUT writes to a format without a block scale (R115). -/
def Core.outElem (c : Core) (acc ty f : Nat) (sat : Bool) (i j : Nat) : Nat × Flags :=
  match ty with
  | 0 => if f = 0 then (c.accBits acc i j, 0) else toFloat f .rne false (Fmt.f32.value (c.accBits acc i j))
  | 1 =>
    let z := signed 32 (c.accBits acc i j)
    if fmtIsInt f then placeInt f sat z else intToFloat f z
  | _ => if f = 3 then (c.pairBits acc i j, 0) else toFloat f .rne false (Fmt.f64.value (c.pairBits acc i j))

/-- Writes one block of an MOUT to a block-scaled format: the elements `at n` for n below 32 (R57, R115). -/
def Core.outBlock (c : Core) (q : Stream) (idx : Idx) (acc : Nat) (cell : Nat → Nat × Nat) : Core :=
  let cells := (List.range 32).map cell
  if cells.any (fun p => q.valid p.1 p.2) then
    let (codes, rec, fl) := encodeBlock q.fmt (cells.map (fun p =>
      if q.valid p.1 p.2 then Fmt.f32.value (c.accBits acc p.1 p.2) else .fin false 0 0))
    let c := (cells.zip codes).foldl (fun c x => c.putElem q idx x.1.1 x.1.2 x.2) c
    let c := match cells.find? (fun p => q.valid p.1 p.2) with
      | some p => c.putRec q idx p.1 p.2 rec
      | none => c
    c.setFlags fl
  else c

/-- MOUT at completion. -/
def Core.outTile (c : Core) (w : MWord) (acc ty : Nat) (sat : Bool) : Core :=
  let q := w.qa
  let c := if fmtScaled q.fmt then
      (List.range 32).foldl (fun c r =>
        c.outBlock q w.idx acc (fun n => if q.sdir then (n, r) else (r, n))) c
    else
      (List.range 1024).foldl (fun c n =>
        if q.valid (n / 32) (n % 32) then
          let (v, fl) := c.outElem acc ty q.fmt sat (n / 32) (n % 32)
          (c.putElem q w.idx (n / 32) (n % 32) v).setFlags fl
        else c) c
  c.dirtyTile q

/-- MCOPY. -/
def execMcopy (t : BitVec 3) (c k : BitVec 7) (y : BitVec 1) (s : State) : Host.Outcome State Fault Refusal :=
  .next (s.matrixOp (.mcopy t c k y) t (fun x => x.enqueueM (.mcopy t c k y) 0 0 [] (occOf (y = 1)) []))

/-- MCOPY at completion. -/
def Core.copyTile (c : Core) (d k : Nat) (pair : Bool) : Core :=
  let c' := c.setAcc d (c.accum k)
  if pair then c'.setAcc (d + 1) (c.accum (k + 1)) else c'

/-- MADD. -/
def execMadd (t : BitVec 3) (c k : BitVec 7) (n u : BitVec 1) (y : BitVec 2) (s : State) :
    Host.Outcome State Fault Refusal :=
  .next (s.matrixOp (.madd t c k n u y) t (fun x => x.enqueueM (.madd t c k n u y) 0 0 [] (occOf (y = 2)) []))

/-- The sum of an accumulator element and a value of its kind (R117, R118): type 0 FP32, 1 INT32, 2 FP64. -/
def addElem (ty : Nat) (sat neg : Bool) (old : Nat) (x : FVal) : Nat × Flags :=
  let x := if neg then x.neg else x
  match ty with
  | 1 =>
    match x with
    | .fin s m e => placeInt 4 sat (signed 32 old + scaleTo s m e 0)
    | _ => (old, 0)
  | _ =>
    let F := if ty = 2 then Fmt.f64 else Fmt.f32
    let (v, bad) := FVal.add .rne (F.value old) x
    let (code, fl) := F.round .rne v
    (code, fl ||| Flags.when bad .invalid)

/-- An accumulator element as a value of type `ty`. -/
def Core.accValue (c : Core) (ty k i j : Nat) : FVal :=
  match ty with
  | 1 => .ofInt (signed 32 (c.accBits k i j))
  | 2 => Fmt.f64.value (c.pairBits k i j)
  | _ => Fmt.f32.value (c.accBits k i j)

def Core.accRaw (c : Core) (ty k i j : Nat) : Nat := if ty = 2 then c.pairBits k i j else c.accBits k i j

/-- MADD at completion. -/
def Core.addTile (c : Core) (d k ty : Nat) (sat neg : Bool) : Core :=
  c.putTile d (ty = 2) (elems (fun i j => addElem ty sat neg (c.accRaw ty d i j) (c.accValue ty k i j)))

/-- MBIAS. -/
def execMbias (t : BitVec 3) (c : BitVec 7) (a : BitVec 4) (n l u : BitVec 1) (y : BitVec 2) (s : State) :
    Host.Outcome State Fault Refusal :=
  .next (s.matrixOp (.mbias t c a n l u y) t (fun x =>
    x.enqueueM (.mbias t c a n l u y) a a [] (occOf (y = 2)) (x.stream a).tiles))

/-- The vector element of MBIAS and MSCALE at column or row n: an invalid one is +0 and is not negated. -/
def Core.vecElem (c : Core) (w : MWord) (col neg : Bool) (n : Nat) : FVal :=
  let q := w.qa
  let (r, cc) := if col then (n, 0) else (0, n)
  if q.valid r cc then
    let v := elemValue q.fmt (c.elemBits c.store.spad q w.idx r cc) 0
    if neg then v.neg else v
  else .fin false 0 0

/-- MBIAS at completion. -/
def Core.biasTile (c : Core) (w : MWord) (d ty : Nat) (sat neg col : Bool) : Core :=
  let vs := ((List.range 32).map (c.vecElem w col neg)).toArray
  c.putTile d (ty = 2) (elems (fun i j =>
    addElem ty sat false (c.accRaw ty d i j) ((vs[if col then i else j]?).getD .nan)))

/-- MSCALE. -/
def execMscale (t : BitVec 3) (c : BitVec 7) (a : BitVec 4) (n l : BitVec 1) (y : BitVec 2) (s : State) :
    Host.Outcome State Fault Refusal :=
  .next (s.matrixOp (.mscale t c a n l y) t (fun x =>
    x.enqueueM (.mscale t c a n l y) a a [] (occOf (y = 2)) (x.stream a).tiles))

/-- MSCALE at completion. -/
def Core.scaleTile (c : Core) (w : MWord) (d ty : Nat) (neg col : Bool) : Core :=
  let vs := ((List.range 32).map (c.vecElem w col neg)).toArray
  let F := if ty = 2 then Fmt.f64 else Fmt.f32
  c.putTile d (ty = 2) (elems (fun i j =>
    let (v, bad) := FVal.mul (F.value (c.accRaw ty d i j)) ((vs[if col then i else j]?).getD .nan)
    let (code, fl) := F.round .rne v
    (code, fl ||| Flags.when bad .invalid)))

/-! ### Token words (R119, R120) -/

/-- MWAIT: it takes its tokens at issue and enters no queue; its own tok field signals in that cycle: the model's choice, as R119
gives it no completion of its own (log 107). -/
def execMwait (t k : BitVec 3) (s : State) : Host.Outcome State Fault Refusal :=
  .next (s.issue .m t k (Instr.gate (.mwait t k) s) (fun s => s.onCore (·.signal 0 .m 0 t)))

/-- MSIG: it enters the queue and signals at its completion. -/
def execMsig (t k : BitVec 3) (s : State) : Host.Outcome State Fault Refusal :=
  .next (s.matrixOp (.msig t k) t (fun c => c.enqueueM (.msig t k) 0 0 [] 1 []))

/-- MNOP: its signal is pushed when the last earlier M word completes, or at once. -/
def execMnop (t : BitVec 3) (s : State) : Host.Outcome State Fault Refusal :=
  .next (s.issue .m t 0 (Instr.gate (.mnop t) s) (fun s => s.onCore (fun c =>
    if c.mat.queue = [] then c.signal 0 .m 0 t
    else { c with mat := { c.mat with sigs := c.mat.sigs ++ [(c.mat.queue.length, sigMask t)] } })))

/-! ### Completion (R98) -/

/-- The writes and flags of a word at its completion. -/
def Core.mDone (c : Core) (w : MWord) : Core :=
  match w.instr with
  | .mma _ acc _ _ n m e y =>
    c.product w acc.toNat (kOf w.qa.fmt) (kOf w.qa.fmt) (fun _ k => k) (n = 1) (m = 1) (e = 1) (y = 1)
  | .mmasN4 _ acc _ _ n m e y => c.sparse w 4 acc.toNat (n = 1) (m = 1) (e = 1) (y = 1)
  | .mmasN8 _ acc _ _ n m e y => c.sparse w 8 acc.toNat (n = 1) (m = 1) (e = 1) (y = 1)
  | .mzero _ acc k => (List.range (k.toNat + 1)).foldl (fun c j => c.setAcc (acc.toNat + j) 0) c
  | .mload _ acc _ => c.loadTile w acc.toNat
  | .mout _ acc _ y ty => c.outTile w acc.toNat ty.toNat (y = 1)
  | .mcopy _ d k y => c.copyTile d.toNat k.toNat (y = 1)
  | .madd _ d k n u y => c.addTile d.toNat k.toNat y.toNat (u = 1) (n = 1)
  | .mbias _ d _ n l u y => c.biasTile w d.toNat y.toNat (u = 1) (n = 1) (l = 1)
  | .mscale _ d _ n l y => c.scaleTile w d.toNat y.toNat (n = 1) (l = 1)
  | _ => c

/-- The tok field of a queued M word, and the mask of an MSIG. -/
def Core.mSignal (c : Core) (i : Instr) : Core :=
  match i with
  | .mma t _ _ _ _ _ _ _ | .mmasN4 t _ _ _ _ _ _ _ | .mmasN8 t _ _ _ _ _ _ _ | .mzero t _ _ | .mload t _ _
  | .mout t _ _ _ _ | .mcopy t _ _ _ | .madd t _ _ _ _ _ | .mbias t _ _ _ _ _ _ | .mscale t _ _ _ _ _ =>
    c.signal 0 .m 0 t
  | .msig t k => c.signal 0 .m k t
  | _ => c

/-- One earlier word fewer for each waiting MNOP; those with none left push their tokens (R120). -/
def Core.countSigs (c : Core) : Core :=
  let left := c.mat.sigs.map (fun x => (x.1 - 1, x.2))
  let c := { c with mat := { c.mat with sigs := left.filter (·.1 ≠ 0) } }
  (left.filter (·.1 = 0)).foldl (fun c x => c.addPushes (tokenPushes 0 .m x.2)) c

/-- The word at the head of the queue completes: writes, flags and tokens in one cycle (R98). -/
def Core.completeM (c : Core) : Core :=
  match c.mat.queue with
  | [] => c
  | w :: ws =>
    let c := { c with mat := { c.mat with queue := ws } }
    ((c.mDone w).mSignal w.instr).countSigs

def execMWordComplete (s : State) : Host.Outcome State Fault Refusal := .next (s.onCore Core.completeM)

/-- Completes every word in the queue, before a trap frame is written (R102). -/
def Core.drainM (c : Core) : Core := (List.range c.mat.queue.length).foldl (fun c _ => c.completeM) c

end Sys2Proof.Machine
end

