-- ==== Sys2Proof/Machine/Vector.lean ====
section
/-! DEFINITION. The vector engine (spec/08): a word reads its operands on the virtual schedule and adds its
results to those in flight, each with the V cycles left until it lands (R155; log 10). -/
namespace Sys2Proof.Machine

/-! ### Issue (R155 to R157) -/

/-- The last entry carries the word's token (R157, R184). -/
def tokenOnLast (sig : BitVec 3) : List Flight → List Flight
  | [] => []
  | [f] => [{ f with sig1 := sig }]
  | f :: g :: fs => f :: tokenOnLast sig (g :: fs)

/-- A word's results join those in flight, and V is busy for `occ` cycles. -/
def Core.fly (c : Core) (t : BitVec 3) (occ : Nat) (fs : List Flight) : Core :=
  { c with vec := { c.vec with flights := c.vec.flights ++ tokenOnLast (sigMask t) fs, busy := occ } }

/-- The issue of a V word. -/
def State.vectorOp (s : State) (i : Instr) (t : BitVec 3) (f : Core → Core) : State :=
  s.issue .v t 0 (i.gate s) (fun s => s.onCore f)

/-- A word that writes one whole register per cycle: value and flags of register k, of what it then reads (R155). -/
def Core.vMap (c : Core) (t e : BitVec 3) (d : BitVec 5) (lat : Nat) (f : Core → Nat → BitVec 8192 × Flags) : Core :=
  c.fly t (extSize e) (c.steps (fun x k =>
    let (v, fl) := f x k
    [flight (k + lat) (.vreg (c.phys (blockReg e d k)) v 0 1024) fl]) (extSize e))

/-- Register k of the block based at `n`, as read k cycles after issue. -/
def Core.src (c : Core) (e : BitVec 3) (n : BitVec 5) (k : Nat) : BitVec 8192 := c.vregAt (blockReg e n k) k

/-! ### Arithmetic (R161, R162) -/

/-- Latency of VADD to VNEG (R156). -/
def fpLat (y : BitVec 2) : Nat := if y = 3 then 6 else 4

/-- A floating-point element operation of three operands, with FTZ on operands and result (R46). -/
def Core.fpOp (c : Core) (y : BitVec 2) (f : RMode → FVal → FVal → FVal → FVal × Bool) (x a z : Nat) : Nat × Flags :=
  let F := typFmt y.toNat
  let ftz := c.scalar.ftz
  let (v, bad) := f c.scalar.rm (F.operand ftz x) (F.operand ftz a) (F.operand ftz z)
  let (code, fl) := F.roundFtz c.scalar.rm ftz v
  (code, fl ||| Flags.when bad .invalid)

/-- A word over blocks x, y and the destination z, element by element. -/
def Core.triple (c : Core) (t e : BitVec 3) (w lat : Nat) (d a b : BitVec 5) (f : Nat → Nat → Nat → Nat × Flags) :
    Core :=
  c.vMap t e d lat (fun c k =>
    let x := c.src e a k
    let y := c.src e b k
    let z := c.src e d k
    vecFlags w (fun i => f (bitsAt x w i) (bitsAt y w i) (bitsAt z w i)))

/-- The floating-point words of R161. -/
def Core.fpWord (c : Core) (t e : BitVec 3) (y : BitVec 2) (d a b : BitVec 5)
    (f : RMode → FVal → FVal → FVal → FVal × Bool) : Core :=
  c.triple t e (typWidth y.toNat) (fpLat y) d a b (c.fpOp y f)

/-- VMIN and VMAX: no flag, and no rounding of the chosen operand (R71). -/
def Core.fpPick (c : Core) (t e : BitVec 3) (y : BitVec 2) (d a b : BitVec 5) (f : FVal → FVal → FVal) : Core :=
  let F := typFmt y.toNat
  c.triple t e (typWidth y.toNat) (fpLat y) d a b
    (fun x z _ => ((F.round .rne (f (F.operand c.scalar.ftz x) (F.operand c.scalar.ftz z))).1, 0))

/-- VABS and VNEG: the sign bit only, and the canonical NaN for a NaN (R161). -/
def Core.fpSign (c : Core) (t e : BitVec 3) (y : BitVec 2) (d a : BitVec 5) (negate : Bool) : Core :=
  let F := typFmt y.toNat
  let top := 2 ^ (F.width - 1)
  c.triple t e (typWidth y.toNat) (fpLat y) d a a (fun x _ _ =>
    (if F.value x = .nan then F.nanCode
     else if negate then (if top ≤ x then x - top else x + top) else x % top, 0))

/-- VRCP, VRSQ, VEX2, VLG2 (R70). -/
def Core.special (c : Core) (t e : BitVec 3) (d a : BitVec 5) (fn : Nat) : Core :=
  c.triple t e 32 8 d a a (fun x _ _ => specialFn fn c.scalar.ftz (BitVec.ofNat 32 x))

/-- The integer words of R162, on elements of the width of typ. -/
def Core.intWord (c : Core) (t e : BitVec 3) (y : BitVec 2) (d a b : BitVec 5)
    (f : Nat → Nat → Nat → Nat → Nat × Flags) : Core :=
  let w := intWidth y.toNat
  c.triple t e w 2 d a b (f w)

/-- Addition and subtraction, wrapped or clamped. -/
def addInt (y : BitVec 2) (sat : Bool) (sub : Bool) (w x z _o : Nat) : Nat × Flags :=
  let p := signed w x
  let q := signed w z
  placeInt (intFmt y) sat (if sub then p - q else p + q)

/-- Minimum or maximum, signed or unsigned. -/
def pickInt (uns : Bool) (max : Bool) (w x z _o : Nat) : Nat × Flags :=
  let lt : Bool := if uns then x < z else signed w x < signed w z
  (if lt = max then z else x, 0)

/-- VADD. -/
def execVadd (t e : BitVec 3) (y : BitVec 2) (d a b : BitVec 5) (s : State) : Host.Outcome State Fault Refusal :=
  .next (s.vectorOp (.vadd t e y d a b) t (fun c => c.fpWord t e y d a b (fun m x z _ => FVal.add m x z)))

/-- VSUB. -/
def execVsub (t e : BitVec 3) (y : BitVec 2) (d a b : BitVec 5) (s : State) : Host.Outcome State Fault Refusal :=
  .next (s.vectorOp (.vsub t e y d a b) t (fun c => c.fpWord t e y d a b (fun m x z _ => FVal.add m x z.neg)))

/-- VMUL. -/
def execVmul (t e : BitVec 3) (y : BitVec 2) (d a b : BitVec 5) (s : State) : Host.Outcome State Fault Refusal :=
  .next (s.vectorOp (.vmul t e y d a b) t (fun c => c.fpWord t e y d a b (fun _ x z _ => FVal.mul x z)))

/-- VFMA: x·y + z. -/
def execVfma (t e : BitVec 3) (y : BitVec 2) (d a b : BitVec 5) (s : State) : Host.Outcome State Fault Refusal :=
  .next (s.vectorOp (.vfma t e y d a b) t (fun c => c.fpWord t e y d a b (fun m x z o => FVal.fma m x z o)))

/-- VFMS: x·y − z. -/
def execVfms (t e : BitVec 3) (y : BitVec 2) (d a b : BitVec 5) (s : State) : Host.Outcome State Fault Refusal :=
  .next (s.vectorOp (.vfms t e y d a b) t (fun c => c.fpWord t e y d a b (fun m x z o => FVal.fma m x z o.neg)))

/-- VFNMA: −(x·y) + z. -/
def execVfnma (t e : BitVec 3) (y : BitVec 2) (d a b : BitVec 5) (s : State) : Host.Outcome State Fault Refusal :=
  .next (s.vectorOp (.vfnma t e y d a b) t (fun c => c.fpWord t e y d a b (fun m x z o => FVal.fma m x.neg z o)))

/-- VMIN (R71). -/
def execVmin (t e : BitVec 3) (y : BitVec 2) (d a b : BitVec 5) (s : State) : Host.Outcome State Fault Refusal :=
  .next (s.vectorOp (.vmin t e y d a b) t (fun c => c.fpPick t e y d a b FVal.min))

/-- VMAX (R71). -/
def execVmax (t e : BitVec 3) (y : BitVec 2) (d a b : BitVec 5) (s : State) : Host.Outcome State Fault Refusal :=
  .next (s.vectorOp (.vmax t e y d a b) t (fun c => c.fpPick t e y d a b FVal.max))

/-- VABS. -/
def execVabs (t e : BitVec 3) (y : BitVec 2) (d a : BitVec 5) (s : State) : Host.Outcome State Fault Refusal :=
  .next (s.vectorOp (.vabs t e y d a) t (fun c => c.fpSign t e y d a false))

/-- VNEG. -/
def execVneg (t e : BitVec 3) (y : BitVec 2) (d a : BitVec 5) (s : State) : Host.Outcome State Fault Refusal :=
  .next (s.vectorOp (.vneg t e y d a) t (fun c => c.fpSign t e y d a true))

/-- VRCP (R70). -/
def execVrcp (t e : BitVec 3) (d a : BitVec 5) (s : State) : Host.Outcome State Fault Refusal :=
  .next (s.vectorOp (.vrcp t e d a) t (fun c => c.special t e d a 0))

/-- VRSQ (R70). -/
def execVrsq (t e : BitVec 3) (d a : BitVec 5) (s : State) : Host.Outcome State Fault Refusal :=
  .next (s.vectorOp (.vrsq t e d a) t (fun c => c.special t e d a 1))

/-- VEX2 (R70). -/
def execVex2 (t e : BitVec 3) (d a : BitVec 5) (s : State) : Host.Outcome State Fault Refusal :=
  .next (s.vectorOp (.vex2 t e d a) t (fun c => c.special t e d a 2))

/-- VLG2 (R70). -/
def execVlg2 (t e : BitVec 3) (d a : BitVec 5) (s : State) : Host.Outcome State Fault Refusal :=
  .next (s.vectorOp (.vlg2 t e d a) t (fun c => c.special t e d a 3))

/-- VIADD. -/
def execViadd (t e : BitVec 3) (y : BitVec 2) (d a b : BitVec 5) (f : BitVec 1) (s : State) :
    Host.Outcome State Fault Refusal :=
  .next (s.vectorOp (.viadd t e y d a b f) t (fun c => c.intWord t e y d a b (addInt y (f = 1) false)))

/-- VISUB. -/
def execVisub (t e : BitVec 3) (y : BitVec 2) (d a b : BitVec 5) (f : BitVec 1) (s : State) :
    Host.Outcome State Fault Refusal :=
  .next (s.vectorOp (.visub t e y d a b f) t (fun c => c.intWord t e y d a b (addInt y (f = 1) true)))

/-- VIMIN. -/
def execVimin (t e : BitVec 3) (y : BitVec 2) (d a b : BitVec 5) (f : BitVec 1) (s : State) :
    Host.Outcome State Fault Refusal :=
  .next (s.vectorOp (.vimin t e y d a b f) t (fun c => c.intWord t e y d a b (pickInt (f = 1) false)))

/-- VIMAX. -/
def execVimax (t e : BitVec 3) (y : BitVec 2) (d a b : BitVec 5) (f : BitVec 1) (s : State) :
    Host.Outcome State Fault Refusal :=
  .next (s.vectorOp (.vimax t e y d a b f) t (fun c => c.intWord t e y d a b (pickInt (f = 1) true)))

/-- VIMUL. -/
def execVimul (t e : BitVec 3) (y : BitVec 2) (d a b : BitVec 5) (s : State) : Host.Outcome State Fault Refusal :=
  .next (s.vectorOp (.vimul t e y d a b) t (fun c => c.intWord t e y d a b
    (fun w x z _ => (x * z % 2 ^ w, 0))))

/-- VIMAD: x·y + z. -/
def execVimad (t e : BitVec 3) (y : BitVec 2) (d a b : BitVec 5) (s : State) : Host.Outcome State Fault Refusal :=
  .next (s.vectorOp (.vimad t e y d a b) t (fun c => c.intWord t e y d a b
    (fun w x z o => ((x * z + o) % 2 ^ w, 0))))

/-- VAND. -/
def execVand (t e : BitVec 3) (y : BitVec 2) (d a b : BitVec 5) (s : State) : Host.Outcome State Fault Refusal :=
  .next (s.vectorOp (.vand t e y d a b) t (fun c => c.intWord t e y d a b
    (fun _ x z _ => (Nat.land x z, 0))))

/-- VOR. -/
def execVor (t e : BitVec 3) (y : BitVec 2) (d a b : BitVec 5) (s : State) : Host.Outcome State Fault Refusal :=
  .next (s.vectorOp (.vor t e y d a b) t (fun c => c.intWord t e y d a b
    (fun _ x z _ => (Nat.lor x z, 0))))

/-- VXOR. -/
def execVxor (t e : BitVec 3) (y : BitVec 2) (d a b : BitVec 5) (s : State) : Host.Outcome State Fault Refusal :=
  .next (s.vectorOp (.vxor t e y d a b) t (fun c => c.intWord t e y d a b
    (fun _ x z _ => (Nat.xor x z, 0))))

/-- VSHL. -/
def execVshl (t e : BitVec 3) (y : BitVec 2) (d a b : BitVec 5) (s : State) : Host.Outcome State Fault Refusal :=
  .next (s.vectorOp (.vshl t e y d a b) t (fun c => c.intWord t e y d a b
    (fun w x z _ => (x * 2 ^ (z % w) % 2 ^ w, 0))))

/-- VSHR, logical. -/
def execVshr (t e : BitVec 3) (y : BitVec 2) (d a b : BitVec 5) (s : State) : Host.Outcome State Fault Refusal :=
  .next (s.vectorOp (.vshr t e y d a b) t (fun c => c.intWord t e y d a b
    (fun w x z _ => (x / 2 ^ (z % w), 0))))

/-- VSRA, arithmetic. -/
def execVsra (t e : BitVec 3) (y : BitVec 2) (d a b : BitVec 5) (s : State) : Host.Outcome State Fault Refusal :=
  .next (s.vectorOp (.vsra t e y d a b) t (fun c => c.intWord t e y d a b
    (fun w x z _ => (wrapTo w (signed w x / 2 ^ (z % w)), 0))))

/-! ### Masks and conditions (R163 to R166) -/

/-- VCMP. -/
def execVcmp (t : BitVec 3) (y : BitVec 2) (c : BitVec 3) (m : BitVec 2) (a b : BitVec 5) (f : BitVec 1) (s : State) :
    Host.Outcome State Fault Refusal :=
  .next (s.vectorOp (.vcmp t y c m a b f) t (fun k =>
    let x := k.vregAt a 0
    let z := k.vregAt b 0
    let w := if f = 1 then intWidth y.toNat else typWidth y.toNat
    let res := fun i => if f = 1 then intCond w c.toNat (bitsAt x w i) (bitsAt z w i)
      else floatCond (typFmt y.toNat) k.scalar.ftz c.toNat (bitsAt x w i) (bitsAt z w i)
    k.fly t 1 [flight 3 (.mask m (condMask w res)) 0]))

/-- VSEL: lane i of va where the mask holds, else of vb. -/
def execVsel (t e : BitVec 3) (m : BitVec 2) (d a b : BitVec 5) (s : State) : Host.Outcome State Fault Refusal :=
  .next (s.vectorOp (.vsel t e m d a b) t (fun c => c.vMap t e d 2 (fun c k =>
    let p := c.maskAt m k
    let x := c.src e a k
    let z := c.src e b k
    (vecOf 32 (fun i => if p.getLsbD i then bitsAt x 32 i else bitsAt z 32 i), 0))))

/-- VCQ.ANY. -/
def execVcqAny (t : BitVec 3) (m : BitVec 2) (s : State) : Host.Outcome State Fault Refusal :=
  .next (s.vectorOp (.vcqAny t m) t (fun c => c.fly t 1 [flight 3 (.cond (c.maskAt m 0 != 0)) 0]))

/-- VCQ.ALL. -/
def execVcqAll (t : BitVec 3) (m : BitVec 2) (s : State) : Host.Outcome State Fault Refusal :=
  .next (s.vectorOp (.vcqAll t m) t (fun c => c.fly t 1 [flight 3 (.cond (c.maskAt m 0 == BitVec.allOnes 256)) 0]))

/-- A VMSK word writes mask d two cycles after issue. -/
def Core.maskWord (c : Core) (t : BitVec 3) (d : BitVec 2) (v : BitVec 256) : Core :=
  c.fly t 1 [flight 2 (.mask d v) 0]

/-- VMSK.AND. -/
def execVmskAnd (t : BitVec 3) (d a b : BitVec 2) (s : State) : Host.Outcome State Fault Refusal :=
  .next (s.vectorOp (.vmskAnd t d a b) t (fun c => c.maskWord t d (c.maskAt a 0 &&& c.maskAt b 0)))

/-- VMSK.OR. -/
def execVmskOr (t : BitVec 3) (d a b : BitVec 2) (s : State) : Host.Outcome State Fault Refusal :=
  .next (s.vectorOp (.vmskOr t d a b) t (fun c => c.maskWord t d (c.maskAt a 0 ||| c.maskAt b 0)))

/-- VMSK.XOR. -/
def execVmskXor (t : BitVec 3) (d a b : BitVec 2) (s : State) : Host.Outcome State Fault Refusal :=
  .next (s.vectorOp (.vmskXor t d a b) t (fun c => c.maskWord t d (c.maskAt a 0 ^^^ c.maskAt b 0)))

/-- VMSK.ANDN. -/
def execVmskAndn (t : BitVec 3) (d a b : BitVec 2) (s : State) : Host.Outcome State Fault Refusal :=
  .next (s.vectorOp (.vmskAndn t d a b) t (fun c => c.maskWord t d (c.maskAt a 0 &&& ~~~c.maskAt b 0)))

/-- VMSK.NOT. -/
def execVmskNot (t : BitVec 3) (d a : BitVec 2) (s : State) : Host.Outcome State Fault Refusal :=
  .next (s.vectorOp (.vmskNot t d a) t (fun c => c.maskWord t d (~~~c.maskAt a 0)))

/-- VMSK.SET. -/
def execVmskSet (t : BitVec 3) (d : BitVec 2) (s : State) : Host.Outcome State Fault Refusal :=
  .next (s.vectorOp (.vmskSet t d) t (fun c => c.maskWord t d (BitVec.allOnes 256)))

/-- VMSK.CLR. -/
def execVmskClr (t : BitVec 3) (d : BitVec 2) (s : State) : Host.Outcome State Fault Refusal :=
  .next (s.vectorOp (.vmskClr t d) t (fun c => c.maskWord t d 0))

/-! ### Moves, splats and permutes (R167, R168) -/

/-- VMOV. -/
def execVmov (t e : BitVec 3) (d a : BitVec 5) (s : State) : Host.Outcome State Fault Refusal :=
  .next (s.vectorOp (.vmov t e d a) t (fun c => c.vMap t e d 2 (fun c k => (c.src e a k, 0))))

/-- VMOVI. -/
def execVmovi (t e : BitVec 3) (w : BitVec 2) (d : BitVec 5) (i : BitVec 11) (s : State) :
    Host.Outcome State Fault Refusal :=
  .next (s.vectorOp (.vmovi t e w d i) t (fun c => c.vMap t e d 2 (fun _ _ =>
    (vecOf (intWidth w.toNat) (fun _ => (i.signExtend 64).toNat), 0))))

/-- VIOTA. -/
def execViota (t e : BitVec 3) (w : BitVec 2) (d : BitVec 5) (s : State) : Host.Outcome State Fault Refusal :=
  .next (s.vectorOp (.viota t e w d) t (fun c => c.vMap t e d 4 (fun _ k =>
    (vecOf (intWidth w.toNat) (fun i => k * (8192 / intWidth w.toNat) + i), 0))))

/-- VSX reads its scalar register at issue (R130). -/
def execVsx (t e : BitVec 3) (w : BitVec 2) (d : BitVec 5) (a : BitVec 6) (s : State) :
    Host.Outcome State Fault Refusal :=
  .next (s.vectorOp (.vsx t e w d a) t (fun c => c.vMap t e d 3 (fun _ _ =>
    (vecOf (intWidth w.toNat) (fun _ => (c.reg a).toNat), 0))))

/-- VPERM. -/
def execVperm (t e : BitVec 3) (d a i : BitVec 5) (s : State) : Host.Outcome State Fault Refusal :=
  .next (s.vectorOp (.vperm t e d a i) t (fun c => c.vMap t e d 4 (fun c k =>
    let x := c.src e a k
    let n := c.src e i k
    (vecOf 32 (fun l => bitsAt x 32 (bitsAt n 32 l % 256)), 0))))

/-- VBCAST. -/
def execVbcast (t e : BitVec 3) (w : BitVec 2) (d a i : BitVec 5) (s : State) : Host.Outcome State Fault Refusal :=
  .next (s.vectorOp (.vbcast t e w d a i) t (fun c => c.vMap t e d 4 (fun c k =>
    let b := intWidth w.toNat
    let x := c.src e a k
    let n := bitsAt (c.src e i k) 32 0 % (8192 / b)
    (vecOf b (fun _ => bitsAt x b n), 0))))

/-- VSLIDE. -/
def execVslide (t e : BitVec 3) (d a : BitVec 5) (n : BitVec 8) (s : State) : Host.Outcome State Fault Refusal :=
  .next (s.vectorOp (.vslide t e d a n) t (fun c => c.vMap t e d 4 (fun c k => (c.src e a k >>> (32 * n.toNat), 0))))

/-- VXS: element 0 of va, sign-extended, into s[d] (R168). -/
def execVxs (t : BitVec 3) (w : BitVec 2) (d : BitVec 6) (a : BitVec 5) (s : State) :
    Host.Outcome State Fault Refusal :=
  .next (s.vectorOp (.vxs t w d a) t (fun c =>
    let b := intWidth w.toNat
    c.fly t 1 [flight 6 (.sreg d (BitVec.ofInt 64 (signed b (bitsAt (c.vregAt a 0) b 0)))) 0]))

/-- VXS of the partition count latch. -/
def execVxsPart (t : BitVec 3) (d : BitVec 6) (s : State) : Host.Outcome State Fault Refusal :=
  .next (s.vectorOp (.vxsPart t d) t (fun c => c.fly t 1 [flight 6 (.sreg d (c.latchAt 0)) 0]))

/-! ### Conversions (R169 to R172) -/

/-- The narrower register and first byte that hold the elements of wider register k, of `nb` bytes. -/
def narrowAt (base : BitVec 5) (k nb : Nat) : BitVec 5 × Nat := (runReg base (k * nb / 1024), k * nb % 1024)

/-- The elements of wider register k, read from the narrower side. -/
def Core.narrowSrc (c : Core) (base : BitVec 5) (k w nw i : Nat) : Nat :=
  let (r, lo) := narrowAt base k (nw * w / 8)
  bitsAt (c.vregAt r k) w (lo * 8 / w + i)

/-- The results of wider register k on the narrower side: they land in their own bytes only. -/
def Core.narrowDst (c : Core) (base : BitVec 5) (k w lat : Nat) (xs : List (Nat × Flags)) : Flight :=
  let nb := xs.length * w / 8
  let (r, lo) := narrowAt base k nb
  let v : Nat := packBits w (xs.map (·.1)) * 2 ^ (8 * lo)
  flight (k + lat) (.vreg (c.phys r) (BitVec.ofNat 8192 v) lo nb) (xs.foldl (fun a x => a ||| x.2) 0)

/-- One element converted from format code `src` to format code `dst` (R61 to R66, R170). -/
def Core.convert (c : Core) (src dst : Nat) (sat : Bool) (x : Nat) : Nat × Flags :=
  if fmtIsInt src then
    if fmtIsInt dst then placeInt dst sat (intValue src x) else intToFloat dst (intValue src x)
  else
    let v := (floatFmt src).operand c.scalar.ftz x
    if fmtIsInt dst then floatToInt dst c.scalar.rm sat v else toFloat dst c.scalar.rm c.scalar.ftz v

/-- A conversion between widths ws and wd of the elements that `f` converts. -/
def Core.convertWord (c : Core) (t e : BitVec 3) (d a : BitVec 5) (ws wd : Nat) (f : Nat → Nat × Flags) : Core :=
  let b := extSize e
  if wd < ws then
    c.fly t b (c.steps (fun c k =>
      let x := c.src e a k
      [c.narrowDst d k wd 5 ((List.range (8192 / ws)).map (fun i => f (bitsAt x ws i)))]) b)
  else
    c.vMap t e d 5 (fun c k =>
      let x := c.src e a k
      vecFlags wd (fun i => f (if ws = wd then bitsAt x ws i else c.narrowSrc a k ws (8192 / wd) i)))

/-- VCVT. -/
def execVcvt (t e : BitVec 3) (y : BitVec 2) (d a v : BitVec 5) (f : BitVec 1) (s : State) :
    Host.Outcome State Fault Refusal :=
  .next (s.vectorOp (.vcvt t e y d a v f) t (fun c =>
    let src := if v.getLsbD 4 then intFmt y else y.toNat
    let dst := v.toNat % 16
    c.convertWord t e d a (fmtWidth src) (fmtWidth dst) (c.convert src dst (f = 1))))

/-- The register of the scale records of a block-scaled run (R171). -/
def scaleReg (e : BitVec 3) (base : BitVec 5) (ww w : Nat) : BitVec 5 :=
  runReg base ((extSize e * (8192 / ww) * w + 8191) / 8192)

/-- VPACK: the codes and records of wider register k land together. -/
def execVpack (t e : BitVec 3) (y : BitVec 2) (d a : BitVec 5) (f : BitVec 4) (s : State) :
    Host.Outcome State Fault Refusal :=
  .next (s.vectorOp (.vpack t e y d a f) t (fun c =>
    let ww := typWidth y.toNat
    let w := fmtWidth f.toNat
    let n := 8192 / ww
    c.fly t (extSize e) (c.steps (fun c k =>
      let x := c.src e a k
      let blocks := (List.range (n / 32)).map (fun j => encodeBlock f.toNat
        ((List.range 32).map (fun i => (typFmt y.toNat).value (bitsAt x ww (32 * j + i)))))
      let codes := (blocks.map (fun b => b.1.map (fun q => (q, b.2.2)))).flatten
      let lo := 2 * (k * (n / 32))
      let recs : Nat := packBits 16 (blocks.map (·.2.1)) * 2 ^ (8 * lo)
      [c.narrowDst d k w 5 codes,
       flight (k + 5) (.vreg (c.phys (scaleReg e d ww w)) (BitVec.ofNat 8192 recs) lo (n / 16)) 0]) (extSize e))))

/-- A widened element (R66, R172): rounded by RM into FP16 and BF16, but a value beyond the range of FP16 is its infinity
whatever the mode; one beyond the range of FP32 rounds by RM (log 51). -/
def widen (y : Nat) (md : RMode) (v : FVal) : Nat × Flags :=
  let F := typFmt y
  let (code, fl) := F.round md v
  if y = 1 ∧ fl &&& Flags.overflow ≠ 0 then (F.signBit v.isNeg + F.top, fl) else (code, fl)

/-- VUNPK. -/
def execVunpk (t e : BitVec 3) (y : BitVec 2) (d a : BitVec 5) (f : BitVec 4) (s : State) :
    Host.Outcome State Fault Refusal :=
  .next (s.vectorOp (.vunpk t e y d a f) t (fun c =>
    let w := fmtWidth f.toNat
    let wd := if fmtIsInt f.toNat then intWidth y.toNat else typWidth y.toNat
    let n := 8192 / wd
    c.vMap t e d 5 (fun c k =>
      let recs := if fmtScaled f.toNat then c.vregAt (scaleReg e a wd w) k else 0
      vecFlags wd (fun i =>
        let code := c.narrowSrc a k w n i
        if fmtIsInt f.toNat then (wrapTo wd (intValue f.toNat code), 0)
        else widen y.toNat c.scalar.rm (elemValue f.toNat code (bitsAt recs 16 ((k * n + i) / 32)))))))

/-! ### Reductions (R72, R173) -/

/-- The halving tree: element i takes element i + n/2, until one is left. -/
def halve (op : Nat → Nat → Nat × Flags) : Nat → List Nat → Flags → Nat × Flags
  | 0, xs, fl => ((xs[0]?).getD 0, fl)
  | d + 1, xs, fl =>
    let h := xs.length / 2
    let ys := ((xs.take h).zip (xs.drop h)).map (fun p => op p.1 p.2)
    halve op d (ys.map (·.1)) (ys.foldl (fun a y => a ||| y.2) fl)

/-- A reduction of the block to element 0 of vd. -/
def Core.reduce (c : Core) (t e : BitVec 3) (d a : BitVec 5) (w : Nat) (op : Nat → Nat → Nat × Flags) : Core :=
  let b := extSize e
  let parts := (List.range b).map (fun k =>
    let x := c.src e a k
    halve op (Nat.log2 (8192 / w)) ((List.range (8192 / w)).map (bitsAt x w)) 0)
  let (r, fl) := halve op (Nat.log2 b) (parts.map (·.1)) (parts.foldl (fun f p => f ||| p.2) 0)
  c.fly t b [flight (b + 7) (.vreg (c.phys d) (BitVec.ofNat 8192 (r % 2 ^ w)) 0 1024) fl]

/-- VRSUM: RNE and FTZ, or wrapping. -/
def execVrsum (t e : BitVec 3) (y : BitVec 2) (d a : BitVec 5) (f : BitVec 1) (s : State) :
    Host.Outcome State Fault Refusal :=
  .next (s.vectorOp (.vrsum t e y d a f) t (fun c =>
    if f = 1 then c.reduce t e d a (intWidth y.toNat) (fun x z => ((x + z) % 2 ^ intWidth y.toNat, 0))
    else
      let F := typFmt y.toNat
      c.reduce t e d a (typWidth y.toNat) (fun x z =>
        let (v, bad) := FVal.add .rne (F.operand c.scalar.ftz x) (F.operand c.scalar.ftz z)
        let (code, fl) := F.roundFtz .rne c.scalar.ftz v
        (code, fl ||| Flags.when bad .invalid))))

/-- VRMAX and VRMIN, by R71 or signed. -/
def Core.reducePick (c : Core) (t e : BitVec 3) (y : BitVec 2) (d a : BitVec 5) (f : BitVec 1) (max : Bool) : Core :=
  if f = 1 then c.reduce t e d a (intWidth y.toNat) (fun x z => pickInt false max (intWidth y.toNat) x z 0)
  else
    let F := typFmt y.toNat
    c.reduce t e d a (typWidth y.toNat) (fun x z =>
      let p := F.operand c.scalar.ftz x
      let q := F.operand c.scalar.ftz z
      ((F.round .rne (if max then FVal.max p q else FVal.min p q)).1, 0))

/-- VRMAX. -/
def execVrmax (t e : BitVec 3) (y : BitVec 2) (d a : BitVec 5) (f : BitVec 1) (s : State) :
    Host.Outcome State Fault Refusal :=
  .next (s.vectorOp (.vrmax t e y d a f) t (fun c => c.reducePick t e y d a f true))

/-- VRMIN. -/
def execVrmin (t e : BitVec 3) (y : BitVec 2) (d a : BitVec 5) (f : BitVec 1) (s : State) :
    Host.Outcome State Fault Refusal :=
  .next (s.vectorOp (.vrmin t e y d a f) t (fun c => c.reducePick t e y d a f false))

/-! ### Streams (R174, R175) -/

/-- VSLD: register k takes row ro + k. -/
def execVsld (t e : BitVec 3) (d : BitVec 5) (q : BitVec 4) (r : BitVec 5) (s : State) :
    Host.Outcome State Fault Refusal :=
  .next (s.vectorOp (.vsld t e d q r) t (fun c =>
    let x := c.stream q
    c.fly t (extSize e) ((List.range (extSize e)).map (fun k =>
      let m := c.spadAt k
      let (v, fl) := vecFlags x.width (fun col => c.streamElem x c.idx m (r.toNat + k) col)
      { flight (k + 10) (.vreg (c.phys (blockReg e d k)) v 0 1024) fl with tile := x.tile? }))))

/-- VSST: row ro + k takes register k, valid elements only. -/
def execVsst (t e : BitVec 3) (d : BitVec 5) (q : BitVec 4) (r : BitVec 5) (s : State) :
    Host.Outcome State Fault Refusal :=
  .next (s.vectorOp (.vsst t e d q r) t (fun c =>
    let x := c.stream q
    c.fly t (extSize e) ((List.range (extSize e)).map (fun k =>
      let row := r.toNat + k
      let n := if row < x.vrows then Nat.min x.vcols x.perReg else 0
      { flight (k + 10) (.row (c.src e d k) (c.spadBase x + x.elemOff c.idx row 0) n x.width) 0 with
        tile := x.tile?, dirty := n ≠ 0 }))))

/-- VGATH. -/
def execVgath (t e : BitVec 3) (d i : BitVec 5) (q : BitVec 4) (s : State) : Host.Outcome State Fault Refusal :=
  .next (s.vectorOp (.vgath t e d i q) t (fun c =>
    c.fly t (extSize e) (c.gathered e d i (c.stream q))))

/-- The lane offsets of a VSCAT; 0xFFFFFFFF means skip (R184). -/
def Core.laneOffsets (c : Core) (x : Stream) (names : List (Option (Nat × Nat))) : BitVec 8192 :=
  let ar := names.toArray
  let wide : Bool := x.width = 64
  vecOf 32 (fun l =>
    if wide && l % 2 = 1 then 0xFFFFFFFF
    else match (ar[if wide then l / 2 else l]?).getD none with
      | some (r, col) => c.spadBase x + x.elemOff c.idx r col
      | none => 0xFFFFFFFF)

/-- VSCAT: each lane goes to the element its index names; the highest lane of the last register wins. -/
def execVscat (t e : BitVec 3) (d i : BitVec 5) (q : BitVec 4) (s : State) : Host.Outcome State Fault Refusal :=
  .next (s.vectorOp (.vscat t e d i q) t (fun c =>
    let x := c.stream q
    c.fly t (extSize e) ((List.range (extSize e)).map (fun k =>
      let names := c.gatherNames e i x k
      { flight (k + 14) (.scatter (c.src e d k) (c.laneOffsets x names) (x.width = 64)) 0 with
        tile := x.tile?, dirty := names.any Option.isSome }))))

/-! ### VPART (R176) -/

/-- The lanes of `xs` padded to 256 with 0xFFFFFFFF. -/
def padLanes (xs : List Nat) : BitVec 8192 :=
  BitVec.ofNat 8192 (packBits 32 (xs ++ List.replicate (256 - xs.length) 0xFFFFFFFF))

/-- VPART. -/
def execVpart (t : BitVec 3) (m : BitVec 2) (d : BitVec 4) (i : BitVec 5) (s : State) :
    Host.Outcome State Fault Refusal :=
  .next (s.vectorOp (.vpart t m d i) t (fun c =>
    let p := c.maskAt m 0
    let x := c.vregAt i 0
    let yes := (List.range 256).filter (fun l => p.getLsbD l)
    let no := (List.range 256).filter (fun l => !p.getLsbD l)
    let lane := bitsAt x 32
    let even : BitVec 5 := d ++ (0 : BitVec 1)
    let latch : Nat := yes.length + 2 ^ 32 * no.length
    c.fly t 2 [flight 12 (.vreg (c.phys even) (padLanes (yes.map lane)) 0 1024) 0,
      flight 13 (.vreg (c.phys (even + 1)) (padLanes (no.map lane)) 0 1024) 0,
      flight 13 (.latch (BitVec.ofNat 64 latch)) 0]))

/-! ### Windows and ordering words (R178, R179) -/

/-- VWIN. -/
def execVwin (t n : BitVec 3) (s : State) : Host.Outcome State Fault Refusal :=
  .next (s.vectorOp (.vwin t n) t (fun c =>
    { c with vec := { c.vec with window := n, busy := 1 } }.signal 0 .v 0 t))

/-- A word whose tokens are pushed when the last result of earlier V words has landed (R157). A condition bit of VCQ counts as
landed in its landing cycle, also where the full condition queue holds it: the model's choice (R124, R179; log 79). -/
def Core.afterResults (c : Core) (m t : BitVec 3) : Core :=
  let c := { c with vec := { c.vec with busy := 1 } }
  if c.vec.flights = [] then c.signal 0 .v m t
  else
    let last := c.vec.flights.foldl (fun n f => Nat.max n f.remain) 0
    { c with vec := { c.vec with flights := c.vec.flights ++
      [{ flight last .signal 0 with sig1 := m, sig2 := sigMask t }] } }

/-- VWAIT. -/
def execVwait (t m : BitVec 3) (s : State) : Host.Outcome State Fault Refusal :=
  .next (s.issue .v t m (Instr.gate (.vwait t m) s)
    (fun s => s.onCore (fun c => { c with vec := { c.vec with busy := 1 } }.signal 0 .v 0 t)))

/-- VSIG. -/
def execVsig (t m : BitVec 3) (s : State) : Host.Outcome State Fault Refusal :=
  .next (s.vectorOp (.vsig t m) t (fun c => c.afterResults m t))

/-- VNOP. -/
def execVnop (t : BitVec 3) (s : State) : Host.Outcome State Fault Refusal :=
  .next (s.vectorOp (.vnop t) t (fun c => if sigMask t = 0 then { c with vec := { c.vec with busy := 1 } }
    else c.afterResults 0 t))

/-! ### Landing (R48, R155, R157) -/

/-- The pool bytes that a result writes, as (first byte, count). -/
def Core.landTouches (c : Core) (r : Result) : List (Nat × Nat) :=
  let spad := c.store.vregBytes + c.store.accuBytes
  match r with
  | .vreg p _ lo n => [(1024 * p.toNat + lo, n)]
  | .row _ off n w => [(spad + off, (n * w + 7) / 8)]
  | .scatter _ offs wide => ((List.range 256).map (bitsAt offs 32)).filterMap (fun o =>
      if o = 0xFFFFFFFF then none else some (spad + o, if wide then 8 else 4))
  | _ => []

/-- One result lands: its value, its flags, the dirty bit of its tile, and its tokens, which for a condition
bit wait for its entry into the queue (R27, R48, R208). -/
def Core.landV (c : Core) (f : Flight) : Core :=
  let c := { c with
    vec := { c.vec with
      regs := match f.result with
        | .vreg p _ _ _ => c.vec.regs.set p.toNat (f.onReg p (c.vec.regs[p.toNat]'p.isLt)) p.isLt
        | _ => c.vec.regs,
      masks := match f.result with
        | .mask m v => c.vec.masks.set m.toNat v m.isLt
        | _ => c.vec.masks,
      latch := f.onLatch c.vec.latch },
    store := { c.store with spad := f.onSpad c.store.spad } }
  let c := (c.landTouches f.result).foldl (fun c x => c.touch x.1 x.2) c
  let c := match f.result with
    | .sreg d v => c.setReg d v
    | _ => c
  let c := match f.tile with
    | some i => if f.dirty then c.setTile i { c.tile i with dirty := true } else c
    | none => c
  let c := c.setFlags f.flags
  match f.result with
  | .cond b => c.addPushes [⟨0, .cond b f.sig1 f.sig2⟩]
  | _ => c.addPushes (tokenPushes 0 .v f.sig1 ++ tokenPushes 0 .v f.sig2)

/-- Lands every due result whose `again` mark is as given, in issue order. -/
def Core.landDue (c : Core) (again : Bool) : Core :=
  let due := c.vec.flights.filter (fun f => f.remain = 0 && f.again = again)
  let rest := c.vec.flights.filter (fun f => !(f.remain = 0 && f.again = again))
  due.foldl Core.landV { c with vec := { c.vec with flights := rest } }

def execVResultLand (s : State) : Host.Outcome State Fault Refusal := .next (s.onCore (·.landDue false))

end Sys2Proof.Machine
end

