-- ==== Sys2Proof/Machine/Request.lean ====
section
/-! DEFINITION. Requests to peers and the flits that carry them (spec/17 R310, R311; log 92): a request takes a tag when one
is free, goes out in a flit of its own on a link that the route table names, and stays outstanding until its answer. -/
namespace Sys2Proof.Machine

/-! ### Requests of a core (R311) -/

/-- The current core makes a request and it goes out if it can. -/
def State.askPeer (s : State) (p : Page) (a : Nat) (kind : PeerKind) (packet : Packet) : State :=
  { s with dev := (s.dev.queueReq s.core.id s.core.job.region p a kind packet).pump }

/-- The lines that a core owned dirty are at their homes: a release or fence of DEVICE scope or wider has been performed
(R245, R334). -/
def Device.cleanOwned (d : Device) (core : Nat) : Device := { d with owned := d.owned.filter (fun x => x.2 ≠ core) }

/-- The requests of the cores for which `p` holds are made for nobody any more: they have stopped (R192). -/
def Device.orphanReqs (d : Device) (p : Nat → Bool) : Device :=
  { d with peerReqs := d.peerReqs.map (fun r => if p r.core then { r with live := false } else r) }

/-- Runs of bytes that a byte mask writes: offset and bytes. -/
def maskedRuns : Nat → List Bool → List Byte → List (Nat × List Byte)
  | k, true :: ms, b :: bs =>
    match maskedRuns (k + 1) ms bs with
    | (j, run) :: rest => if j = k + 1 then (k, b :: run) :: rest else (k, [b]) :: (j, run) :: rest
    | [] => [(k, [b])]
  | k, false :: ms, _ :: bs => maskedRuns (k + 1) ms bs
  | _, _, _ => []

end Sys2Proof.Machine
end

