-- ==== Sys2Proof/Machine/Transfer.lean ====
section
/-! DEFINITION. The transfer engine (spec/11 R222 to R228; spec/09 R187, R191): a command enters the journal
when it issues; the command at the head of the journal copies one chunk of 4 KiB at a time (log 11), and
completes after its last. -/
namespace Sys2Proof.Machine

/-! ### Plane stores and pending bytes (R234 to R236, R240) -/

/-- Changes the member that a core is of tag g. -/
def Device.onMember (d : Device) (g : BitVec 3) (core : Nat) (f : Member → Member) : Device :=
  let x := d.tags[g.toNat]'g.isLt
  let ms := x.members.map (fun m => if m.core = core then f m else m)
  { d with tags := d.tags.set g.toNat { x with members := ms } g.isLt }

/-- A word store of the next plane sets out for its home (R235). -/
def Device.planeStore (d : Device) (p : PlaneStore) : Device := { d with settling := d.settling ++ [p] }

/-- Bytes that land take away from the pending-byte counter, down to −(2^36 − 1) (R240). -/
def Device.bytesLand (d : Device) (g : BitVec 3) (core n : Nat) : Device :=
  d.onMember g core (fun m =>
    let z := m.count - (n : Int)
    { m with count := if z < -(2 ^ 36 - 1) then -(2 ^ 36 - 1) else z })

/-! ### Reads and writes through a handle -/

/-- Bytes of handle h left in its page from offset o on. -/
def Core.pageRoom (c : Core) (h : BitVec 4) (o : Nat) (p : Page) : Nat := p.va + 2 ^ p.bits - ((c.handle h).va.toNat + o)

/-- Bytes at offset o of handle h that lie in one page, as `read` gives them, and the address of a poisoned line among
them (R191). -/
def State.readRun (s : State) (read : Page → Nat → Nat → List Byte × Option Word) (h : BitVec 4) (o n : Nat) :
    List Byte × Option Word :=
  match s.core.handlePage h o with
  | some p => read p ((s.core.handle h).va.toNat + o) n
  | none => (List.replicate n 0, none)

/-- Bytes at offset o of handle h; a handle's base need not be aligned, so that up to 4,096 of them lie in two pages
(R211, R212). -/
def State.readWith (s : State) (read : Page → Nat → Nat → List Byte × Option Word) (h : BitVec 4) (o n : Nat) :
    List Byte × Option Word :=
  let room := ((s.core.handlePage h o).map (s.core.pageRoom h o)).getD n
  if n ≤ room then s.readRun read h o n
  else
    let x := s.readRun read h o room
    let y := s.readRun read h (o + room) (n - room)
    (x.1 ++ y.1, x.2.or y.2)

/-- The same of this device's memory, as S and the device read it. -/
def State.readHandle (s : State) (h : BitVec 4) (o n : Nat) : List Byte × Option Word := s.readWith s.dev.readPage h o n

/-- The bytes of a PEER page in the lines that the chunk has received, and the first of them that is poisoned (R311). -/
def State.peerBytes (s : State) (p : Page) (va n : Nat) : List Byte × Option Word :=
  let line := fun (l : Nat) => (s.core.xfer.lines.find? (fun x => x.line = l)).bind (·.data)
  let byte := fun (a : Nat) => ((line (lineOf a)).bind (fun x => x.1[a % 64]?)).getD 0
  let bad := (linesOf (p.addr va) n).find? (fun l => (line l).any (·.2))
  ((List.range n).map (fun k => byte (p.addr va + k)), bad.map p.lineVa)

/-- Bytes at offset o of handle h, as X reads them. -/
def State.xBytes (s : State) (h : BitVec 4) (o n : Nat) : List Byte × Option Word :=
  s.readWith (fun p va n => if p.kind = .peer then s.peerBytes p va n else s.dev.readPage p va n) h o n

/-- The bound plane region of an address in a page (R233). -/
def Device.boundAt (d : Device) (p : Page) (va : Nat) : Option Plane :=
  if p.kind = .plane then
    match d.planeAt (p.addr va) with
    | some pl => if pl.bound.isSome then some pl else none
    | none => none
  else none

/-- The word stores that a store of bytes to a bound plane region makes, one for each 32 bits (R234), with the poison of the
data (R228). Where a handle's base is no multiple of 4 the words are stored at those addresses, and a last piece of fewer than
four bytes is dropped: the model's choices (log 103). -/
def planeWords (addr : Nat) (va : Word) (core : Nat) (prio : BitVec 8) (bad : Bool) : List Byte → Nat → List PlaneStore
  | b0 :: b1 :: b2 :: b3 :: bs, k =>
    ⟨addr + 4 * k, va + BitVec.ofNat 64 (4 * k), core, prio, BitVec.ofNat 32 (leNat [b0, b1, b2, b3]), bad⟩ ::
      planeWords addr va core prio bad bs (k + 1)
  | _, _ => []

/-- A store of bytes at offset o of handle h by the current core, in one page: to a bound plane region it is a store of the
next plane with priority `prio`, with the poison of its data; elsewhere it writes memory. -/
def State.writeRun (s : State) (h : BitVec 4) (o : Nat) (prio : BitVec 8) (bs : List Byte) (bad : Bool := false) : State :=
  match s.core.handlePage h o with
  | none => s
  | some p =>
    let va := (s.core.handle h).va + BitVec.ofNat 64 o
    match s.dev.boundAt p va.toNat with
    | some _ => { s with dev := (planeWords (p.addr va.toNat) va s.core.id prio bad bs 0).foldl Device.planeStore s.dev }
    | none => { s with dev := s.dev.writePage s.writer p va.toNat bs }

/-- Bytes at offset o of handle h, written by `put`, where they may lie in two pages. -/
def State.writeWith (s : State) (put : State → Nat → List Byte → State) (h : BitVec 4) (o : Nat) (bs : List Byte) : State :=
  let room := ((s.core.handlePage h o).map (s.core.pageRoom h o)).getD bs.length
  if bs.length ≤ room then put s o bs else put (put s o (bs.take room)) (o + room) (bs.drop room)

def State.writeHandle (s : State) (h : BitVec 4) (o : Nat) (prio : BitVec 8) (bs : List Byte) (bad : Bool := false) : State :=
  s.writeWith (fun s o bs => s.writeRun h o prio bs bad) h o bs

/-! ### Elements (R76, R77) -/

/-- Element (r, c) of a stream that X reads, with a poisoned line; zero where it is invalid. -/
def State.xElem (s : State) (q : Stream) (i : Idx) (r col : Nat) : Nat × Option Word :=
  if q.valid r col then
    if q.kind = 2 then
      let (bs, bad) := s.xBytes q.handle (q.elemOff i r col) ((q.width + 7) / 8)
      let v := leNat bs
      (if q.width = 4 then (v / (if q.upper col then 16 else 1)) % 16 else v, bad)
    else (s.core.elemBits s.core.store.spad q i r col, none)
  else (0, none)

/-- A byte that X writes through a handle: its virtual address, its value, the bits of it that are written (a nibble, for a
4-bit element, R52), and whether it is poisoned. -/
structure XByte where
  va   : Nat
  val  : Byte
  mask : Byte
  bad  : Bool
  deriving DecidableEq, Repr

/-- The bytes of element (r, c) with value v in a stream whose handle begins at `base`. -/
def Stream.xBytes (q : Stream) (i : Idx) (base r col v : Nat) (bad : Bool) : List XByte :=
  let a := base + q.elemOff i r col
  if q.width = 4 then
    [if q.upper col then ⟨a, BitVec.ofNat 8 (16 * (v % 16)), 0xF0, bad⟩ else ⟨a, BitVec.ofNat 8 (v % 16), 0x0F, bad⟩]
  else (List.range (q.width / 8)).map (fun k => ⟨a + k, BitVec.ofNat 8 (v / 256 ^ k), 0xFF, bad⟩)

/-- A byte of memory after the writes to it, in order. -/
def mergeByte (old : Byte) (xs : List XByte) : Byte := xs.foldl (fun b x => (b &&& ~~~x.mask) ||| (x.val &&& x.mask)) old

/-- The runs in which a line is written: at once where all its bits are, else so that it counts as a partial write
(R327). -/
def lineRuns (mask : List Bool) (whole : Bool) (bs : List Byte) : List (Nat × List Byte) :=
  if mask.all id && !whole then [(0, bs.take 32), (32, bs.drop 32)] else maskedRuns 0 mask bs

/-- The page among those of handle h that maps va. -/
def Core.pageOf (c : Core) (h : BitVec 4) (va : Nat) : Option Page :=
  (c.handle h).pages.find? (fun p => decide (p.va ≤ va) && decide (va < p.va + 2 ^ p.bits))

/-- A write of X to a line of a peer sets out, or is lost where no route reaches the peer (R311, R313). -/
def State.sendLine (s : State) (p : Page) (va : Nat) (mask : List Bool) (bs : List Byte) (scope : BitVec 2) : State :=
  let a := p.addr va
  match s.dev.linkTo (peerOf a) with
  | some _ => s.askPeer p a .xwrite (.write s.dev.devId 0 (peerAddr a) mask bs scope)
  | none => { s with dev := s.dev.loseWrite s.writer p va }

/-- What X writes to the 64-byte line at va, of bytes that lie in it: one write, with the poison it carries (R228, R327). -/
def State.writeLine (s : State) (h : BitVec 4) (va : Nat) (scope : BitVec 2) (xs : List XByte) : State :=
  match s.core.pageOf h va with
  | none => s
  | some p =>
    let old := if p.kind = .peer then (s.peerBytes p va 64).1 else s.dev.bytesAt (p.addr va) 64
    let at' := fun (k : Nat) => xs.filter (fun x => x.va = va + k)
    let bs := (List.range 64).map (fun k => mergeByte ((old[k]?).getD 0) (at' k))
    let mask := (List.range 64).map (fun k => !(at' k).isEmpty)
    let whole := (List.range 64).all (fun k => (at' k).foldl (fun m x => m ||| x.mask) 0 == 0xFF)
    if p.kind = .peer then s.sendLine p va mask bs scope
    else
      let d := (lineRuns mask whole bs).foldl (fun d r => d.writePage s.writer p (va + r.1) r.2) s.dev
      { s with dev := if xs.any (·.bad) && d.reachable p.kind (p.addr va) p.dieLocal then d.poisonLine (lineOf (p.addr va)) else d }

def addNew (xs : List Nat) (x : Nat) : List Nat := if xs.contains x then xs else xs ++ [x]

/-- What X writes through handle h, line by line. -/
def State.writeBytes (s : State) (h : BitVec 4) (scope : BitVec 2) (xs : List XByte) : State :=
  let lines := xs.foldl (fun ls x => addNew ls (lineOf x.va)) []
  lines.foldl (fun s l => s.writeLine h (64 * l) scope (xs.filter (fun x => lineOf x.va = l))) s

/-- Whether offset o of handle h lies in a bound plane region. -/
def State.boundTo (s : State) (h : BitVec 4) (o : Nat) : Bool :=
  match s.core.handlePage h o with
  | some p => (s.dev.boundAt p ((s.core.handle h).va.toNat + o)).isSome
  | none => false

/-- The value that X writes to an element of a destination: the position, the value, and the poisoned line it came from. -/
abbrev XWrite := (Nat × Nat) × Nat × Option Word

/-- Writes elements of a destination that are valid, in order: to the scratchpad, to a bound plane region as stores of
the next plane with priority 0 (R234), and elsewhere line by line. -/
def State.xPut (s : State) (q : Stream) (i : Idx) (scope : BitVec 2) (ws : List XWrite) : State :=
  let ws := ws.filter (fun w => q.valid w.1.1 w.1.2)
  if q.kind = 2 then
    let off := fun (w : XWrite) => q.elemOff i w.1.1 w.1.2
    let s := (ws.filter (fun w => s.boundTo q.handle (off w))).foldl
      (fun s w => s.writeHandle q.handle (off w) 0 (leBytes (q.width / 8) w.2.1) w.2.2.isSome) s
    let base := (s.core.handle q.handle).va.toNat
    s.writeBytes q.handle scope
      ((ws.filter (fun w => !s.boundTo q.handle (off w))).map (fun w => q.xBytes i base w.1.1 w.1.2 w.2.1 w.2.2.isSome)).flatten
  else ws.foldl (fun s w => s.onCore (fun c => (c.putElem q i w.1.1 w.1.2 w.2.1).dirtyTile q)) s

/-! ### Chunks (R224) -/

/-- Elements per chunk, and the positions of chunk j over a shape. -/
def chunkElems (q : Stream) : Nat := 32768 / q.width
def chunkCount (n per : Nat) : Nat := (n + per - 1) / per
def chunkPositions (q : Stream) (rows cols j : Nat) : List (Nat × Nat) :=
  let lo := j * chunkElems q
  (List.range (Nat.min (chunkElems q) (rows * cols - lo))).map (fun k => ((lo + k) / cols, (lo + k) % cols))

/-- Cycles to move n bytes at 256 a cycle. -/
def moveCycles (n : Nat) : Nat := if n = 0 then 1 else (n + 255) / 256

/-- The shape a command works over: that of qd, or of qs for XSCAT. -/
def JEntry.shape (e : JEntry) : Stream := if wordOp e.word = 3 then e.qs else e.qd

/-- The tile of an XFILL or XDRAIN entry. -/
def JEntry.tile (e : JEntry) : BitVec 6 := fld e.word 15 6

/-- Chunks of a command. -/
def Core.chunks (c : Core) (e : JEntry) : Nat :=
  match wordOp e.word with
  | 6 | 7 => (c.tile e.tile).lenm1.toNat + 1
  | 8 => 0
  | _ => chunkCount (e.shape.rows * e.shape.cols) (chunkElems e.shape)

/-- Cycles of chunk `next` of a command. -/
def JEntry.chunkCycles (e : JEntry) : Nat :=
  match wordOp e.word with
  | 6 | 7 => 16
  | 8 => 1
  | _ => moveCycles ((chunkPositions e.shape e.shape.rows e.shape.cols e.next).length * e.shape.width / 8)

/-- The element an index of XGATH or XSCAT names in a stream (R224). -/
def Core.indexed (c : Core) (qi : Stream) (i : Idx) (q : Stream) (p : Nat × Nat) : Option (Nat × Nat) :=
  let x := c.elemBits c.store.spad qi i p.1 p.2
  if x / q.cols < q.rows && q.valid (x / q.cols) (x % q.cols) then some (x / q.cols, x % q.cols) else none

/-- The scope of a command's release: 0 without one. -/
def JEntry.relScope (e : JEntry) : BitVec 2 := if fld e.word 11 1 = 1 then fld e.word 9 2 else 0

/-- The destination elements of one chunk: of XRED, those valid in both streams (R224, R225). -/
def Core.chunkDests (c : Core) (e : JEntry) : List (Nat × Nat) :=
  let ps := chunkPositions e.shape e.shape.rows e.shape.cols e.next
  match wordOp e.word with
  | 3 => ps.filterMap (fun p => if e.qs.valid p.1 p.2 then c.indexed e.qi e.idx e.qd p else none)
  | 5 => ps.filter (fun p => e.qs.valid p.1 p.2 && e.qd.valid p.1 p.2)
  | _ => ps.filter (fun p => e.qd.valid p.1 p.2)

/-- The writes of one chunk: destination element, value and poison, with every source element of the chunk read
first (R224). -/
def State.chunkWrites (s : State) (e : JEntry) : List XWrite :=
  let c := s.core
  let ps := chunkPositions e.shape e.shape.rows e.shape.cols e.next
  match wordOp e.word with
  | 2 => ps.map (fun p => (p, match c.indexed e.qi e.idx e.qs p with
      | some x => s.xElem e.qs e.idx x.1 x.2
      | none => (0, none)))
  | 3 => ps.filterMap (fun p =>
      if e.qs.valid p.1 p.2 then
        (c.indexed e.qi e.idx e.qd p).map (fun x => (x, s.xElem e.qs e.idx p.1 p.2))
      else none)
  | 4 => ps.map (fun p => (p, (e.value.map (fun v => v.1.toNat)).getD 0, e.value.bind (fun v => v.2)))
  | _ => ps.map (fun p => (p, s.xElem e.qs e.idx p.1 p.2))

/-- The bytes of element (r, c) as offsets. -/
def Stream.elemBytes (q : Stream) (i : Idx) (p : Nat × Nat) : List Nat :=
  (List.range ((q.width + 7) / 8)).map (q.elemOff i p.1 p.2 + ·)

/-- Destination elements of the chunks before `next`. -/
def Core.earlier (c : Core) (e : JEntry) : List (Nat × Nat) :=
  ((List.range e.next).map (fun j => c.chunkDests { e with next := j })).flatten

/-- Bytes of tile `i`'s block under a tag, within the handle: (handle, first offset) (R207, R226). -/
def Core.blockAt (c : Core) (e : JEntry) : BitVec 4 × Nat :=
  let x := c.tile e.tile
  let old := wordOp e.word = 7 && fld e.word 0 1 = 1
  let h := if old then e.old.extractLsb' 0 4 else x.handle
  let b := if old then (e.old.extractLsb' 4 60).toNat else x.block.toNat
  (h, b * x.len)

/-- Bytes of a chunk of an XDRAIN that lie within the handle (R226). -/
def Core.drainBytes (c : Core) (e : JEntry) : Nat :=
  let (h, lo) := c.blockAt e
  Nat.min 4096 ((c.handle h).len.toNat - (lo + 4096 * e.next))

/-- Bytes that a chunk writes and no earlier position of the command wrote (R240). -/
def freshBytes (q : Stream) (i : Idx) (done : List Nat) : List (Nat × Nat) → Nat
  | [] => 0
  | p :: ps =>
    let bs := q.elemBytes i p
    (bs.filter (fun b => !done.contains b)).length + freshBytes q i (bs ++ done) ps

/-- The bytes that a chunk takes from the pending-byte counter (R240). -/
def Core.pendingBytes (c : Core) (e : JEntry) : Nat :=
  if wordOp e.word = 6 then 4096
  else if wordOp e.word = 7 then c.drainBytes e
  else freshBytes e.qd e.idx ((c.earlier e).map (e.qd.elemBytes e.idx)).flatten (c.chunkDests e)

/-! ### The lines a chunk reads, and those of peers (R311, R325) -/

/-- The handle bytes of elements of a stream: handle, offset and length. -/
def Stream.spans (q : Stream) (i : Idx) (ps : List (Nat × Nat)) : List (BitVec 4 × Nat × Nat) :=
  if q.kind = 2 then
    (ps.filter (fun p => q.valid p.1 p.2)).map (fun p => (q.handle, q.elemOff i p.1 p.2, (q.width + 7) / 8))
  else []

/-- The handle bytes that a chunk reads: its source elements, and of XRED the elements it updates. -/
def Core.chunkReads (c : Core) (e : JEntry) : List (BitVec 4 × Nat × Nat) :=
  let ps := chunkPositions e.shape e.shape.rows e.shape.cols e.next
  match wordOp e.word with
  | 2 => e.qs.spans e.idx (ps.filterMap (c.indexed e.qi e.idx e.qs))
  | 4 => if e.value.isNone then e.qs.spans e.idx [(0, 0)] else []
  | 5 => e.qs.spans e.idx (c.chunkDests e) ++ e.qd.spans e.idx (c.chunkDests e)
  | 6 =>
    let (h, lo) := c.blockAt e
    [(h, lo + 4096 * e.next, Nat.min 4096 ((c.handle h).len.toNat - (lo + 4096 * e.next)))]
  | 7 => []
  | _ => e.qs.spans e.idx ps

/-- The handle bytes that a chunk writes. -/
def Core.chunkSpans (c : Core) (e : JEntry) : List (BitVec 4 × Nat × Nat) :=
  match wordOp e.word with
  | 6 => []
  | 7 =>
    let (h, lo) := c.blockAt e
    [(h, lo + 4096 * e.next, c.drainBytes e)]
  | _ => e.qd.spans e.idx (c.chunkDests e)

/-- The lines of handle bytes, each once, with their pages. -/
def Core.spanLines (c : Core) (xs : List (BitVec 4 × Nat × Nat)) : List (Page × Nat) :=
  (xs.foldl (fun (acc : List (BitVec 4 × Nat) × List (Page × Nat)) x =>
    (linesOf ((c.handle x.1).va.toNat + x.2.1) x.2.2).foldl (fun acc l =>
      if acc.1.contains (x.1, l) then acc
      else match c.pageOf x.1 (64 * l) with
        | some p => ((x.1, l) :: acc.1, acc.2 ++ [(p, lineOf (p.addr (64 * l)))])
        | none => acc) acc) ([], [])).2

/-- The handles a command names. -/
def Core.entryHandles (c : Core) (e : JEntry) : List (BitVec 4) :=
  match wordOp e.word with
  | 6 | 7 => [(c.blockAt e).1]
  | 8 => []
  | _ => (if e.qs.kind = 2 then [e.qs.handle] else []) ++ (if e.qd.kind = 2 then [e.qd.handle] else [])

/-- Whether positions of a shape of `rows` and `cols` touch elements of a GLOBAL stream. -/
def Stream.touched (q : Stream) (rows cols : Nat) : Bool :=
  q.kind = 2 && decide (0 < Nat.min rows q.vrows) && decide (0 < Nat.min cols q.vcols)

/-- Whether the indices of a command name an element of a GLOBAL stream at the positions that take part. -/
def Core.named (c : Core) (e : JEntry) (q : Stream) (part : Nat → Nat → Bool) : Bool :=
  q.kind = 2 && (List.range (e.qi.rows * e.qi.cols)).any (fun k =>
    part (k / e.qi.cols) (k % e.qi.cols) && (c.indexed e.qi e.idx q (k / e.qi.cols, k % e.qi.cols)).isSome)

/-- The handles a command uses: of a command of the text those of the streams of which it touches an element (R80, R224). -/
def Core.usedHandles (c : Core) (e : JEntry) : List (BitVec 4) :=
  let qs := match wordOp e.word with
    | 2 => c.named e e.qs (fun _ _ => true)
    | 4 => e.qs.touched 1 1
    | _ => e.qs.touched e.qs.rows e.qs.cols
  let qd := match wordOp e.word with
    | 3 => c.named e e.qd e.qs.valid
    | 5 => e.qd.touched e.qs.vrows e.qs.vcols
    | _ => e.qd.touched e.qd.rows e.qd.cols
  match wordOp e.word with
  | 6 | 7 | 8 => c.entryHandles e
  | _ => (if qs then [e.qs.handle] else []) ++ (if qd then [e.qd.handle] else [])

/-- Whether a command names a handle over a page of a kind. -/
def Core.usesKind (c : Core) (e : JEntry) (k : PageKind) : Bool :=
  (c.entryHandles e).any (fun h => (c.handle h).pages.any (fun p => p.kind == k))

/-- The lines of peers that a chunk must have before it is performed: those of its source, and those of which it writes
single nibbles. -/
def Core.peerLines (c : Core) (e : JEntry) : List (Page × Nat) :=
  if c.usesKind e .peer then
    let merge := if wordOp e.word ≤ 4 ∧ e.qd.width = 4 then c.chunkSpans e else []
    let reads := if wordOp e.word = 5 then e.qs.spans e.idx (c.chunkDests e) else c.chunkReads e
    (c.spanLines (reads ++ merge)).filter (fun x => x.1.kind == .peer)
  else []

/-- Those that it has not asked for. -/
def Core.missing (c : Core) (e : JEntry) : List (Page × Nat) :=
  (c.peerLines e).filter (fun x => !c.xfer.lines.any (fun y => y.line = x.2))

/-- A READ of a line of a peer (R311); without a route its data is poison (R313). -/
def State.askLine (s : State) (x : Page × Nat) : State :=
  let a := 64 * x.2
  let add := fun (l : PeerLine) (c : Core) => { c with xfer := { c.xfer with lines := c.xfer.lines ++ [l] } }
  match s.dev.linkTo (peerOf a) with
  | some _ =>
    (s.askPeer x.1 a .xread (.read s.dev.devId 0 (peerAddr a) 64)).onCore (add ⟨s.dev.peerNext, x.2, none⟩)
  | none => s.onCore (add ⟨s.dev.peerNext, x.2, some (List.replicate 64 0, true)⟩)

/-- The fills of the lines of this device that a chunk reads are counted, and other cores' releases on them flushed
(R252, R325, R340). -/
def State.noteReads (s : State) (e : JEntry) : State :=
  { s with dev := ((s.core.spanLines (s.core.chunkReads e)).filter (fun x => x.1.kind != .peer)).foldl (fun d x =>
      (d.noteErrors (d.fillNote x.1.kind x.1.key x.1.dieLocal x.2).toList).request (some s.core.id) (64 * x.2) 64) s.dev }

/-- One element of XRED (R225): the new value and flags of old and x, in the format of the streams. -/
def redElem (f o old x : Nat) : Nat × Flags :=
  let w := fmtWidth f
  if fmtIsInt f then
    match o with
    | 0 => ((old + x) % 2 ^ w, 0)
    | 1 => pickInt false false w old x 0
    | 2 => pickInt false true w old x 0
    | 3 => pickInt true false w old x 0
    | 4 => pickInt true true w old x 0
    | 5 => (Nat.land old x, 0)
    | 6 => (Nat.lor old x, 0)
    | _ => (Nat.xor old x, 0)
  else
    let F := floatFmt f
    match o with
    | 0 =>
      let (v, bad) := FVal.add .rne (F.value old) (F.value x)
      let (code, fl) := F.round .rne v
      (code, fl ||| Flags.when bad .invalid)
    | 1 => ((F.round .rne (FVal.min (F.value old) (F.value x))).1, 0)
    | _ => ((F.round .rne (FVal.max (F.value old) (F.value x))).1, 0)

/-- A fault of X that is not tied to the word it stands at (R191, R192). -/
def Core.failX (c : Core) (cause : BitVec 8) (tval : Word) : Core :=
  { c with fails := c.fails ++ [⟨.x, cause, tval, c.engX.pc⟩] }

/-- One chunk of an XFILL (R226): bytes beyond the handle read as zero; poison faults. -/
def State.fillChunk (s : State) (e : JEntry) : State :=
  let (h, lo) := s.core.blockAt e
  let len := (s.core.handle h).len.toNat
  let o := lo + 4096 * e.next
  let n := Nat.min 4096 (len - o)
  let reads := (List.range ((n + 63) / 64)).map (fun k => s.xBytes h (o + 64 * k) (Nat.min 64 (n - 64 * k)))
  match reads.findSome? (·.2) with
  | some a => s.onCore (·.failX 0x83 a)
  | none =>
    let bs := (reads.map (·.1)).flatten
    s.onCore (fun c => c.writeSpad ((c.tile e.tile).base + 4096 * e.next) (bs ++ List.replicate (4096 - n) 0))

/-- One chunk of an XDRAIN, line by line: bytes beyond the handle are not written. A queued drain writes whatever right its
handle was translated for: the model's choice (R228; log 98). -/
def State.drainChunk (s : State) (e : JEntry) : State :=
  let (h, lo) := s.core.blockAt e
  let o := lo + 4096 * e.next
  let bs := s.core.store.spad.bytes ((s.core.tile e.tile).base + 4096 * e.next) (s.core.drainBytes e)
  let va := (s.core.handle h).va.toNat + o
  (linesOf va bs.length).foldl (fun s l =>
    let at' := Nat.max va (64 * l)
    let run := (bs.drop (at' - va)).take (64 * l + 64 - at')
    if s.boundTo h (o + (at' - va)) then s.writeHandle h (o + (at' - va)) 0 run
    else s.writeLine h (64 * l) e.relScope ((List.range run.length).map (fun k => ⟨at' + k, (run[k]?).getD 0, 0xFF, false⟩))) s

/-- Replaces the head of the journal. -/
def Core.setHead (c : Core) (e : JEntry) : Core :=
  match c.xfer.journal with
  | [] => c
  | _ :: es => { c with xfer := { c.xfer with journal := e :: es } }

/-- The operation of an OP packet that performs an XRED element update (R312). -/
def redOp (fmt o : Nat) : AmoOp :=
  match o with
  | 0 => if fmtIsInt fmt then .add else .fadd
  | 1 => if fmtIsInt fmt then .min else .fmin
  | 2 => if fmtIsInt fmt then .max else .fmax
  | 3 => .minu
  | 4 => .maxu
  | 5 => .and
  | 6 => .or
  | _ => .xor

/-- An element update of XRED at a peer, as an OP packet; without a route it is lost and its old value is poison (R312,
R313). -/
def State.redAtPeer (s : State) (e : JEntry) (p : Page) (va x : Nat) : State :=
  let a := p.addr va
  let o := (fld e.word 0 5).toNat
  match s.dev.linkTo (peerOf a) with
  | some _ =>
    s.askPeer p a (.xred e.qd.fmt o x)
      (.op s.dev.devId 0 (peerAddr a) (redOp e.qd.fmt o) (e.qd.width = 64) (BitVec.ofNat 64 x) 0 false false)
  | none => s.onCore (·.failX 0x83 (p.lineVa (lineOf a)))

/-- One element update of XRED. -/
def State.redOne (s : State) (e : JEntry) (w : XWrite) : State × Flags :=
  let off := e.qd.elemOff e.idx w.1.1 w.1.2
  let here := fun (_ : Unit) =>
    let (old, bad) := s.xElem e.qd e.idx w.1.1 w.1.2
    let (v, f) := redElem e.qd.fmt (fld e.word 0 5).toNat old w.2.1
    (s.xPut e.qd e.idx e.relScope [(w.1, v, w.2.2.or bad)], f)
  match s.core.handlePage e.qd.handle off with
  | some p => if p.kind = .peer then (s.redAtPeer e p ((s.core.handle e.qd.handle).va.toNat + off) w.2.1, 0) else here ()
  | none => here ()

/-- One chunk of XRED: only positions valid in both streams, each an indivisible update (R225). -/
def State.redChunk (s : State) (e : JEntry) : State × Flags :=
  ((s.chunkWrites e).filter (fun w => e.qs.valid w.1.1 w.1.2 && e.qd.valid w.1.1 w.1.2)).foldl (fun acc w =>
    let (s, f) := acc.1.redOne e w
    (s, acc.2 ||| f)) (s, (0 : Flags))

/-- One chunk of the other copying commands: poison read into the scratchpad faults before any write. -/
def State.copyChunk (s : State) (e : JEntry) : State :=
  let ws := s.chunkWrites e
  match (if e.qd.kind = 2 then none else ws.findSome? (fun w => if e.qd.valid w.1.1 w.1.2 then w.2.2 else none)) with
  | some a => s.onCore (·.failX 0x83 a)
  | none => s.xPut e.qd e.idx e.relScope ws

/-- A handle that the head entry uses and that is not VALID stops it at a chunk boundary (R191, R228). -/
def Core.entryFault (c : Core) (e : JEntry) : Option (BitVec 8 × Word) :=
  (c.usedHandles e).findSome? (fun h =>
    match (c.handle h).state with
    | .valid => none
    | .invalid => some (0x82, h.setWidth 64)
    | .revoked => some (0x0A, h.setWidth 64))

/-- A bound plane region that the coming chunk must not write: not this core's, or by XRED or elements below 32 bits of a
plane that has been bound since the command issued (R234; log 97). -/
def State.planeFault (s : State) (e : JEntry) : Option (BitVec 8 × Word) :=
  if s.core.usesKind e .plane then
    let narrow := wordOp e.word ≠ 7 && e.qd.width < 32
    (s.core.chunkSpans e).findSome? (fun x =>
      let ps := s.boundOver x.1 x.2.1 x.2.2
      if ps ≠ [] ∧ (wordOp e.word = 5 ∨ narrow ∨ ps.any (fun p => !s.dev.isMember p s.core.id)) then
        some (0x81, x.1.setWidth 64)
      else none)
  else none

/-- What stops the head entry at a chunk boundary. -/
def State.entryStop (s : State) (e : JEntry) : Option (BitVec 8 × Word) := (s.core.entryFault e).or (s.planeFault e)

/-- Whether writes or updates of X are on their way to peers. -/
def State.xOpen (s : State) : Bool :=
  s.dev.peerReqs.any (fun r => r.live && r.core = s.core.id && (match r.kind with
    | .xwrite | .xred _ _ _ => true
    | _ => false))

/-- The value of an XSET, read at the first chunk that is executed (R224; log 34). -/
def State.readSet (s : State) (e : JEntry) : JEntry :=
  if wordOp e.word = 4 ∧ e.value = none then
    let (v, bad) := s.xElem e.qs e.idx 0 0
    { e with value := some (BitVec.ofNat 64 v, bad) }
  else e

/-- A chunk is done: its bytes land, and the next one follows. -/
def State.finishChunk (s : State) (e : JEntry) (fl : Flags) (n : Nat) : State :=
  let s := if fld e.word 8 1 = 1 then { s with dev := s.dev.bytesLand (fld e.word 5 3) s.core.id n } else s
  let e' := { e with next := e.next + 1, flags := e.flags ||| fl, begun := true }
  s.onCore (fun c =>
    let c := c.setHead { e' with wait := if e'.next < c.chunks e' then e'.chunkCycles else 0 }
    { c with xfer := { c.xfer with lines := [], sent := none } })

/-- The reads and writes of a chunk. -/
def State.performChunk (s : State) (e : JEntry) : State × Flags :=
  match wordOp e.word with
  | 6 => (s.fillChunk e, (0 : Flags))
  | 7 => (s.drainChunk e, (0 : Flags))
  | 5 => s.redChunk e
  | _ => (s.copyChunk e, (0 : Flags))

/-- A chunk whose data is here is performed; it is done at once, or when the peers it writes to have answered (R225,
R311). -/
def State.moveChunk (s : State) (e : JEntry) : State :=
  let s := s.noteReads e
  let e := s.readSet e
  let n := s.core.pendingBytes e
  let (s', fl) := s.performChunk e
  if s'.core.fails.length ≠ s.core.fails.length then s'
  else if s'.xOpen then s'.onCore (fun c => { c.setHead e with xfer := { (c.setHead e).xfer with sent := some (fl, n) } })
  else s'.finishChunk e fl n

/-- The head of the journal moves one chunk (R187, R224): it asks peers for the lines it reads, is performed when they are
there, and is done when the peers it writes to have answered. -/
def State.stepChunk (s : State) : State :=
  match s.core.xfer.journal with
  | [] => s
  | e :: _ =>
    match s.core.xfer.sent with
    | some (fl, n) => if s.xOpen then s else s.finishChunk e fl n
    | none =>
      match s.entryStop e with
      | some (cause, v) => s.onCore (·.failX cause v)
      | none =>
        if s.core.missing e ≠ [] then (s.core.missing e).foldl State.askLine s
        else if s.core.xfer.lines.any (·.data.isNone) then s
        else s.moveChunk e

/-- Whether a deferred release holds a line that the coming chunk reads or writes (R252). -/
def State.chunkHeld (s : State) (e : JEntry) : Bool :=
  s.dev.lazy ≠ [] &&
    (s.core.spanLines (s.core.chunkReads e ++ s.core.chunkSpans e)).any (fun x => s.dev.lineHeld (some s.core.id) x.2)

/-- Whether that does anything now: X waits for the answers of peers and for deferred releases, and a command that acquires,
which it does again once it is replayed, for the writes before it to be performed (R187, R248). -/
def State.chunkDue (s : State) (e : JEntry) : Bool :=
  match s.core.xfer.sent with
  | some _ => !s.xOpen
  | none =>
    (s.entryStop e).isSome ||
      ((e.begun || fld e.word 12 1 = 0 || s.performed (fld e.word 9 2)) && !s.chunkHeld e &&
        (s.core.missing e ≠ [] || !s.core.xfer.lines.any (·.data.isNone)))

/-- Whether the head of the journal may complete: an acquire of XSYNC, and a release, from DEVICE scope on, are performed
once the writes before them are (R223, R245, R252, R334). -/
def State.mayComplete (s : State) (e : JEntry) : Bool :=
  !(fld e.word 11 1 = 1 || (wordOp e.word = 8 && fld e.word 12 1 = 1)) || s.performed (fld e.word 9 2)

def execXChunk (s : State) : Host.Outcome State Fault Refusal := .next s.stepChunk

/-- The tile of a fill or drain that completes (R208). -/
def Core.tileDone (c : Core) (e : JEntry) : Core :=
  let x := c.tile e.tile
  match wordOp e.word with
  | 6 => c.setTile e.tile { x with state := .ready, dirty := false }
  | 7 =>
    if fld e.word 0 1 = 1 then c.setTile e.tile { x with state := .filling }
    else c.setTile e.tile { x with state := .ready, dirty := false }
  | _ => c

/-- One earlier entry fewer for each waiting XSIG or XNOP (R227); in a handler their entries are in the frame. -/
def Core.countXsigs (c : Core) : Core :=
  if c.scalar.handler then c else
  let left := c.xfer.sigs.map (fun x => (x.1 - 1, x.2))
  let c := { c with xfer := { c.xfer with sigs := left.filter (·.1 ≠ 0) } }
  (left.filter (·.1 = 0)).foldl (fun c x => c.signal 0 .x x.2.1 x.2.2) c

/-- The head of the journal completes: its release is performed, its flags are set, it leaves the journal and
its token is pushed; a release that covers a lost write meets POISON (R222, R225, R313, R334). -/
def State.completeX (s : State) : State :=
  match s.core.xfer.journal with
  | [] => s
  | e :: es =>
    match (if fld e.word 11 1 = 1 then s.lostGate (fld e.word 9 2) else .go) with
    | .fail cause v => s.onCore (·.failX cause v)
    | _ =>
      let clean := fld e.word 11 1 = 1 ∧ 2 ≤ (fld e.word 9 2).toNat
      ({ s with dev := if clean then s.dev.cleanOwned s.core.id else s.dev } : State).onCore (fun c =>
        let c := { c with xfer := { c.xfer with journal := match es with
          | [] => []
          | n :: ns => { n with wait := n.chunkCycles } :: ns } }
        let c := (c.tileDone e).setFlags e.flags
        let hw := (wordOp e.word = 6 || wordOp e.word = 7) && fld e.word 0 1 = 1
        (if hw then c else c.signal 0 .x 0 (wordTok e.word)).countXsigs)

def execXCommandComplete (s : State) : Host.Outcome State Fault Refusal := .next s.completeX

/-! ### The copying commands -/

/-- A journal entry of a command of the text, with the streams it names. -/
def Core.entryOf (c : Core) (i : Instr) (a b x : BitVec 4) : JEntry :=
  ⟨(encode i).getD 0, 0, c.idx, c.stream a, c.stream b, c.stream x, 0, 0, none, 0, false⟩

/-- A command enters the journal. -/
def Core.journalAdd (c : Core) (e : JEntry) : Core :=
  { c with xfer := { c.xfer with journal := c.xfer.journal ++ [{ e with wait := e.chunkCycles }] } }

/-- The issue of a copying command. -/
def State.transferOp (s : State) (i : Instr) (t : BitVec 3) (a b x : BitVec 4) : State :=
  s.issue .x t 0 (i.gate s) (fun s => s.onCore (fun c => c.journalAdd (c.entryOf i a b x)))

/-- XMOV. -/
def execXmov (t : BitVec 3) (a d : BitVec 4) (q r : BitVec 1) (c : BitVec 2) (b : BitVec 1) (g : BitVec 3) (s : State) :
    Host.Outcome State Fault Refusal :=
  .next (s.transferOp (.xmov t a d q r c b g) t a d 0)

/-- XGATH. -/
def execXgath (t : BitVec 3) (a d : BitVec 4) (q r : BitVec 1) (c : BitVec 2) (b : BitVec 1) (g : BitVec 3)
    (i : BitVec 4) (s : State) : Host.Outcome State Fault Refusal :=
  .next (s.transferOp (.xgath t a d q r c b g i) t a d i)

/-- XSCAT. -/
def execXscat (t : BitVec 3) (a d : BitVec 4) (q r : BitVec 1) (c : BitVec 2) (b : BitVec 1) (g : BitVec 3)
    (i : BitVec 4) (s : State) : Host.Outcome State Fault Refusal :=
  .next (s.transferOp (.xscat t a d q r c b g i) t a d i)

/-- XSET. -/
def execXset (t : BitVec 3) (a d : BitVec 4) (q r : BitVec 1) (c : BitVec 2) (b : BitVec 1) (g : BitVec 3) (s : State) :
    Host.Outcome State Fault Refusal :=
  .next (s.transferOp (.xset t a d q r c b g) t a d 0)

/-- XRED. -/
def execXred (t : BitVec 3) (a d : BitVec 4) (q r : BitVec 1) (c : BitVec 2) (b : BitVec 1) (g o : BitVec 3)
    (s : State) : Host.Outcome State Fault Refusal :=
  .next (s.transferOp (.xred t a d q r c b g o) t a d 0)

/-- XFILL: the tile is FILLING until the copy completes (R208). -/
def execXfill (t : BitVec 3) (n : BitVec 6) (q r : BitVec 1) (c : BitVec 2) (b : BitVec 1) (g : BitVec 3) (s : State) :
    Host.Outcome State Fault Refusal :=
  .next (s.issue .x t 0 (Instr.gate (.xfill t n q r c b g) s) (fun s => s.onCore (fun k =>
    (k.setTile n { k.tile n with state := .filling }).journalAdd
      { k.entryOf (.xfill t n q r c b g) 0 0 0 with qs := .zero, qd := .zero, qi := .zero })))

/-- XDRAIN: the tile is DRAINING until the copy completes (R208). -/
def execXdrain (t : BitVec 3) (n : BitVec 6) (q r : BitVec 1) (c : BitVec 2) (b : BitVec 1) (g : BitVec 3) (s : State) :
    Host.Outcome State Fault Refusal :=
  .next (s.issue .x t 0 (Instr.gate (.xdrain t n q r c b g) s) (fun s => s.onCore (fun k =>
    (k.setTile n { k.tile n with state := .draining }).journalAdd
      { k.entryOf (.xdrain t n q r c b g) 0 0 0 with qs := .zero, qd := .zero, qi := .zero })))

/-- XSYNC. -/
def execXsync (t : BitVec 3) (q r : BitVec 1) (c : BitVec 2) (s : State) : Host.Outcome State Fault Refusal :=
  .next (s.issue .x t 0 (Instr.gate (.xsync t q r c) s) (fun s => s.onCore (fun k =>
    k.journalAdd { k.entryOf (.xsync t q r c) 0 0 0 with qs := .zero, qd := .zero, qi := .zero })))

/-! ### Ordering words (R227) -/

/-- XWAIT. -/
def execXwait (t k : BitVec 3) (s : State) : Host.Outcome State Fault Refusal :=
  .next (s.issue .x t k (Instr.gate (.xwait t k) s) (fun s => s.onCore (·.signal 0 .x 0 t)))

/-- Tokens pushed once every earlier journal entry has completed. -/
def Core.afterJournal (c : Core) (m t : BitVec 3) : Core :=
  if c.xfer.journal = [] then c.signal 0 .x m t
  else { c with xfer := { c.xfer with sigs := c.xfer.sigs ++ [(c.xfer.journal.length, m, t)] } }

/-- XSIG. -/
def execXsig (t k : BitVec 3) (s : State) : Host.Outcome State Fault Refusal :=
  .next (s.issue .x t 0 (Instr.gate (.xsig t k) s) (fun s => s.onCore (·.afterJournal k t)))

/-- XNOP. -/
def execXnop (t : BitVec 3) (s : State) : Host.Outcome State Fault Refusal :=
  .next (s.issue .x t 0 (Instr.gate (.xnop t) s) (fun s => s.onCore (·.afterJournal 0 t)))

end Sys2Proof.Machine
end

