-- ==== Sys2Proof/Machine/Load.lean ====
section
/-! DEFINITION. The scalar memory words (spec/11 R205, R212 to R221; spec/13 R252, R255, R257; spec/17 R308 to
R313): loads, stores, atomics, scratchpad words, translation, fences, and the packets to peers. Memory is
accessed at its home in the cycle of issue, and a load's data returns later (logs 2, 8). -/
namespace Sys2Proof.Machine

/-! ### Loads (R219) -/

/-- A value of `size` bytes, sign- or zero-extended. -/
def extend (size : Nat) (sext : Bool) (v : Nat) : Word :=
  if sext then BitVec.ofInt 64 (signed (8 * size) v) else BitVec.ofNat 64 v

/-- What the fills of a read through a handle add to the error counters, when its data returns (R325). -/
def State.fillsAt (s : State) (h : BitVec 4) (o n : Nat) : List ErrorNote :=
  (s.core.spanLines [(h, o, n)]).filterMap (fun x => s.dev.fillNote x.1.kind x.1.key x.1.dieLocal x.2)

/-- The current core asks for the lines of a read through a handle: a release of another core that is deferred on one of
them is flushed (R252). -/
def State.requestAt (s : State) (h : BitVec 4) (o n : Nat) : State :=
  { s with dev := (s.core.spanLines [(h, o, n)]).foldl (fun d x => d.request (some s.core.id) (64 * x.2) 64) s.dev }

/-- A word of S that a peer answers: it waits for the answer to its request, or without a route gets poison (R311,
R313). -/
def State.peerWord (s : State) (t : BitVec 3) (d : BitVec 6) (h : BitVec 4) (p : Page) (a size : Nat) (sext acq : Bool)
    (packet : Packet) : State :=
  let now := s.dev.cycle
  match s.dev.linkTo (peerOf a) with
  | some _ =>
    (s.askPeer p a .load packet).onCore (·.addFlight now 1 (.peer (some d) s.dev.peerNext size sext acq) t (some h))
  | none => s.onCore (·.addFlight now Config.loadLatency (.load d 0 (some (p.lineVa (lineOf a))) []) t (some h))

/-- A load at offset o of handle h: the data is read at the home, or asked of a peer. -/
def State.startLoad (s : State) (t : BitVec 3) (d : BitVec 6) (h : BitVec 4) (o size : Nat) (sext acq : Bool) : State :=
  let plain := fun (_ : Unit) =>
    let (bs, bad) := s.readHandle h o size
    let work := SWork.load d (extend size sext (leNat bs)) bad (s.fillsAt h o size)
    (s.requestAt h o size).onCore (·.addFlight s.dev.cycle Config.loadLatency work t (some h))
  match s.core.handleAddr h o with
  | some (p, a) =>
    if p.kind = .peer then s.peerWord t d h p a size sext acq (.read s.dev.devId 0 (peerAddr a) size) else plain ()
  | none => plain ()

def State.loadOp (s : State) (i : Instr) (t : BitVec 3) (d a : BitVec 6) (h : BitVec 4) (k : BitVec 5) (size : Nat)
    (sext : Bool) : State :=
  s.issue .s t 0 (i.gate s) (fun u => u.startLoad t d h (s.offset a k size).toNat size sext false)

/-! ### Stores (R219, R242) -/

/-- A store to a peer, as a packet; without a route it is lost (R311, R313). -/
def State.storeAtPeer (s : State) (p : Page) (a : Nat) (scope : BitVec 2) (bs : List Byte) : State :=
  match s.dev.linkTo (peerOf a) with
  | some _ => s.askPeer p a .write (.write s.dev.devId 0 (peerAddr a) (bs.map (fun _ => true)) bs scope)
  | none => { s with dev := s.dev.loseWrite s.writer p (p.va + (a - p.frame)) }

/-- A store at offset o of handle h: to memory, to the next plane, or to a peer. -/
def State.storeBytes (s : State) (h : BitVec 4) (o : Nat) (prio : BitVec 8) (scope : BitVec 2) (bs : List Byte) : State :=
  s.writeWith (fun s o bs => match s.core.handleAddr h o with
    | some (p, a) => if p.kind = .peer then s.storeAtPeer p a scope bs else s.writeRun h o prio bs
    | none => s) h o bs

def State.storeOp (s : State) (i : Instr) (t : BitVec 3) (d a : BitVec 6) (h : BitVec 4) (k : BitVec 5) (size : Nat) :
    State :=
  s.issue .s t 0 (i.gate s) (fun u =>
    (u.storeBytes h (s.offset a k size).toNat 0 0 (leBytes size (s.core.reg d).toNat)).onCore (·.signal 1 .s 0 t))

/-- STWP: a word store with a priority (R242). -/
def execStwp (t : BitVec 3) (d : BitVec 5) (a : BitVec 6) (h : BitVec 4) (i : BitVec 5) (s : State) :
    Host.Outcome State Fault Refusal :=
  .next (s.issue .s t 0 (Instr.gate (.stwp t d a h i) s) (fun u =>
    (u.storeBytes h (s.offset a i 4).toNat ((s.core.reg (pairOdd d)).setWidth 8) 0
      (leBytes 4 (s.core.reg (pairEven d)).toNat)).onCore (·.signal 1 .s 0 t)))

/-! ### LDA and STL (R220, R252) -/

/-- LDA: the word zero-extends; it is an acquire. -/
def execLda (t : BitVec 3) (d a : BitVec 6) (h : BitVec 4) (w : BitVec 1) (c : BitVec 2) (q : BitVec 1) (s : State) :
    Host.Outcome State Fault Refusal :=
  .next (s.issue .s t 0 (Instr.gate (.lda t d a h w c q) s)
    (fun u => u.startLoad t d h (s.core.reg a).toNat (accessSize w) false true))

/-- The release of an STL of the current core to a line is deferred (R252): it covers the writes to peers that are out, and the
lines that the core owns. -/
def State.deferFlush (s : State) (line : Nat) : State :=
  let owned := (s.dev.owned.filter (fun x => x.2 = s.core.id)).map (·.1)
  { s with dev := { s.dev with
      lazy := s.dev.lazy ++ [⟨line, s.core.id, s.dev.cycle + Config.fenceLatency + 65536, s.dev.peerNext, owned⟩] } }

/-- STL: its write is performed at its home, and at DIE scope and wider it retires after that; the flush of what it covers is
deferred, or has been performed when it issues (R252, R316; log 83). -/
def execStl (t : BitVec 3) (d a : BitVec 6) (h : BitVec 4) (w : BitVec 1) (c : BitVec 2) (q : BitVec 1) (s : State) :
    Host.Outcome State Fault Refusal :=
  .next (s.issue .s t 0 (Instr.gate (.stl t d a h w c q) s) (fun u =>
    let o := (s.core.reg a).toNat
    let put := fun (u : State) => u.storeBytes h o 0 c (leBytes (accessSize w) (s.core.reg d).toNat)
    match (if c = 0 then none else s.core.lineAt h o) with
    | some line =>
      let u := if s.stlDefers h o c then put (u.deferFlush line)
        else put (if 2 ≤ c.toNat then { u with dev := u.dev.cleanOwned s.core.id } else u)
      u.onCore (·.addFlight s.dev.cycle Config.fenceLatency (.stl c) t (some h))
    | none => (put u).onCore (·.signal 1 .s 0 t)))

/-! ### Atomics (R221, R309, R312) -/

/-- The new value of an atomic on n-bit values (R221). -/
def amoNew (o : AmoOp) (n old x y : Nat) : Nat :=
  match o with
  | .add => (old + x) % 2 ^ n
  | .swap => x
  | .cas => if old = x then y else old
  | .min => if signed n x < signed n old then x else old
  | .max => if signed n old < signed n x then x else old
  | .minu => Nat.min old x
  | .maxu => Nat.max old x
  | .and => Nat.land old x
  | .or => Nat.lor old x
  | .xor => Nat.xor old x
  | .fadd => (redElem (if n = 64 then 3 else 0) 0 old x).1
  | .fmin => (redElem (if n = 64 then 3 else 0) 1 old x).1
  | .fmax => (redElem (if n = 64 then 3 else 0) 2 old x).1

/-- An atomic's operands: the operation, whether wide, the destination, the value and the swap value. -/
structure Amo where
  op   : AmoOp
  wide : Bool
  d    : BitVec 6
  h    : BitVec 4
  o    : Nat
  x    : Nat
  y    : Nat
  tok  : BitVec 3
  deriving DecidableEq, Repr

def Amo.size (a : Amo) : Nat := if a.wide then 8 else 4

/-- The operands of an AMO word as the core stands. -/
def Core.amoOf (c : Core) (op : AmoOp) (t : BitVec 3) (d a : BitVec 6) (h : BitVec 3) (w : BitVec 1) (y : Word) : Amo :=
  let n := 2 ^ (8 * accessSize w)
  ⟨op, w = 1, d, h.setWidth 4, (c.reg a).toNat, (c.reg d).toNat % n, y.toNat % n, t⟩

/-- The bytes that an atomic writes over `old`: a failed compare writes nothing (R221). -/
def Amo.bytes (a : Amo) (old : Nat) : List Byte :=
  if a.op = .cas ∧ old ≠ a.x then [] else leBytes a.size (amoNew a.op (8 * a.size) old a.x a.y)

/-- The old value of an atomic returns. -/
def Core.amoReturns (c : Core) (now : Nat) (a : Amo) (old : Nat) (bad : Option Word) (notes : List ErrorNote) : Core :=
  c.addFlight now Config.loadLatency (.load a.d (BitVec.ofNat 64 old) bad notes) a.tok (some a.h)

/-- The read, modification and write at the location's home. -/
def State.amoAtHome (s : State) (a : Amo) : State :=
  let (bs, bad) := s.readHandle a.h a.o a.size
  let notes := s.fillsAt a.h a.o a.size
  let s' := (s.requestAt a.h a.o a.size).writeHandle a.h a.o 0 (a.bytes (leNat bs))
  s'.onCore (·.amoReturns s.dev.cycle a (leNat bs) bad notes)

/-- The atomic as an OP packet to a peer (R312). -/
def State.amoAtPeer (s : State) (a : Amo) (p : Page) (addr : Nat) (ord : Bool) : State :=
  s.peerWord a.tok a.d a.h p addr a.size false ord
    (.op s.dev.devId 0 (peerAddr addr) a.op a.wide (BitVec.ofNat 64 a.x) (BitVec.ofNat 64 a.y) ord ord)

/-- The route of an AMO on a HOST page (R309). -/
inductive Route where
  | cache | atomicOp | none
  deriving DecidableEq, Repr

def Device.route (d : Device) (addr : Nat) (op : AmoOp) (scope : BitVec 2) : Route :=
  let exists' := op = .add || op = .swap || op = .cas
  let (cxlc, path) : Bool × Path := match d.windowOf addr with
    | some w => (w.cxlc, w.path)
    | none => (false, Path.untried)
  if cxlc && (scope.toNat < 3 || path = .cache || !exists') then .cache
  else if path = .none || !exists' then .none
  else .atomicOp

/-- Remembers the route of the window of an address. -/
def Device.setPath (d : Device) (addr : Nat) (p : Path) : Device :=
  match d.windowOf addr with
  | some w => { d with windows := d.windows.map (fun x => if x.num = w.num then { x with path := p } else x) }
  | none => d

/-- The operands of an AMO word, with its ord bit and scope. -/
def Core.amoWord (c : Core) (i : Instr) : Option (Amo × BitVec 1 × BitVec 2) :=
  match i with
  | .amoadd t d a h w o k => some (c.amoOf .add t d a h w 0, o, k)
  | .amoswp t d a h w o k => some (c.amoOf .swap t d a h w 0, o, k)
  | .amocas t d a h w o k => some (c.amoOf .cas t (pairEven d) a h w (c.reg (pairOdd d)), o, k)
  | .amomin t d a h w o k => some (c.amoOf .min t d a h w 0, o, k)
  | .amomax t d a h w o k => some (c.amoOf .max t d a h w 0, o, k)
  | .amominu t d a h w o k => some (c.amoOf .minu t d a h w 0, o, k)
  | .amomaxu t d a h w o k => some (c.amoOf .maxu t d a h w 0, o, k)
  | .amoand t d a h w o k => some (c.amoOf .and t d a h w 0, o, k)
  | .amoor t d a h w o k => some (c.amoOf .or t d a h w 0, o, k)
  | .amoxor t d a h w o k => some (c.amoOf .xor t d a h w 0, o, k)
  | _ => none

/-- The route of an AMO word on a HOST page (R309). -/
def State.amoRoute (s : State) (i : Instr) : Option Route :=
  match s.core.amoWord i with
  | none => none
  | some (a, _, k) =>
    match s.core.handleAddr a.h a.o with
    | some (p, addr) => if p.kind = .host then some (s.dev.route addr a.op k) else none
    | none => none

/-- Whether an AtomicOp is that of an AMO with these operands. -/
def AtomicReq.fits (r : AtomicReq) (c : Core) (a : Amo) : Bool :=
  r.op = a.op && r.size = a.size && r.x = a.x && r.y = a.y && r.va = ((c.handle a.h).va + BitVec.ofNat 64 a.o).toNat

/-- The AtomicOp that the AMO at S has sent (R309, R315): S stands at the same word, of a nest at the same nest cycle, with the
same operands. Where a handler has changed one of these it is another AMO: the model's choice (log 113). -/
def State.sentOp (s : State) (i : Instr) : Option AtomicReq :=
  match s.core.scalar.sent, s.core.amoWord i with
  | some x, some (a, _, _) =>
    if x.instr = i ∧ x.pc = s.core.engS.pc ∧ x.cycle = s.core.nest.map (·.cycle) then
      s.dev.atomics.find? (fun r => r.id = x.id && r.fits s.core a)
    else none
  | _, _ => none

/-- The gate of a word that has passed its checks before: it only waits. -/
def Gate.passed (g : Gate) : Gate :=
  match g with
  | .fail _ _ => .go
  | g => g

/-- The gate of an AMO, whose own gate is `g`, on its route (R309): while its AtomicOp is out it waits; one that the host has
performed issues whatever has become of its handle, since its access has passed its checks (R215); after a refusal it goes
through the cache, or raises HOSTATOMIC. -/
def State.routeGate (s : State) (i : Instr) (g : Gate) : Gate :=
  match s.sentOp i with
  | some r =>
    match r.answer with
    | none => g.passed.then (.wait none)
    | some (.atomicOp, _, _) => g.passed
    | some (.cache, _, _) => g
    | some (_, _, _) => g.passed.then (.fail 0x10 (BitVec.ofNat 64 r.va))
  | none =>
    g.then (match s.amoRoute i, s.core.amoWord i with
      | some .none, some (a, _, _) => .fail 0x10 ((s.core.handle a.h).va + BitVec.ofNat 64 a.o)
      | _, _ => .go)

def Core.setSent (c : Core) (x : Option Sent) : Core := { c with scalar := { c.scalar with sent := x } }

/-- The AMO at S sends its AtomicOp, with the operands that `v` has (R309). -/
def State.sendAtomic (s v : State) (i : Instr) : State :=
  match v.core.amoWord i with
  | none => s
  | some (a, _, _) =>
    match v.core.handlePage a.h a.o with
    | none => s
    | some p =>
      let d := s.dev
      let va := ((v.core.handle a.h).va + BitVec.ofNat 64 a.o).toNat
      { s.onCore (fun c => c.setSent (some ⟨d.atomicNext, i, c.engS.pc, c.nest.map (·.cycle)⟩)) with
        dev := { d with
          atomics := d.atomics ++ [⟨d.atomicNext, s.core.id, p, va, a.op, a.size, a.x, a.y, none⟩]
          atomicNext := d.atomicNext + 1 } }

/-- The AMO issues, and its AtomicOp is over. -/
def State.claimSent (s : State) (r : AtomicReq) : State :=
  { s.onCore (·.setSent none) with dev := { s.dev with atomics := s.dev.atomics.filter (fun x => x.id ≠ r.id) } }

/-- An AMO: at its home, at a peer, or on host memory by R309, where an AtomicOp that is sent holds it unissued. -/
def State.amoOp (s : State) (i : Instr) (a : Amo) (ord : BitVec 1) (scope : BitVec 2) : State :=
  let g := s.routeGate i (i.gate s)
  match s.sentOp i with
  | some r =>
    match r.answer with
    | some (.atomicOp, old, bad) =>
      s.issue .s a.tok 0 g (fun u => (u.claimSent r).onCore (·.amoReturns s.dev.cycle a old bad []))
    | _ => s.issue .s a.tok 0 g (fun u => (u.claimSent r).amoAtHome a)
  | none =>
    match s.core.handlePage a.h a.o with
    | none => s.issue .s a.tok 0 g (·.amoAtHome a)
    | some p =>
      let addr := p.addr ((s.core.handle a.h).va + BitVec.ofNat 64 a.o).toNat
      if p.kind = .peer then s.issue .s a.tok 0 g (·.amoAtPeer a p addr (ord = 1))
      else if p.kind = .host ∧ g = .go ∧ s.dev.route addr a.op scope = .atomicOp then
        (s.sendAtomic s i).onCore (·.stallTurn .s none)
      else s.issue .s a.tok 0 g (·.amoAtHome a)

/-- LDB. -/
def execLdb (t : BitVec 3) (d a : BitVec 6) (h : BitVec 4) (i : BitVec 5) (s : State) : Host.Outcome State Fault Refusal :=
  .next (s.loadOp (.ldb t d a h i) t d a h i 1 true)

/-- LDBU. -/
def execLdbu (t : BitVec 3) (d a : BitVec 6) (h : BitVec 4) (i : BitVec 5) (s : State) : Host.Outcome State Fault Refusal :=
  .next (s.loadOp (.ldbu t d a h i) t d a h i 1 false)

/-- LDH. -/
def execLdh (t : BitVec 3) (d a : BitVec 6) (h : BitVec 4) (i : BitVec 5) (s : State) : Host.Outcome State Fault Refusal :=
  .next (s.loadOp (.ldh t d a h i) t d a h i 2 true)

/-- LDHU. -/
def execLdhu (t : BitVec 3) (d a : BitVec 6) (h : BitVec 4) (i : BitVec 5) (s : State) : Host.Outcome State Fault Refusal :=
  .next (s.loadOp (.ldhu t d a h i) t d a h i 2 false)

/-- LDW. -/
def execLdw (t : BitVec 3) (d a : BitVec 6) (h : BitVec 4) (i : BitVec 5) (s : State) : Host.Outcome State Fault Refusal :=
  .next (s.loadOp (.ldw t d a h i) t d a h i 4 true)

/-- LDWU. -/
def execLdwu (t : BitVec 3) (d a : BitVec 6) (h : BitVec 4) (i : BitVec 5) (s : State) : Host.Outcome State Fault Refusal :=
  .next (s.loadOp (.ldwu t d a h i) t d a h i 4 false)

/-- LDD. -/
def execLdd (t : BitVec 3) (d a : BitVec 6) (h : BitVec 4) (i : BitVec 5) (s : State) : Host.Outcome State Fault Refusal :=
  .next (s.loadOp (.ldd t d a h i) t d a h i 8 false)

/-- STB. -/
def execStb (t : BitVec 3) (d a : BitVec 6) (h : BitVec 4) (i : BitVec 5) (s : State) : Host.Outcome State Fault Refusal :=
  .next (s.storeOp (.stb t d a h i) t d a h i 1)

/-- STH. -/
def execSth (t : BitVec 3) (d a : BitVec 6) (h : BitVec 4) (i : BitVec 5) (s : State) : Host.Outcome State Fault Refusal :=
  .next (s.storeOp (.sth t d a h i) t d a h i 2)

/-- STW. -/
def execStw (t : BitVec 3) (d a : BitVec 6) (h : BitVec 4) (i : BitVec 5) (s : State) : Host.Outcome State Fault Refusal :=
  .next (s.storeOp (.stw t d a h i) t d a h i 4)

/-- STD. -/
def execStd (t : BitVec 3) (d a : BitVec 6) (h : BitVec 4) (i : BitVec 5) (s : State) : Host.Outcome State Fault Refusal :=
  .next (s.storeOp (.std t d a h i) t d a h i 8)

/-- AMOADD. -/
def execAmoadd (t : BitVec 3) (d a : BitVec 6) (h : BitVec 3) (w o : BitVec 1) (c : BitVec 2) (s : State) :
    Host.Outcome State Fault Refusal :=
  .next (s.amoOp (.amoadd t d a h w o c) (s.core.amoOf .add t d a h w 0) o c)

/-- AMOSWP. -/
def execAmoswp (t : BitVec 3) (d a : BitVec 6) (h : BitVec 3) (w o : BitVec 1) (c : BitVec 2) (s : State) :
    Host.Outcome State Fault Refusal :=
  .next (s.amoOp (.amoswp t d a h w o c) (s.core.amoOf .swap t d a h w 0) o c)

/-- AMOMIN. -/
def execAmomin (t : BitVec 3) (d a : BitVec 6) (h : BitVec 3) (w o : BitVec 1) (c : BitVec 2) (s : State) :
    Host.Outcome State Fault Refusal :=
  .next (s.amoOp (.amomin t d a h w o c) (s.core.amoOf .min t d a h w 0) o c)

/-- AMOMAX. -/
def execAmomax (t : BitVec 3) (d a : BitVec 6) (h : BitVec 3) (w o : BitVec 1) (c : BitVec 2) (s : State) :
    Host.Outcome State Fault Refusal :=
  .next (s.amoOp (.amomax t d a h w o c) (s.core.amoOf .max t d a h w 0) o c)

/-- AMOMINU. -/
def execAmominu (t : BitVec 3) (d a : BitVec 6) (h : BitVec 3) (w o : BitVec 1) (c : BitVec 2) (s : State) :
    Host.Outcome State Fault Refusal :=
  .next (s.amoOp (.amominu t d a h w o c) (s.core.amoOf .minu t d a h w 0) o c)

/-- AMOMAXU. -/
def execAmomaxu (t : BitVec 3) (d a : BitVec 6) (h : BitVec 3) (w o : BitVec 1) (c : BitVec 2) (s : State) :
    Host.Outcome State Fault Refusal :=
  .next (s.amoOp (.amomaxu t d a h w o c) (s.core.amoOf .maxu t d a h w 0) o c)

/-- AMOAND. -/
def execAmoand (t : BitVec 3) (d a : BitVec 6) (h : BitVec 3) (w o : BitVec 1) (c : BitVec 2) (s : State) :
    Host.Outcome State Fault Refusal :=
  .next (s.amoOp (.amoand t d a h w o c) (s.core.amoOf .and t d a h w 0) o c)

/-- AMOOR. -/
def execAmoor (t : BitVec 3) (d a : BitVec 6) (h : BitVec 3) (w o : BitVec 1) (c : BitVec 2) (s : State) :
    Host.Outcome State Fault Refusal :=
  .next (s.amoOp (.amoor t d a h w o c) (s.core.amoOf .or t d a h w 0) o c)

/-- AMOXOR. -/
def execAmoxor (t : BitVec 3) (d a : BitVec 6) (h : BitVec 3) (w o : BitVec 1) (c : BitVec 2) (s : State) :
    Host.Outcome State Fault Refusal :=
  .next (s.amoOp (.amoxor t d a h w o c) (s.core.amoOf .xor t d a h w 0) o c)

/-- AMOCAS compares with s[sd] and swaps in s[sd+1]. -/
def execAmocas (t : BitVec 3) (d : BitVec 5) (a : BitVec 6) (h : BitVec 3) (w o : BitVec 1) (c : BitVec 2) (s : State) :
    Host.Outcome State Fault Refusal :=
  .next (s.amoOp (.amocas t d a h w o c) (s.core.amoOf .cas t (pairEven d) a h w (s.core.reg (pairOdd d))) o c)

/-- Makes core c the current core for `f` and puts the turn back: cores that are not current keep their
place. -/
def State.atCore (s : State) (c : Nat) (f : State → State) : State :=
  if s.core.id = c then f s
  else
    match s.others.find? (fun k => k.id = c) with
    | none => s
    | some k =>
      let back := s.core
      let s' := f { s with core := k, others := s.others.map (fun x => if x.id = c then back else x) }
      { s' with core := (s'.others.find? (fun x => x.id = back.id)).getD back,
                others := s'.others.map (fun x => if x.id = back.id then s'.core else x) }

/-- What the completion of an AtomicOp at a machine address makes of its window's PATH (R309): after a refusal the cache,
where CXL.cache reaches it, else none. -/
def Device.pathAfter (d : Device) (addr : Nat) (answer : AtomicAnswer) : Path :=
  match answer with
  | .success => .atomicOp
  | .unsupported | .abort => if ((d.windowOf addr).map (·.cxlc)).getD false then .cache else .none

/-- What an AtomicOp does. -/
def AtomicReq.amo (r : AtomicReq) : Amo := ⟨r.op, r.size = 8, 0, 0, 0, r.x, r.y, 0⟩

/-- An AtomicOp completes (R309, R315): PATH takes the value of this completion, an operation that succeeds is performed, in the
page that the AMO's check found, and the AMO that sent it learns the old value. -/
def Device.atomicDone (d : Device) (r : AtomicReq) (answer : AtomicAnswer) : Device :=
  let addr := r.page.addr r.va
  let path := d.pathAfter addr answer
  let x := d.readPage r.page r.va r.size
  let d := d.setPath addr path
  let d := if answer = .success then d.writePage ⟨none, none⟩ r.page r.va (r.amo.bytes (leNat x.1)) else d
  { d with atomics := d.atomics.map (fun q => if q.id = r.id then { q with answer := some (path, leNat x.1, x.2) } else q) }

/-- Whether an AMO still waits for an AtomicOp: of a core, of the program behind its handler, or of a save image. -/
def State.awaits (s : State) (id : Nat) : Bool :=
  let mine := fun (x : Option Sent) => x.any (fun y => y.id = id)
  (s.core :: s.others).any (fun c => mine c.scalar.sent || mine c.scalar.sentOut) ||
    s.dev.regions.any (fun r => r.kept.any (fun k => mine k.sent || mine k.sentOut))

/-- The completion of the oldest AtomicOp that a core has out: completions arrive in the order the operations were sent, those of
a program that the core runs no more among them (R192, R315). -/
def State.atomicAnswer (s : State) (c : Nat) (answer : AtomicAnswer) : State :=
  match s.dev.atomics.find? (fun r => r.core = c && r.answer.isNone) with
  | some r =>
    let d := s.dev.atomicDone r answer
    { s with dev := { d with atomics := d.atomics.filter (fun q => q.answer.isNone || s.awaits q.id) } }
  | none => s

def execAtomicopCompletion (c : Nat) (answer : AtomicAnswer) (s : State) : Host.Outcome State Fault Refusal :=
  .next (s.atomicAnswer c answer)

/-! ### LDS and STS (R205) -/

/-- The scratchpad offset of LDS and STS. -/
def Core.spadOffset (c : Core) (a : BitVec 6) (i : BitVec 9) : Nat := (c.reg a + i.signExtend 64 * 8).toNat

/-- LDS: written three cycles after issue. -/
def execLds (t : BitVec 3) (d a : BitVec 6) (i : BitVec 9) (s : State) : Host.Outcome State Fault Refusal :=
  .next (s.issue .s t 0 (Instr.gate (.lds t d a i) s) (fun u => u.onCore (fun c =>
    c.addFlight s.dev.cycle 3 (.lds d (BitVec.ofNat 64 (c.store.spad.load (c.spadOffset a i) 8))) t none)))

/-- STS. -/
def execSts (t : BitVec 3) (d a : BitVec 6) (i : BitVec 9) (s : State) : Host.Outcome State Fault Refusal :=
  .next (s.issue .s t 0 (Instr.gate (.sts t d a i) s) (fun u => u.onCore (fun c =>
    (c.writeSpad (c.spadOffset a i) (leBytes 8 (c.reg d).toNat)).signal 1 .s 0 t)))

/-! ### XLAT (R212, R213) -/

/-- Releases the entries of a handle: it is INVALID, and its base, length and fn stay (R212, R214; log 26). -/
def Core.releaseHandle (c : Core) (h : BitVec 4) : Core :=
  c.setHandle h { c.handle h with state := .invalid, pages := [] }

/-- What an XLAT that cannot issue does (R212), with its operands as `v` has them: a miss starts the walk that freezes the core,
and a fault leaves the handle INVALID. -/
def State.xlatBefore (s v : State) (i : Instr) (t : BitVec 3) (h : BitVec 4) (a b : BitVec 6) (fn : BitVec 2) : State :=
  match v.xlatMiss t h a b fn with
  | some m =>
    s.onCore (fun c => { c.releaseHandle h with
      walk := some ⟨Config.walkLatency, m, (v.core.reg a).toNat + (v.core.reg b).toNat, fn, h, false, c.scalar.ipend⟩ })
  | none =>
    match i.gate v with
    | .fail _ _ => s.onCore (·.releaseHandle h)
    | _ => s

/-- XLAT: it issues when every page hits; the handle becomes VALID when it retires, 40 cycles later. -/
def State.xlatOp (s : State) (i : Instr) (t : BitVec 3) (h : BitVec 4) (a b : BitVec 6) (fn : BitVec 2) : State :=
  let va := s.core.reg a
  let len := s.core.reg b
  (s.xlatBefore s i t h a b fn).issue .s t 0 (i.gate s) (fun u => u.onCore (fun c =>
    match s.translate h va len fn with
    | .hit ps => (c.releaseHandle h).addFlight s.dev.cycle 40 (.xlat h va len fn ps) t (some h)
    | _ => c))

/-- XLAT.R. -/
def execXlatR (t : BitVec 3) (h : BitVec 4) (a b : BitVec 6) (s : State) : Host.Outcome State Fault Refusal :=
  .next (s.xlatOp (.xlatR t h a b) t h a b 0)

/-- XLAT.RW. -/
def execXlatRw (t : BitVec 3) (h : BitVec 4) (a b : BitVec 6) (s : State) : Host.Outcome State Fault Refusal :=
  .next (s.xlatOp (.xlatRw t h a b) t h a b 1)

/-- XLAT.RWA. -/
def execXlatRwa (t : BitVec 3) (h : BitVec 4) (a b : BitVec 6) (s : State) : Host.Outcome State Fault Refusal :=
  .next (s.xlatOp (.xlatRwa t h a b) t h a b 2)

/-- Brings a page into the translation cache of the core's die. -/
def State.cachePage (s : State) (p : Page) : State :=
  { s with dev := { s.dev with tcache := (s.dev.dieOf s.core.id, p) :: s.dev.tcache } }

/-- The walk of a restore over the range of handle h (R198). -/
def Core.restoreWalk (c : Core) (h : BitVec 4) : Walk :=
  let x := c.handle h
  ⟨0, x.va.toNat, x.va.toNat + x.len.toNat, x.fn, h, false, 0⟩

/-- The handle that a restore translates becomes VALID with the pages found, or REVOKED where there are none or the table
has no room for them; the next one follows (R198). -/
def State.settleHandle (s : State) (ps : Option (List Page)) : State :=
  s.onCore (fun c => match c.restoring with
    | [] => c
    | h :: hs =>
      let room := ps.any (fun ps => ps.length ≤ 4096 - c.tableUsed h)
      let x := c.handle h
      let c := c.setHandle h (if room then { x with state := .valid, pages := ps.getD [] } else { x with state := .revoked })
      { c with restoring := hs, walk := hs.head?.map c.restoreWalk })

/-- A walk ends: interrupts that became pending during it wait for its XLAT (R180). -/
def Core.closeWalk (c : Core) : Core :=
  let old := (c.walk.map (·.ipend)).getD 0
  { c with walk := none, scalar := { c.scalar with deferred := c.scalar.deferred ||| (c.scalar.ipend &&& ~~~old) } }

/-- A walk ends; in a restore the handle is settled. -/
def State.endWalk (s : State) : State :=
  match s.core.restoring with
  | [] => s.onCore Core.closeWalk
  | h :: _ =>
    let x := s.core.handle h
    match xlatPages s.cachedPages s.pasid x.fn x.va.toNat (x.va.toNat + x.len.toNat) 16385 x.va.toNat [] with
    | .hit ps => s.settleHandle (some ps)
    | _ => s.settleHandle none

/-- The walk has found page p: it goes on to the next page the cache lacks, or ends (R212, R213). -/
def State.walkOn (s : State) (w : Walk) (p : Page) : State :=
  let s := s.cachePage p
  match xlatPages s.cachedPages s.pasid w.fn w.va w.fin 16385 w.va [] with
  | .miss v => s.onCore (fun c => { c with walk := some { w with va := v, remain := 1, asked := false } })
  | _ => s.endWalk

/-- A walk ends: the page is found, or it is requested from the host (R212). -/
def State.walkDone (s : State) : State :=
  match s.core.walk with
  | none => s
  | some w =>
    match findPage s.dev.pages s.pasid w.va with
    | some p => s.walkOn w p
    | none => s.onCore (fun c => { c with walk := some { w with remain := 0, asked := true } })

def execTranslationWalkComplete (s : State) : Host.Outcome State Fault Refusal := .next s.walkDone

/-- A page that the host gives: one in host memory that lies in a peer aperture is PEER memory, read-only where it is a
PLANE or CODE page of its peer (R311). -/
def Device.classify (d : Device) (p : Page) : Page :=
  match d.apertures.find? (fun a => decide (hostBase + a.base ≤ p.frame) && decide (p.frame < hostBase + a.base + a.len)) with
  | some a =>
    if p.kind = .host then { p with kind := .peer, frame := peerBase + a.dev * 2 ^ 52 + (p.frame - hostBase - a.base) }
    else { p with readOnly := false }
  | none => { p with readOnly := false }

/-- Whether a mapping can be made in reduced service: of device memory only a die-local one on die 0's stacks (R339). -/
def reducedPage (p : Page) : Bool := !(p.kind == .device || p.kind == .code) || p.dieLocal == some 0

/-- Whether a mapping can be made. -/
def Device.mayMap (d : Device) (p : Page) : Bool := !d.reduced || reducedPage p

/-- The host answers a page request: with a page, or with failure, which is XLATFAULT at the XLAT (R212), and in a
restore leaves the handle REVOKED (R198). -/
def State.priAnswer (s : State) (page : Option Page) : State :=
  match s.core.walk with
  | none => s
  | some w =>
    let s := match page with
      | some p => if s.dev.mayMap p then { s with dev := { s.dev with pages := s.dev.pages ++ [s.dev.classify p] } } else s
      | none => s
    match findPage s.dev.pages s.pasid w.va with
    | some p => s.walkOn w p
    | none =>
      if s.core.restoring = [] then
        s.onCore (fun c => { c with walk := none }.addFail .s 0x08 (BitVec.ofNat 64 (w.va / 4096 * 4096)))
      else s.settleHandle none

def execPriResponse (c : Nat) (page : Option Page) (s : State) : Host.Outcome State Fault Refusal :=
  .next (s.atCore c (·.priAnswer page))

/-! ### HREL and HQRY (R214) -/

/-- HREL. -/
def execHrel (t : BitVec 3) (h : BitVec 4) (s : State) : Host.Outcome State Fault Refusal :=
  .next (s.issue .s t 0 (Instr.gate (.hrel t h) s)
    (fun s => s.onCore (fun c => (c.releaseHandle h).signal 1 .s 0 t)))

def HState.num : HState → Nat
  | .invalid => 0
  | .valid => 1
  | .revoked => 2

/-- The second doubleword of HQRY. -/
def Handle.info (x : Handle) : Word := BitVec.ofNat 64 (x.len.toNat % 2 ^ 27 + x.fn.toNat * 2 ^ 32 + x.state.num * 2 ^ 40)

/-- HQRY. -/
def execHqry (t : BitVec 3) (d : BitVec 5) (h : BitVec 4) (s : State) : Host.Outcome State Fault Refusal :=
  .next (s.issue .s t 0 (Instr.gate (.hqry t d h) s) (fun s => s.onCore (fun c =>
    (c.setReg (pairEven d) (c.handle h).va).result t (pairOdd d) (c.handle h).info)))

/-! ### FENCE and CFENCE (R255, R257) -/

/-- FENCE. -/
def execFence (t : BitVec 3) (c : BitVec 2) (s : State) : Host.Outcome State Fault Refusal :=
  .next (s.issue .s t 0 (Instr.gate (.fence t c) s) (fun u => u.onCore
    (·.addFlight s.dev.cycle Config.fenceLatency (.fence c) t none)))

/-- CFENCE. -/
def execCfence (t : BitVec 3) (a b : BitVec 6) (c : BitVec 2) (s : State) : Host.Outcome State Fault Refusal :=
  .next (s.issue .s t 0 (Instr.gate (.cfence t a b c) s) (fun u => u.onCore (fun k =>
    k.addFlight s.dev.cycle Config.fenceLatency (.cfence c (k.reg a) (k.reg b)) t none)))

/-- Clears the marks of a line on the given dies and drops it from their instruction caches (R257). -/
def Device.publishLine (d : Device) (dies : List Nat) (line : Nat) : Device :=
  { d with
    marks := d.marks.filter (fun m => !(dies.contains m.1 && m.2 = line)),
    icache := d.icache.filter (fun l => !(dies.contains l.die && l.addr = line)),
    remote := d.remote.filter (fun r => !(dies.contains r.dst && r.line = line)) }

/-- Publishes the 128-byte lines of the addresses from va to below fin that a PASID maps, W or X, to CODE frames. -/
def Device.publishLines (d : Device) (pasid : BitVec 20) (dies : List Nat) (va fin : Nat) : Device :=
  let lo := va / 128
  (List.range ((fin + 127) / 128 - lo)).foldl (fun d k =>
    match findPage d.pages pasid (128 * (lo + k)) with
    | some p =>
      if p.w != p.x && d.isCode (p.addr (128 * (lo + k))) then d.publishLine dies (p.addr (128 * (lo + k)) / 128) else d
    | none => d) d

/-- What a CFENCE publishes (R257): the lines from va for len bytes, at most 2^26. -/
def Device.publish (d : Device) (pasid : BitVec 20) (dies : List Nat) (va len : Nat) : Device :=
  if len = 0 then d else d.publishLines pasid dies va (Nat.min (va + Nat.min len (2 ^ 26)) (2 ^ 57))

/-! ### Retirement of S words (R131) -/

/-- Takes the flights that satisfy `due` out of the list. -/
def Core.takeFlights (c : Core) (due : SFlight → Bool) : List SFlight × Core :=
  (c.scalar.flights.filter due,
   { c with scalar := { c.scalar with flights := c.scalar.flights.filter (fun f => !due f) } })

/-- Pushes the tokens of retiring words in this cycle (R24). -/
def Core.retireTokens (c : Core) (fs : List SFlight) : Core :=
  fs.foldl (fun c f => c.addPushes (retirePush 0 0 f.sig .none)) c

/-- Whether the word of a flight has an effect of its own when it retires, beyond a register: it waits for its own token to
be accepted (R25). -/
def SFlight.waits (f : SFlight) : Bool :=
  match f.work with
  | .xlat _ _ _ _ _ | .cfence _ _ _ => true
  | _ => false

/-- Such a word whose token is on its way or was refused. -/
def SFlight.signalled (f : SFlight) : Bool := f.waits && f.remain = 0 && f.sig = 0

/-- The token of such a word is pushed, and the word retires once it is accepted. -/
def Core.holdFlight (c : Core) (f : SFlight) : Core :=
  let c := c.addPushes (retirePush 0 0 f.sig (.release f.born))
  { c with scalar := { c.scalar with flights := { f with remain := 1, sig := 0 } :: c.scalar.flights } }

/-- Whether a retirement is that of the word that issued in cycle `born`. -/
def Retire.releases (w : Retire) (born : Nat) : Bool :=
  match w.effect with
  | .release b => b == born
  | _ => false

/-- Whether a word may retire now: its token will be accepted, or is neither on its way nor refused any more. -/
def Core.accepts (c : Core) (f : SFlight) : Bool :=
  if f.sig = 0 then
    !(c.scalar.late.any (·.releases f.born) || c.queues.pushes.any (fun p => match p.kind with
      | .retire w => w.releases f.born
      | _ => false))
  else c.sigRoom f.sig

def SFlight.isMuldiv (f : SFlight) : Bool := match f.work with | .muldiv _ _ _ => true | _ => false

/-- The results of multiplies and divides that fall due (R131); `again` tells replayed ones (R132). -/
def Core.landMuldiv (c : Core) (again : Bool) : Core :=
  let (fs, c) := c.takeFlights (fun f => f.remain = 0 && f.isMuldiv && f.again = again)
  (fs.foldl (fun c f => match f.work with | .muldiv d v _ => c.setReg d v | _ => c) c).retireTokens fs

def execMuldivResult (s : State) : Host.Outcome State Fault Refusal := .next (s.onCore (·.landMuldiv false))

/-- Data of a load, an atomic or an LDS returns; poison faults at S (R191, R219). -/
def Core.landLoads (c : Core) : Core :=
  let (fs, c) := c.takeFlights (fun f => f.remain = 0 && (match f.work with
    | .load _ _ _ _ | .lds _ _ => true
    | _ => false))
  (fs.foldl (fun c f => match f.work with
    | .load d v none _ => c.setReg d v
    | .load _ _ (some a) _ => c.failS 0x83 a
    | .lds d v => c.setReg d v
    | _ => c) c).retireTokens fs

/-- What the data due adds to the error counters. -/
def Core.dueNotes (c : Core) : List ErrorNote :=
  (c.scalar.flights.map (fun f => match f.work with
    | .load _ _ _ ns => if f.remain = 0 then ns else []
    | _ => [])).flatten

def State.loadsDone (s : State) : State :=
  ({ s with dev := s.dev.noteErrors s.core.dueNotes } : State).onCore Core.landLoads

def execLoadDataReturn (s : State) : Host.Outcome State Fault Refusal := .next s.loadsDone

/-- Retires the words of due flights one by one with `act`, or has them wait for their token (R25); at a trap, by
`force`, they retire. -/
def State.retireEach (s : State) (force : Bool) (fs : List SFlight) (act : State → SFlight → State) : State :=
  fs.foldl (fun s f =>
    if force || s.core.accepts f then (act s f).onCore (·.retireTokens [f]) else s.onCore (·.holdFlight f)) s

/-- The handle of an XLAT that retires: VALID, or REVOKED where a page of it has gone meanwhile (R212, R215); interrupts that
became pending during its walk can be taken (R180). -/
def State.setTranslated (s : State) (f : SFlight) : State :=
  match f.work with
  | .xlat h va len fn ps =>
    let here := ps.all (fun p => s.dev.pages.contains p)
    s.onCore (fun c =>
      { c with scalar := { c.scalar with deferred := 0 } }.setHandle h ⟨va, len, fn, if here then .valid else .revoked, if here then ps else []⟩)
  | _ => s

/-- XLATs retire. -/
def State.xlatDone (s : State) (force : Bool) : State :=
  let (fs, c) := s.core.takeFlights (fun f => f.remain = 0 && (match f.work with | .xlat _ _ _ _ _ => true | _ => false))
  ({ s with core := c } : State).retireEach force fs State.setTranslated

def execXlatRetire (s : State) : Host.Outcome State Fault Refusal := .next (s.xlatDone false)

/-- Whether a write to a peer that was made before a cycle is not acknowledged, whoever made it. -/
def State.unackedBefore (s : State) (born : Nat) : Bool :=
  s.dev.peerReqs.any (fun r => r.isWrite && decide (r.born < born))

/-- Whether a fence of a scope that issued at `born` may retire: every earlier load and atomic has returned, and from DEVICE
scope on every write to a peer is acknowledged and every die that may share a line is reached (R245, R255, R334). -/
def State.fenceOk (s : State) (scope : BitVec 2) (born : Nat) : Bool :=
  !s.core.scalar.flights.any (fun f => f.born < born && (match f.work with
    | .load _ _ _ _ | .peer _ _ _ _ _ | .stl _ => true
    | _ => false)) &&
  (scope.toNat < 2 || (!s.unackedBefore born && s.dev.allReached))

/-- A fence retires: the writes before it are performed; one of this core that was lost is met here (R313, R334). -/
def State.retireFence (s : State) (scope : BitVec 2) : State :=
  match s.lostGate scope with
  | .fail cause v => s.onCore (·.failS cause v)
  | _ => if 2 ≤ scope.toNat then { s with dev := s.dev.cleanOwned s.core.id } else s

def State.fencesDone (s : State) : State :=
  let (fs, c) := s.core.takeFlights (fun f => f.remain = 0 && (match f.work with
    | .fence k => s.fenceOk k f.born
    | _ => false))
  fs.foldl (fun s f => match f.work with | .fence k => s.retireFence k | _ => s) { s with core := c.retireTokens fs }

def execFenceRetire (s : State) : Host.Outcome State Fault Refusal := .next s.fencesDone

/-- The dies that a CFENCE of a scope covers (R257). -/
def State.fenceDies (s : State) (scope : BitVec 2) : List Nat :=
  if scope.toNat < 2 then [s.dev.dieOf s.core.id] else List.range s.dev.dies

/-- What a CFENCE that retires has done: it has published its lines (R257). -/
def State.publishRange (s : State) (f : SFlight) : State :=
  match f.work with
  | .cfence k va len => ({ s with dev := s.dev.publish s.pasid (s.fenceDies k) va.toNat len.toNat } : State).retireFence k
  | _ => s

/-- CFENCEs retire. -/
def State.cfencesDone (s : State) (force : Bool) : State :=
  let (fs, c) := s.core.takeFlights (fun f => f.remain = 0 && (match f.work with
    | .cfence k _ _ => s.fenceOk k f.born
    | _ => false))
  ({ s with core := c } : State).retireEach force fs State.publishRange

def execCfenceRetire (s : State) : Host.Outcome State Fault Refusal := .next (s.cfencesDone false)

/-- An STL retires (R252). -/
def State.stlsDone (s : State) : State :=
  let due := fun (f : SFlight) => f.remain = 0 && (match f.work with
    | .stl k => decide (k.toNat < 2) || s.dev.allReached
    | _ => false)
  let (fs, c) := s.core.takeFlights due
  { s with core := c.retireTokens fs }

def execStlRetire (s : State) : Host.Outcome State Fault Refusal := .next s.stlsDone

/-- Whether the flush of a release falls due and is done: the writes to peers that it covers are acknowledged (R252). -/
def Device.flushDue (d : Device) (z : Lazy) : Bool :=
  z.due ≤ d.cycle && !d.peerReqs.any (fun r => r.isWrite && decide (r.id < z.upto))

/-- The lines that a release covers are at their homes. -/
def Device.cleanLines (d : Device) (z : Lazy) : Device :=
  { d with owned := d.owned.filter (fun x => !(x.2 = z.core && z.owned.contains x.1)) }

/-- The flushes that fall due are performed (R252): what each release covers is at its homes. -/
def Device.flushLazy (d : Device) : Device :=
  { (d.lazy.filter d.flushDue).foldl Device.cleanLines d with lazy := d.lazy.filter (fun z => !d.flushDue z) }

def execLazyReleaseFlush (s : State) : Host.Outcome State Fault Refusal := .next { s with dev := s.dev.flushLazy }

/-! ### Instruction fetch (R140, R256) -/

/-- The virtual address of the 128-byte line of an address. -/
def lineVa (va : Word) : Word := va &&& ~~~127

/-- A leading engine has met a line that cannot be fetched (R190). -/
def Core.missLine (c : Core) (va : Word) : Core :=
  if c.unfetched.contains (lineVa va) then c else { c with unfetched := lineVa va :: c.unfetched }

/-- S has reached a line: it is fetched afresh, and the engines that wait at it go on (R190). -/
def Core.reachLine (c : Core) (va : Word) : Core :=
  if lineVa c.engS.pc = lineVa va then { c with unfetched := c.unfetched.filter (· ≠ lineVa va) } else c

/-- S fetches the line of an address into the instruction caches of its die, or takes the fault. -/
def State.fetchInto (s : State) (va : Word) : State :=
  let s := s.onCore (·.reachLine va)
  let s := match s.codeLine va with
    | some (p, line) => { s with dev := s.dev.noteErrors (s.dev.fillNotes p (p.va + (128 * line - p.frame)) 128) }
    | none => s
  match s.fetchLine va with
  | .fault cause v => s.onCore (fun c => c.record ⟨.s, cause, v, c.engS.pc⟩)
  | .line l => { s with dev := { s.dev with icache := l :: s.dev.icache } }

def execInstructionFetch (va : Word) (s : State) : Host.Outcome State Fault Refusal := .next (s.fetchInto va)

end Sys2Proof.Machine
end

