-- ==== Sys2Proof/Machine/Tile.lean ====
section
/-! DEFINITION. PROBE and the tile words (spec/11 R206 to R210). -/
namespace Sys2Proof.Machine

/-- Tile e becomes the most recent of its class: RANK 0, and every tile ranked before it moves back (R207). -/
def Core.mostRecent (c : Core) (e : BitVec 6) : Core :=
  let r := (c.tile e).rank
  let cls := (c.tile e).cls
  let age := fun (x : Tile) => if x.used && x.cls == cls && decide (x.rank < r) then { x with rank := x.rank + 1 } else x
  let c := { c with store := { c.store with tiles := c.store.tiles.map age } }
  c.setTile e { c.tile e with rank := 0 }

/-- The word of a fill (op 6) or drain (op 7) that hardware queues for tile e: sub[0] = 1 (R186, R226). -/
def queuedWord (op : Nat) (e : BitVec 6) : W32 :=
  BitVec.ofNat 32 (3 * 2 ^ 30 + op * 2 ^ 21 + e.toNat * 2 ^ 15 + 1)

/-- A hardware entry of the journal: no streams, no indices, the old tag of a drain (R186). -/
def queuedEntry (op : Nat) (e : BitVec 6) (old : Word) : JEntry :=
  ⟨queuedWord op e, 0, .zero, .zero, .zero, .zero, old, 16, none, 0, false⟩

/-- A tag as the journal holds it: the handle in [3:0] and the block above (R186). -/
def tagWord (h : BitVec 4) (b : BitVec 60) : Word := b ++ h

/-- Whether claiming a tile drains it first (R208). -/
def Core.claimDrains (c : Core) (e : BitVec 6) : Bool := (c.tile e).state == .ready && (c.tile e).dirty

/-- Claims tile e for block b of class cls (R208): its new tag and state. The tag holds 60 bits of the block number
(log 27). -/
def Core.claimTile (c : Core) (cls : BitVec 3) (b : BitVec 60) (e : BitVec 6) : Core :=
  c.setTile e { c.tile e with
    state := if c.claimDrains e then .draining else .filling, pin := 1,
    handle := (c.store.classes[cls.toNat]'cls.isLt).handle, block := b }

/-- The entries that a claim queues when its PROBE retires: the drain of a dirty tile under its old tag, and the fill
(R208, R209). -/
def Core.claimEntries (c : Core) (e : BitVec 6) : List JEntry :=
  (if c.claimDrains e then [queuedEntry 7 e (tagWord (c.tile e).handle (c.tile e).block)] else []) ++ [queuedEntry 6 e 0]

/-- PROBE (R209): a hit pins the tile and falls through; a miss claims a tile or none and is taken. -/
def Core.probe (c : Core) (t : BitVec 3) (d a o : BitVec 6) (cls : BitVec 3) : Core :=
  let b : BitVec 60 := (c.reg a).setWidth 60
  let target := c.engS.pc + o.signExtend 64 * 4
  match c.probeHit cls b with
  | some e =>
    (((c.setTile e { c.tile e with pin := (c.tile e).pin + 1 }).mostRecent e).setReg d (e.setWidth 64)).branch t false target
  | none =>
    match c.probeVictim cls with
    | none => (c.setReg d (BitVec.ofNat 64 (2 ^ 62))).branch t true target
    | some e =>
      ((((c.claimTile cls b e).mostRecent e).setReg d (BitVec.ofNat 64 (2 ^ 63 + e.toNat))).branch t true target).addPushes
        ((c.claimEntries e).map (fun x => ⟨1, .retire ⟨0, 0, .journal x⟩⟩))

/-- PROBE. -/
def execProbe (t : BitVec 3) (d a o : BitVec 6) (c : BitVec 3) (s : State) : Host.Outcome State Fault Refusal :=
  .next (s.issueAt .s t 0 (Instr.gate (.probe t d a o c) s) (fun s => s.onCore (fun k => k.probe t d a o c)))

/-- TREL: one pin fewer. -/
def execTrel (t : BitVec 3) (a : BitVec 6) (s : State) : Host.Outcome State Fault Refusal :=
  .next (s.issue .s t 0 (Instr.gate (.trel t a) s) (fun s => s.onCore (fun c =>
    let i := c.tileIndex a
    let x := c.tile i
    (c.setTile i { x with pin := if x.pin = 0 then 0 else x.pin - 1 }).signal 1 .s 0 t)))

def TState.num : TState → Nat
  | .empty => 0
  | .filling => 1
  | .ready => 2
  | .draining => 3

/-- Bytes 0 to 7 of a tile table entry (R207). -/
def Tile.info (x : Tile) : Word :=
  BitVec.ofNat 64 (x.baseg.toNat + x.lenm1.toNat * 2 ^ 9 + b2n x.used * 2 ^ 15 + x.state.num * 2 ^ 16 +
    x.cls.toNat * 2 ^ 18 + b2n x.dirty * 2 ^ 21 + x.pin.toNat * 2 ^ 22 + x.rank.toNat * 2 ^ 26)

/-- TSTAT: an unused index gives 0. -/
def execTstat (t : BitVec 3) (d a : BitVec 6) (s : State) : Host.Outcome State Fault Refusal :=
  .next (s.issue .s t 0 (Instr.gate (.tstat t d a) s) (fun s => s.onCore (fun c =>
    let x := c.tile (c.tileIndex a)
    c.result t d (if x.used then x.info else 0))))

/-- Writes the DIRTY bit of the tile that s[a] names. -/
def Core.markTile (c : Core) (t : BitVec 3) (a : BitVec 6) (dirty : Bool) : Core :=
  let i := c.tileIndex a
  (c.setTile i { c.tile i with dirty := dirty }).signal 1 .s 0 t

/-- TCLEAN. -/
def execTclean (t : BitVec 3) (a : BitVec 6) (s : State) : Host.Outcome State Fault Refusal :=
  .next (s.issue .s t 0 (Instr.gate (.tclean t a) s) (fun s => s.onCore (·.markTile t a false)))

/-- TDIRTY. -/
def execTdirty (t : BitVec 3) (a : BitVec 6) (s : State) : Host.Outcome State Fault Refusal :=
  .next (s.issue .s t 0 (Instr.gate (.tdirty t a) s) (fun s => s.onCore (·.markTile t a true)))

end Sys2Proof.Machine
end

