-- ==== Sys2Proof/Machine/Barrier.lean ====
section
/-! DEFINITION. Barrier words, phases and plane steps (spec/12 R230 to R243). -/
namespace Sys2Proof.Machine

def Device.tag (d : Device) (g : BitVec 3) : Tag := d.tags[g.toNat]'g.isLt
def Device.setTag (d : Device) (g : BitVec 3) (x : Tag) : Device := { d with tags := d.tags.set g.toNat x g.isLt }
def tagNums : List (BitVec 3) := (List.range 8).map (BitVec.ofNat 3)

/-! ### The barrier words (R238, R241) -/

/-- The issue of an arrival word: its count enters P, and its arrival has still to register (R238). -/
def State.arrive (s : State) (g : BitVec 3) (n : Nat) (step bara : Bool) : State :=
  let upd := fun (m : Member) =>
    { m with count := m.count + n, arriving := true, steps := step, issued := s.dev.cycle, unreleased := true,
             due := none, bara := bara }
  { s with dev := s.dev.onMember g s.core.id upd }

/-- The wait of BAR, BARW or STEP for the release. -/
def Core.waitRelease (c : Core) (t g : BitVec 3) : Core :=
  { c with scalar := { c.scalar with hold := .barrier g (sigMask t) } }

/-- The releasing word, which signals the partners of `sig`, retires at the end of the cycle `wait` cycles on; a
collision that is due to this core follows it (R236). -/
def State.releaseWord (s : State) (g : BitVec 3) (wait : Nat) (sig : BitVec 3) : State :=
  match (s.member g).bind (·.collided) with
  | none => s.onCore (·.addPushes (retirePush wait 0 sig .none))
  | some va =>
    { s.onCore (fun c => c.failAfter wait sig 0x0E va c.engS.pc) with
      dev := s.dev.onMember g s.core.id (fun m => { m with collided := none }) }

/-- BAR. -/
def execBar (t g : BitVec 3) (s : State) : Host.Outcome State Fault Refusal :=
  .next (s.issue .s t 0 (Instr.gate (.bar t g) s) (fun u => (u.arrive g 0 false false).onCore (·.waitRelease t g)))

/-- STEP: an arrival that also ends the step. -/
def execStep (t g : BitVec 3) (s : State) : Host.Outcome State Fault Refusal :=
  .next (s.issue .s t 0 (Instr.gate (.step t g) s) (fun u => (u.arrive g 0 true false).onCore (·.waitRelease t g)))

/-- BARA: its count is s[a]; it does not wait. A collision of an earlier BARA is taken after it. -/
def execBara (t : BitVec 3) (a : BitVec 6) (g : BitVec 3) (s : State) : Host.Outcome State Fault Refusal :=
  .next (s.issue .s t 0 (Instr.gate (.bara t a g) s) (fun u =>
    (u.releaseWord g 1 (sigMask t)).arrive g (s.core.reg a).toNat false true))

/-- BARW: it waits while the phase of the member's latest arrival is unreleased (log 28). -/
def execBarw (t g : BitVec 3) (s : State) : Host.Outcome State Fault Refusal :=
  .next (s.issue .s t 0 (Instr.gate (.barw t g) s) (fun u =>
    match u.member g with
    | none => u
    | some m =>
      if m.unreleased then u.onCore (·.waitRelease t g)
      else u.releaseWord g 1 (sigMask t)))

/-- The first doubleword of BARQ (R241). -/
def Tag.info (x : Tag) (m : Member) : Word :=
  BitVec.ofNat 64 (x.phase.toNat + b2n m.arrived * 2 ^ 32 + b2n x.device * 2 ^ 33 + x.members.length * 2 ^ 40)

/-- BARQ. -/
def execBarq (t : BitVec 3) (d : BitVec 5) (g : BitVec 3) (s : State) : Host.Outcome State Fault Refusal :=
  .next (s.issue .s t 0 (Instr.gate (.barq t d g) s) (fun u =>
    match u.member g with
    | none => u
    | some m => u.onCore (fun c =>
        (c.setReg (pairEven d) ((u.dev.tag g).info m)).result t (pairOdd d) (BitVec.ofInt 64 m.count))))

/-! ### Arrival (R238) -/

/-- Whether the arrival of a member that issued in cycle `issued` may register: its earlier loads have returned, and at the
scope of a DEVICE tag the writes to peers before it are acknowledged and every die is reached (R245, R249, R334); every other
write is at its home already (log 2). -/
def State.arrivalOk (s : State) (g : BitVec 3) (issued : Nat) : Bool :=
  !s.core.scalar.flights.any (fun f => f.born < issued && (match f.work with
    | .load _ _ _ _ | .peer _ _ _ _ _ => true
    | _ => false)) &&
  (!(s.dev.tag g).device || (!s.unackedBefore issued && s.dev.allReached))

/-- The member of tag g that the current core is has an arrival that can register. -/
def State.canRegister (s : State) (g : BitVec 3) : Bool :=
  match s.member g with
  | some m => m.arriving && s.arrivalOk g m.issued
  | none => false

/-- The scope of the arrivals of a tag (R245). -/
def Tag.scope (x : Tag) : BitVec 2 := if x.device then 2 else 1

/-- The arrival of the current core at a tag registers, where it can. One that covers a write that has been lost since it issued
meets POISON at S and does not register: the model's choice of the point (R313; log 111). -/
def State.registerAt (s : State) (g : BitVec 3) : State :=
  if s.canRegister g then
    match s.lostGate (s.dev.tag g).scope with
    | .fail cause v =>
      { s.onCore (·.failS cause v) with dev := s.dev.onMember g s.core.id (fun m => { m with arriving := false }) }
    | _ =>
      let step := match s.member g with
        | some m => m.steps
        | none => false
      let d := if (s.dev.tag g).device then s.dev.cleanOwned s.core.id else s.dev
      let d := d.onMember g s.core.id (fun m => { m with arrived := true, arriving := false })
      { s with dev := d.setTag g { d.tag g with stepped := (d.tag g).stepped || step } }
  else s

/-- Every arrival of the current core that can register does. -/
def State.registerArrivals (s : State) : State := tagNums.foldl State.registerAt s

def execArrivalRegister (s : State) : Host.Outcome State Fault Refusal := .next s.registerArrivals

/-! ### Settlement (R235, R236) -/

/-- Every store to the next plane that has set out reaches its home, in order (log 2). -/
def Device.settleStores (d : Device) : Device :=
  { d.settling.foldl (fun d x =>
      { d with planes := d.planes.map (fun p =>
          if p.base ≤ x.addr ∧ x.addr < p.base + p.len then { p with next := p.next ++ [x] } else p) }) d with
    settling := [] }

def execPlaneStoreSettle (s : State) : Host.Outcome State Fault Refusal := .next { s with dev := s.dev.settleStores }

/-- The store that PRIORITY keeps: highest priority, then lowest core, then the last to arrive (R236). -/
def priorityPick : Option PlaneStore → List PlaneStore → Option PlaneStore
  | best, [] => best
  | none, x :: xs => priorityPick (some x) xs
  | some b, x :: xs =>
    priorityPick (some (if b.prio < x.prio ∨ (b.prio = x.prio ∧ x.core ≤ b.core) then x else b)) xs

/-- The FP32 sum of the values in arrival order, each addition rounded RNE; any NaN gives the canonical NaN. -/
def addF32 : List W32 → Nat
  | [] => 0
  | v :: vs =>
    let add := fun (acc : Nat) (x : W32) => (Fmt.f32.round .rne (FVal.add .rne (Fmt.f32.value acc) (Fmt.f32.value x.toNat)).1).1
    let first := if Fmt.f32.value v.toNat = .nan then Fmt.f32.nanCode else v.toNat
    vs.foldl add first

/-- The next value of a word from its stores in arrival order (R236). -/
def PlaneRule.value (r : PlaneRule) (xs : List PlaneStore) : Nat :=
  match r with
  | .priority => ((priorityPick none xs).map (·.value.toNat)).getD 0
  | .sumI32 => (xs.foldl (fun n x => n + x.value.toNat) 0) % 2 ^ 32
  | .sumF32 => addF32 (xs.map (·.value))
  | .fault => ((xs[0]?).map (·.value.toNat)).getD 0

/-- Whether the stores that make the next value of a word carry poison (R228, R327). -/
def PlaneRule.spoils (r : PlaneRule) (xs : List PlaneStore) : Bool :=
  match r with
  | .priority => (priorityPick none xs).any (·.bad)
  | .fault => xs[0]?.any (·.bad)
  | .sumI32 | .sumF32 => xs.any (·.bad)

/-- The distinct words of a list of stores. -/
def storedWords : List PlaneStore → List Nat
  | [] => []
  | x :: xs => let ws := storedWords xs; if ws.contains x.addr then ws else x.addr :: ws

/-- The lower of two collided addresses. -/
def lowest : Option Word → Word → Option Word
  | none, v => some v
  | some u, v => some (if v < u then v else u)

/-- The swap of one plane region: each stored word takes its rule's value, and under FAULT the members that
stored to a collided word learn the lowest such address (R236, R239); poison of the data that makes a word stays with its line. -/
def Device.swapPlane (d : Device) (g : BitVec 3) (p : Plane) : Device :=
  let d := (storedWords p.next).foldl (fun d w =>
    let xs := p.next.filter (·.addr = w)
    let d := { d with mem := d.mem.write w (leBytes 4 (p.rule.value xs)) }
    let d := if p.rule.spoils xs then d.poisonLine (lineOf w) else d
    if p.rule = .fault ∧ 1 < xs.length then
      xs.foldl (fun d x => d.onMember g x.core (fun m => { m with collided := lowest m.collided x.va })) d
    else d) d
  { d with planes := d.planes.map (fun q => if q.num = p.num then { q with next := [] } else q) }

/-! ### Phases (R239) -/

/-- A phase of tag g completes: members remain, all have arrived, every counter is 0, and after a STEP every
store that had to settle has settled. -/
def Device.phaseReady (d : Device) (g : BitVec 3) : Bool :=
  let x := d.tag g
  x.owner.isSome && x.members ≠ [] && x.members.all (fun m => m.arrived && m.count = 0) &&
    (!x.stepped || d.settling = [])

/-- Planes bound to tag g. -/
def Device.boundTo (d : Device) (g : BitVec 3) : List Plane :=
  d.planes.filter (fun p => match p.bound with
    | some (t, _) => t == g
    | none => false)

/-- Cycles from completion to release (R230). -/
def Tag.latency (x : Tag) : Nat := if x.device then 160 else 40

/-- The completion of a phase in this cycle. -/
def Device.completePhase (d : Device) (g : BitVec 3) : Device :=
  if d.phaseReady g then
    let d := if (d.tag g).stepped then (d.boundTo g).foldl (fun d p => d.swapPlane g p) d else d
    let x := d.tag g
    let free := fun (m : Member) => { m with arrived := false, due := some (d.cycle + x.latency) }
    d.setTag g { x with phase := x.phase + 1, stepped := false, members := x.members.map free }
  else d

def execPhaseComplete (g : BitVec 3) (s : State) : Host.Outcome State Fault Refusal :=
  .next { s with dev := s.dev.completePhase g }

/-- Members whose release falls in the cycle that follows. -/
def Device.released (d : Device) (g : BitVec 3) : List Member :=
  (d.tag g).members.filter (fun m => match m.due with
    | some r => decide (r ≤ d.cycle + 1)
    | none => false)

/-- The release of the current core: the word that waits on tag g retires, and its token is pushed; a
collision is then due (R236, R238). -/
def State.releaseHere (s : State) (g : BitVec 3) : State :=
  match s.core.scalar.hold with
  | .barrier h sig =>
    if h = g then
      (s.onCore (fun c => { c with scalar := { c.scalar with hold := .bubble 0 } })).releaseWord g 0 sig
    else s
  | _ => s

/-- The release of the phase that has completed: it falls in the cycle that follows this device turn. -/
def State.releasePhase (s : State) (g : BitVec 3) : State :=
  let ms := s.dev.released g
  let free := fun (m : Member) => if ms.contains m then { m with unreleased := false, due := none } else m
  let x := s.dev.tag g
  let s := { s with dev := s.dev.setTag g { x with members := x.members.map free } }
  ms.foldl (fun s m => s.atCore m.core (·.releaseHere g)) s

def execBarrierRelease (g : BitVec 3) (s : State) : Host.Outcome State Fault Refusal := .next (s.releasePhase g)

/-- The current core leaves the tags it is a member of (R231). -/
def State.leaveTags (s : State) : State :=
  tagNums.foldl (fun s g =>
    let x := s.dev.tag g
    { s with dev := s.dev.setTag g { x with members := x.members.filter (fun m => m.core ≠ s.core.id) } }) s

end Sys2Proof.Machine
end

