-- ==== Sys2Proof/Machine/Queue.lean ====
section
/-! DEFINITION. Task queues (spec/14 R265 to R267), the order of linear indices (spec/15 R276), WNEXT, and
TSYNC (R284 to R288). A word of op 0x3A acts on its own deque or join block when it issues, takes from other
cores or from the Sluice in a device turn, and retires then (log 8). -/
namespace Sys2Proof.Machine

/-- The region of a core. -/
def Device.regionOf (d : Device) (c : Core) : Option Region := c.job.region.bind d.region?

/-! ### The Spillway ring of a core's slot (R266, R274) -/

/-- The PASID and virtual address of ring entry k of a core. -/
def Device.ringAt (d : Device) (c : Core) (k : Nat) : BitVec 20 × Nat :=
  match d.regionOf c with
  | none => (0, 0)
  | some r => (r.pasid, r.spillBase.toNat + 64 * r.spillSize * c.job.slot + 64 * (k % Nat.max 1 r.spillSize))

def Device.readRing (d : Device) (c : Core) (k : Nat) : BitVec 512 :=
  let (pasid, va) := d.ringAt c k
  match d.readVa pasid va 64 with
  | some bs => BitVec.ofNat 512 (leNat bs)
  | none => Config.lostRecord va

/-- A record that is spilled to ring entry k; at an address that cannot be written it is dropped, and the spill goes on: the
model's choice (log 110). -/
def Device.writeRing (d : Device) (c : Core) (k : Nat) (r : BitVec 512) : Device :=
  let (pasid, va) := d.ringAt c k
  d.writeVa pasid va (leBytes 64 r.toNat)

/-- Records appended at the Spillway's tail, in order. The first record of a slot goes to ring entry 0, and each next one to the
entry after, modulo SPILLSIZE: the model's choice (R266; log 110). -/
def Device.toRing (d : Device) (c : Core) : List (BitVec 512) → Device × Core
  | [] => (d, c)
  | r :: rs =>
    let d := d.writeRing c (c.deque.spillPos + c.deque.spill) r
    Device.toRing d { c with deque := { c.deque with spill := c.deque.spill + 1 } } rs

/-- The n oldest records of the Spillway, taken. -/
def Device.fromRing (d : Device) (c : Core) : Nat → List (BitVec 512) × Core
  | 0 => ([], c)
  | n + 1 =>
    let r := d.readRing c c.deque.spillPos
    let q := c.deque
    let c := { c with deque := { q with spillPos := q.spillPos + 1, spill := q.spill - 1 } }
    let (rs, c) := Device.fromRing d c n
    (r :: rs, c)

/-- The spill engine, after every operation (R266). -/
def Device.spillEngine (d : Device) (c : Core) : Device × Core :=
  let q := c.deque
  let size := ((d.regionOf c).map (·.spillSize)).getD 0
  if q.bank.length = 32 ∧ q.spill = 0 ∧ size ≠ 0 then
    d.toRing { c with deque := { q with bank := q.bank.take 24 } } (q.bank.drop 24)
  else if q.bank.length < 8 ∧ 0 < q.spill then
    let (rs, c) := d.fromRing c (Nat.min 8 q.spill)
    (d, { c with deque := { c.deque with bank := c.deque.bank ++ rs } })
  else (d, c)

/-- A push at the tail of a core's own deque. -/
def Device.pushRecord (d : Device) (c : Core) (r : BitVec 512) : Device × Core :=
  if 0 < c.deque.spill then
    let (d, c) := d.toRing c [r]
    d.spillEngine c
  else d.spillEngine { c with deque := { c.deque with bank := c.deque.bank ++ [r] } }

/-- QPOP's take: the newest record of the deque. -/
def Device.popRecord (d : Device) (c : Core) : Option (BitVec 512 × Device × Core) :=
  let q := c.deque
  if 0 < q.spill then
    let r := d.readRing c (q.spillPos + q.spill - 1)
    some (r, d.spillEngine { c with deque := { q with spill := q.spill - 1 } })
  else
    match q.bank.getLast? with
    | none => none
    | some r => some (r, d.spillEngine { c with deque := { q with bank := q.bank.dropLast } })

/-- A steal's take: the bank's head. -/
def Device.stealRecord (d : Device) (c : Core) : Option (BitVec 512 × Device × Core) :=
  match c.deque.bank with
  | [] => none
  | r :: rs => some (r, d.spillEngine { c with deque := { c.deque with bank := rs } })

/-- The record at scratchpad offset o. -/
def Core.recordAt (c : Core) (o : Nat) : BitVec 512 := BitVec.ofNat 512 (c.store.spad.load o 64)

/-- The scratchpad offset that a Q word writes its record to, as it stands at issue. -/
def Core.recordOff (c : Core) (i : Instr) : Nat :=
  match i with
  | .qpop _ _ a | .qsteal _ _ a => (c.reg a).toNat
  | _ => 0

/-- S is held until the answer (R265, R284). -/
def Core.awaitAnswer (c : Core) (i : Instr) (v : Word) (r : BitVec 512) : Core :=
  { c with scalar := { c.scalar with hold := .answer Config.answerLatency i v r (c.recordOff i) } }

/-- QPUSH: the record is read at issue. -/
def execQpush (t : BitVec 3) (a : BitVec 6) (s : State) : Host.Outcome State Fault Refusal :=
  .next (s.issue .s t 0 (Instr.gate (.qpush t a) s) (fun u =>
    let (d, c) := u.dev.pushRecord u.core (u.core.recordAt (u.core.reg a).toNat)
    { u with dev := d, core := c.awaitAnswer (.qpush t a) 0 0 }))

/-- QPOP. -/
def execQpop (t : BitVec 3) (d a : BitVec 6) (s : State) : Host.Outcome State Fault Refusal :=
  .next (s.issue .s t 0 (Instr.gate (.qpop t d a) s) (fun u =>
    match u.dev.popRecord u.core with
    | none => u.onCore (·.awaitAnswer (.qpop t d a) 0 0)
    | some (r, dv, c) => { u with dev := dv, core := c.awaitAnswer (.qpop t d a) (BitVec.ofNat 64 (c.id + 1)) r }))

/-- QSTEAL: the search is made when the Q word reaches the banks. -/
def execQsteal (t : BitVec 3) (d a : BitVec 6) (s : State) : Host.Outcome State Fault Refusal :=
  .next (s.issue .s t 0 (Instr.gate (.qsteal t d a) s) (fun u => u.onCore (·.awaitAnswer (.qsteal t d a) 0 0)))

/-- QLEN. -/
def execQlen (t : BitVec 3) (d : BitVec 6) (s : State) : Host.Outcome State Fault Refusal :=
  .next (s.issue .s t 0 (Instr.gate (.qlen t d) s) (fun u => u.onCore (fun c =>
    c.awaitAnswer (.qlen t d) (BitVec.ofNat 64 (c.deque.bank.length + 2 ^ 32 * c.deque.spill)) 0)))

/-- WNEXT. -/
def execWnext (t : BitVec 3) (d : BitVec 6) (s : State) : Host.Outcome State Fault Refusal :=
  .next (s.issue .s t 0 (Instr.gate (.wnext t d) s) (fun u => u.onCore (·.awaitAnswer (.wnext t d) 0 0)))

/-- RSPAWN: the launch is made when it reaches the Sluice. -/
def execRspawn (t : BitVec 3) (d a : BitVec 6) (s : State) : Host.Outcome State Fault Refusal :=
  .next (s.issue .s t 0 (Instr.gate (.rspawn t d a) s) (fun u => u.onCore (fun c =>
    c.awaitAnswer (.rspawn t d a) (c.reg a) 0)))

/-! ### TSYNC (R287, R288) -/

/-- The FRAME of a join block: the registers, the result register as 0, and the resume address. -/
def Core.joinFrame (c : Core) (b : BitVec 6) (resume : Word) : List Byte :=
  ((List.range 64).map (fun j =>
    let v : Word := if j = 0 ∨ j = 63 ∨ j = b.toNat then 0
      else if j = 62 then resume else c.reg (BitVec.ofNat 6 j)
    leBytes 8 (if b = 62 ∧ j = 62 then resume else v).toNat)).flatten

/-- The POISON of a join block's COUNT and WAIT. -/
def State.joinPoison (s : State) (h : BitVec 4) (o : Nat) (t : State) : State :=
  match (s.readHandle h o 16).2 with
  | some a => t.onCore (·.failS 0x83 a)
  | none => t

/-- TSYNC.JOIN. -/
def execTsyncJoin (t h : BitVec 3) (a b : BitVec 6) (s : State) : Host.Outcome State Fault Refusal :=
  .next (s.issue .s t 0 (Instr.gate (.tsyncJoin t h a b) s) (fun u =>
    let h4 : BitVec 4 := h.setWidth 4
    let o := (s.core.reg a).toNat
    let count := s.readHandle64 h4 o
    let u := u.writeHandle h4 (o + 128) 0 (s.core.joinFrame b (s.core.wordAddr .s + 4))
    let u := if count = 0 then u else u.writeHandle h4 (o + 8) 0 (leBytes 8 1)
    s.joinPoison h4 o (u.onCore (·.awaitAnswer (.tsyncJoin t h a b) (if count = 0 then 0 else 1) 0))))

/-- TSYNC.ARRIVE. -/
def execTsyncArrive (t h : BitVec 3) (a b : BitVec 6) (s : State) : Host.Outcome State Fault Refusal :=
  .next (s.issue .s t 0 (Instr.gate (.tsyncArrive t h a b) s) (fun u =>
    let h4 : BitVec 4 := h.setWidth 4
    let o := (s.core.reg a).toNat
    let count := s.readHandle64 h4 o - 1
    let push := count = 0 && (s.readHandle64 h4 (o + 8)).getLsbD 0
    let u := u.writeHandle h4 o 0 (leBytes 8 count.toNat)
    let u :=
      if push then
        let u := u.writeHandle h4 (o + 8) 0 (leBytes 8 0)
        let (d, c) := u.dev.pushRecord u.core (BitVec.ofNat 512 (leNat (s.readHandle h4 (o + 64) 64).1))
        { u with dev := d, core := c }
      else u
    s.joinPoison h4 o (u.onCore (·.awaitAnswer (.tsyncArrive t h a b) (if push then 1 else 0) 0))))

/-! ### Linear indices (R276) -/

/-- Coordinate d of Morton number m in D dimensions: its bits at d, d + D, d + 2D, … (32 of them). -/
def mortonCoord (dims m d : Nat) : Nat :=
  (List.range 32).foldl (fun v j => v + m / 2 ^ (d + dims * j) % 2 * 2 ^ j) 0

/-- The n-th point of Morton order within the counts, from number m on, with fuel. -/
def mortonPoint (counts : List Nat) : Nat → Nat → Nat → List Nat
  | 0, _, _ => counts.map (fun _ => 0)
  | fuel + 1, m, n =>
    let p := (List.range counts.length).map (mortonCoord counts.length m)
    if (List.zip p counts).all (fun x => decide (x.1 < x.2)) then
      if n = 0 then p else mortonPoint counts fuel (m + 1) (n - 1)
    else mortonPoint counts fuel (m + 1) n

/-- The indices (i0, i1, i2) of linear index n. -/
def indexPoint (order : Nat) (counts : List Nat) (n : Nat) : Nat × Nat × Nat :=
  let c := fun k => (counts[k]?).getD 1
  match order with
  | 0 => (n % c 0, n / c 0 % c 1, n / (c 0 * c 1))
  | 1 => (n / (c 2 * c 1), n / c 2 % c 1, n % c 2)
  | 2 =>
    let p := mortonPoint counts (2 ^ 96) 0 n
    ((p[0]?).getD 0, (p[1]?).getD 0, (p[2]?).getD 0)
  | _ =>
    let r := n / c 0
    (if r % 2 = 0 then n % c 0 else c 0 - 1 - n % c 0, r % c 1, r / c 1)

/-! ### Answers (R265, R284, R285) -/

/-- A Q word retires: S is free and its token is pushed. -/
def Core.answered (c : Core) (t : BitVec 3) : Core :=
  ({ c with scalar := { c.scalar with hold := .none } } : Core).retire ⟨0, sigMask t, .none⟩

/-- Every core that is not idle. -/
def State.cores (s : State) : List Core := s.core :: s.others

/-- The cores of the current core's region that QSTEAL tries, in order (R265). -/
def State.victims (s : State) : List Nat :=
  let me := s.core.id
  let d := s.dev
  let mine := fun (id : Nat) => id ≠ me && s.cores.any (fun c => c.id = id && c.job.region = s.core.job.region)
  let here := (d.place me).1
  let sameDie := (List.range d.liveCores).filter (fun id => d.dieOf id = d.dieOf me && mine id)
  let near := sameDie.filter (fun id => (d.place id).1 = here)
  let start := s.core.deque.lastNear.getD (d.place me).2
  let byPos := ((List.range 8).map (fun k => near.filter (fun id => (d.place id).2 = (start + 1 + k) % 8))).flatten
  let far := sameDie.filter (fun id => (d.place id).1 ≠ here)
  let from' := s.core.deque.lastFar.getD me
  byPos ++ far.filter (fun id => decide (from' < id)) ++ far.filter (fun id => decide (id ≤ from'))

/-- Puts a core back in its place. -/
def State.setCore (s : State) (c : Core) : State :=
  if s.core.id = c.id then { s with core := c }
  else { s with others := s.others.map (fun x => if x.id = c.id then c else x) }

/-- A halted core whose deque is empty gives up its slot and is free to every region from this cycle (R274). -/
def Core.giveUpSlot (c : Core) (now : Nat) : Core :=
  if !c.running && c.deque.bank = [] && c.deque.spill = 0 then
    { c with job := { c.job with region := none, slot := 0, freeAt := now }, deque := .reset }
  else c

/-- QSTEAL of the current core (R265). -/
def State.steal (s : State) (t : BitVec 3) (dst : BitVec 6) (off : Nat) : State :=
  match s.victims.findSome? (fun id => s.cores.find? (fun c => c.id = id && c.deque.bank ≠ [])) with
  | none => s.onCore (fun c => (c.setReg dst 0).answered t)
  | some v =>
    match s.dev.stealRecord v with
    | none => s.onCore (fun c => (c.setReg dst 0).answered t)
    | some (r, d, v) =>
      let s := ({ s with dev := d } : State).setCore (v.giveUpSlot s.dev.cycle)
      let pos := d.place v.id
      s.onCore (fun c =>
        let q := c.deque
        let q := if pos.1 = (d.place c.id).1 then { q with lastNear := some pos.2 } else { q with lastFar := some v.id }
        let c := { c with deque := q }.writeSpad off (leBytes 64 r.toNat)
        (c.setReg dst (BitVec.ofNat 64 (v.id + 1))).answered t)

/-- WNEXT of the current core (R285): s[sd] is written after s1 to s4. -/
def State.nextIndex (s : State) (t : BitVec 3) (dst : BitVec 6) : State :=
  match s.dev.regionOf s.core with
  | none => s.onCore (fun c => (c.setReg dst 0).answered t)
  | some r =>
    if r.kind = 0 ∧ r.dispatched < r.total then
      let n := r.dispatched
      let (i0, i1, i2) := indexPoint r.order r.counts n
      let d := s.dev.onRegion r.key (fun r => { r with dispatched := n + 1 })
      let s := { s with dev := d.writeVa r.pasid (r.rcb.toNat + 0xF0) (leBytes 8 (n + 1)) }
      s.onCore (fun c =>
        let c := (((c.setReg 1 (BitVec.ofNat 64 i0)).setReg 2 (BitVec.ofNat 64 i1)).setReg 3 (BitVec.ofNat 64 i2)).setReg 4
          (BitVec.ofNat 64 n)
        (c.setReg dst 1).answered t)
    else s.onCore (fun c => (c.setReg dst 0).answered t)

end Sys2Proof.Machine
end

