-- ==== Sys2Proof/Machine/Nest.lean ====
section
/-! DEFINITION. The Cascade nest: entry, the test of each nest cycle, and exit (spec/04 R85 to R95). -/
namespace Sys2Proof.Machine

/-- The start of a nest (R86): the configuration is swapped if asked, and nest cycle 0 comes next. -/
def Core.startNest (c : Core) (t : BitVec 3) (r i : BitVec 6) (w : BitVec 1) (body : List W32) : Core :=
  { c with
    active := if w = 1 then c.shadow else c.active,
    nest := some { rows := r.toNat + 1, ii := i.toNat + 1, cycle := 0, counters := .zero, checked := false, held := false,
                   body := body, sig := sigMask t } }

/-- NEST. -/
def execNest (t : BitVec 3) (r i : BitVec 6) (w : BitVec 1) (s : State) : Host.Outcome State Fault Refusal :=
  .next (s.issueAt .s t 0 (Instr.gate (.nest t r i w) s)
    (fun u => u.onCore (·.startNest t r i w ((s.nestBody r).getD []))))

/-! ### A nest cycle (R88, R92, R93) -/

/-- The gate of a word due in a nest cycle, with its own indices: for an AMO on host memory that of its route (R309). -/
def State.dueGate (s : State) (w : W32) (i : Idx) : Gate :=
  let s := s.onCore (fun c => { c with idx := i })
  match decodeWord w with
  | .error _ => .fail 0x01 (w.setWidth 64)
  | .ok k => s.routeGate k (k.gate s)

def engines : List Engine := [.s, .v, .m, .x]

/-- The words due in the coming nest cycle, with their gates. -/
def State.dueGates (s : State) (n : Nest) : List (Engine × W32 × Idx × Gate) :=
  engines.filterMap (fun e => (s.core.dueWord n e).map (fun x => (e, x.2.1, x.2.2, s.dueGate x.2.1 x.2.2)))

/-- The stall record of an engine after the test of a nest cycle (R22): one with no word due still waits for the pushes
that were refused. -/
def Core.nestStall (c : Core) (gs : List (Engine × W32 × Idx × Gate)) (e : Engine) : Core :=
  c.countStall e (match gs.find? (fun g => g.1 = e) with
    | some (_, _, _, .wait code) => code
    | some _ => none
    | none => c.quietStall e)

/-- Records the faults of the words due. -/
def Core.nestFails (c : Core) (gs : List (Engine × W32 × Idx × Gate)) : Core :=
  gs.foldl (fun c g => match g.2.2.2 with
    | .fail cause v => c.addFail g.1 cause v
    | _ => c) c

/-- What an XLAT due in a frozen nest cycle does before it issues, with its operands as `v` has them: it starts its walk, or its fault leaves the
handle INVALID (R212). -/
def State.nestXlat (s v : State) (i : Instr) : State :=
  match i with
  | .xlatR t h a b => s.xlatBefore v i t h a b 0
  | .xlatRw t h a b => s.xlatBefore v i t h a b 1
  | .xlatRwa t h a b => s.xlatBefore v i t h a b 2
  | _ => s

/-- The AMO due in a nest cycle that has still to send its AtomicOp before it issues (R309). -/
def State.nestAtomic (s : State) (gs : List (Engine × W32 × Idx × Gate)) : Option Instr :=
  (gs.find? (fun g => g.1 = .s)).bind (fun g => match decodeWord g.2.1 with
    | .error _ => none
    | .ok k => if (s.sentOp k).isNone ∧ s.amoRoute k = some .atomicOp then some k else none)

/-- What holds a nest besides its due words: a walk, a fault of S to come (R149), a barrier wait (R243). -/
def Core.nestBlocked (c : Core) : Bool :=
  c.walk.isSome || c.faultComing || (match c.scalar.hold with
    | .barrier _ _ => true
    | _ => false)

/-- The core as it stands once the V results that are due have landed. -/
def Core.landed (c : Core) : Core := (c.landDue true).landDue false

def Core.setNest (c : Core) (n : Nest) : Core := { c with nest := some n }

/-- The nest with its body and its NEST word's signal, which a TRET or a restore leaves to be read again (R126). -/
def State.readBody (s : State) (n : Nest) : Nest :=
  if n.body = [] then { n with
    body := (s.nestBody (BitVec.ofNat 6 (n.rows - 1))).getD [],
    sig := sigMask (((s.fetchWord s.core.engS.pc).map wordTok).getD 0) } else n

/-- The test of the coming nest cycle: every due word can issue, or the nest is frozen in this core cycle. The words are
tested as they will find the results that are due, which land after the test, and do not where it finds a fault (R94,
R124). -/
def State.checkNest (s : State) : State :=
  match s.core.nest with
  | none => s
  | some n =>
    let n := s.readBody n
    let s := s.onCore (·.setNest n)
    let held := { n with checked := true, held := true }
    if s.core.nestBlocked then s.onCore (·.setNest held)
    else
      let gs := (s.onCore Core.landed).dueGates n
      let s := s.onCore (fun c => engines.foldl (fun c e => c.nestStall gs e) c)
      if gs.all (fun g => g.2.2.2 == .go) then
        match (s.onCore Core.landed).nestAtomic gs with
        | some k => (s.sendAtomic (s.onCore Core.landed) k).onCore (·.setNest held)
        | none => s.onCore (·.setNest { n with checked := true, held := false })
      else
        let s := s.onCore (fun c => c.nestFails gs)
        let s := match gs.find? (fun g => g.1 = .s) with
          | some (_, w, _, _) =>
            match decodeWord w with
            | .ok k => s.nestXlat (s.onCore Core.landed) k
            | .error _ => s
          | none => s
        s.onCore (·.setNest held)

def execNestCycle (s : State) : Host.Outcome State Fault Refusal := .next s.checkNest

/-- i0 increments and carries outward (R91). -/
def Core.countUp (c : Core) (i : Idx) : Idx :=
  ((List.range 6).foldl (fun (acc : Idx × Bool) l =>
    if acc.2 then
      let v := ((acc.1[l]?).getD 0).toNat + 1
      if v = c.trip l then (acc.1.setIfInBounds l 0, true) else (acc.1.setIfInBounds l (BitVec.ofNat 64 v), false)
    else acc) (i, true)).1

/-- The nest's share of the end of a core cycle: a nest cycle that issued is over, and the level counters follow
the iteration that started in it (R91); a frozen one is held. -/
def Core.advanceNest (c : Core) : Core :=
  match c.nest with
  | none => c
  | some n =>
    if n.checked && !n.held then
      let k := n.cycle / n.ii
      let counters := if n.cycle % n.ii = 0 ∧ 0 < k ∧ k < c.iterations then c.countUp n.counters else n.counters
      c.setNest { n with cycle := n.cycle + 1, counters := counters, checked := false, held := false }
    else c.setNest { n with checked := false }

/-! ### Exit (R95) -/

/-- The last row has issued and V, M and X have drained. -/
def Core.nestOver (c : Core) : Bool :=
  match c.nest with
  | none => false
  | some n =>
    (c.iterations = 0 || (c.iterations - 1) * n.ii + n.rows ≤ n.cycle) && c.vec.flights = [] && c.queues.held = [] &&
      c.mat.queue = [] && c.xfer.journal = [] && !c.nestBlocked && c.fails = []

/-- The exit: the NEST word's signal is pushed, and all four program counters move past the body. -/
def Core.exitNest (c : Core) : Core :=
  match c.nest with
  | none => c
  | some n =>
    let go := fun (c : Core) (e : Engine) =>
      let x := c.eng e
      c.setEng e { x with pc := x.pc + 4 + BitVec.ofNat 64 (16 * n.rows), walk := x.walk + 1 + 4 * n.rows, stall := 0 }
    { (engines.foldl go c).addPushes (retirePush 0 0 n.sig .none) with nest := none, idx := .zero }

def execNestExit (s : State) : Host.Outcome State Fault Refusal := .next (s.onCore Core.exitNest)

end Sys2Proof.Machine
end

