-- ==== Sys2Proof/Machine/Trap.lean ====
section
/-! DEFINITION. The end of a core cycle, and taking a trap: the trap frame, TRET, interrupts, and the save image
of a pre-emption with its restore (spec/06 R122 to R126, spec/07 R132, R147, spec/09 R180 to R198). -/
namespace Sys2Proof.Machine

/-! ### The end of a core cycle (R20, R25, R122, R131, R155, R213) -/

/-- V counts nothing down: an XLAT walks (from the cycle after its miss), the nest is held or no nest cycle issues, TRET
retires, or a trap or pre-emption is being taken (R93, R94, R124, R126, R182, R213). -/
def Core.frozen (c : Core) : Bool :=
  c.entry || c.returning ||
  (match c.walk with
   | some w => w.asked || w.remain != Config.walkLatency
   | none => false) ||
  (match c.nest with
   | some n => n.held || !n.checked || c.stopped
   | none => false)

/-- One cycle less of what holds S. -/
def Hold.advance : Hold → Hold
  | .bubble 0 => .none
  | .bubble (n + 1) => .bubble n
  | .tret 0 => .none
  | .tret (n + 1) => .tret n
  | .pause n g => .pause (n - 1) g
  | .callk n a l g => .callk (n - 1) a l g
  | .answer n i v r o => .answer (n - 1) i v r o
  | h => h

/-- The end of a core's cycle: the timer counts, pushes take effect, and every latency has one cycle less; that of a
multiply or divide stands while a trap is being taken, and while a restore waits for pages (R132, R198). -/
def Core.advance (c : Core) : Core :=
  let tick : W32 := if c.scalar.timer = 0 ∨ c.restoring ≠ [] then 0 else 1
  let flights := c.scalar.flights.map (fun f =>
    if (c.entry || c.restoring ≠ []) && f.isMuldiv then f else { f with remain := f.remain - 1 })
  let x := c.scalar
  let x := { x with timer := x.timer - tick, hold := x.hold.advance, flights := flights, raised := 0 }
  let landing := c.vec.flights.map (fun f => { f with remain := f.remain - 1 })
  let v := if c.frozen then c.vec else { c.vec with busy := c.vec.busy - 1, flights := landing }
  let step := fun (w : Walk) => if w.asked then w else { w with remain := w.remain - 1 }
  let c := { c with scalar := x, vec := v, walk := c.walk.map step }
  { (c.applyDue c.queues.pushes).advanceNest with phase := .over }

/-- The TIMER interrupt becomes pending (R122). -/
def Core.timerDue (c : Core) : Core :=
  { c with scalar := { c.scalar with armed := false, ipend := c.scalar.ipend ||| 1 } }

def execTimer (s : State) : Host.Outcome State Fault Refusal := .next (s.onCore Core.timerDue)

/-! ### Where a trap is taken (R147, R180, R181, R243) -/

/-- TVEC after a retirement. -/
def Retire.handler (v : Word) (w : Retire) : Word :=
  match w.effect with
  | .control 0x08 x => x &&& ~~~3
  | _ => v

/-- TVEC at the boundary after this cycle, with every CRW that has issued (R121). -/
def Core.handlerAt (c : Core) : Word :=
  c.queues.pushes.foldl (fun v p => match p.kind with
    | .retire w => Retire.handler v w
    | _ => v) (c.scalar.late.foldl Retire.handler c.scalar.tvec)

/-- A fatal cause has bit 7 set (R188). -/
def Fail.isFatal (f : Fail) : Bool := f.cause.getLsbD 7

/-- The first of the faults in the order of engines S, V, M, X. -/
def firstFail (fs : List Fail) : Option Fail := engines.findSome? (fun e => fs.find? (fun f => f.engine = e))

/-- The one cause that is taken: fatal ones first (R181). -/
def Core.cause (c : Core) : Option Fail :=
  match firstFail (c.fails.filter Fail.isFatal) with
  | some f => some f
  | none => firstFail c.fails

/-- Whether the current core waits at HALT for the release of a phase in which it arrived with BARA: a barrier wait
(R236). -/
def State.haltWait (s : State) : Bool :=
  let c := s.core
  c.nest.isNone && c.scalar.hold = .none && s.baraOpen && ((s.fetchWord c.engS.pc).any isHaltWord) &&
    (c.scalar.handler || (c.engV.pc = c.engS.pc && c.engM.pc = c.engS.pc && c.engX.pc = c.engS.pc))

/-- Whether the current core stands at a boundary where a trap or pre-emption is taken: no walk, no barrier wait, no TRET that
has still to retire (R123, R180, R236, R243; log 30). -/
def State.canStop (s : State) : Bool :=
  let c := s.core
  c.walk.isNone && c.restoring = [] && !s.haltWait &&
  (match c.scalar.hold with
   | .barrier _ _ => false
   | .tret n => n = 0
   | _ => true)

/-- Whether every S word in flight is one that the replay buffer can hold, or one that only waits for its token: then
the frame or image is written (R132, R255; log 30). -/
def Core.settled (c : Core) : Bool :=
  c.scalar.flights.all (fun f => f.isMuldiv || f.signalled) &&
  (match c.scalar.hold with
   | .answer _ _ _ _ _ | .callk _ _ _ _ => false
   | _ => true)

/-- And X has come to a point where it can stop: a chunk whose writes are at peers is done, and a command whose last chunk is
done can complete (R187). -/
def State.settled (s : State) : Bool :=
  s.core.settled && s.core.xfer.sent.isNone &&
  (match s.core.xfer.journal with
   | [] => true
   | e :: _ => !(0 < s.core.chunks e && s.core.chunks e ≤ e.next) || s.mayComplete e)

/-- Whether a retirement raises COLLISION. -/
def Retire.collides (w : Retire) : Bool :=
  match w.effect with
  | .fault 0x0E _ _ => true
  | _ => false

/-- A COLLISION is still to be raised, which is taken before an interrupt (R243). -/
def Core.collisionComing (c : Core) : Bool :=
  c.scalar.late.any Retire.collides || c.queues.pushes.any (fun p => match p.kind with
    | .retire w => w.collides
    | _ => false)

/-- The interrupt to take: pending and enabled, of the lowest cause code (R147); one that became pending during a walk waits for
its XLAT to retire (R180), and each for a COLLISION that the release of a barrier raises (R243). -/
def Core.interrupt (c : Core) : Option Nat :=
  if c.scalar.handler || c.collisionComing then none
  else (List.range 3).find? (fun k => (c.scalar.ipend &&& c.scalar.ien &&& ~~~c.scalar.deferred).getLsbD k)

def interruptCause (k : Nat) : BitVec 8 := if k = 0 then 0x30 else if k = 1 then 0x31 else 0x33

/-! ### The core comes to rest (R102, R124, R182, R187) -/

/-- The head of the journal has written its last chunk. -/
def Core.xDone (c : Core) : Bool :=
  match c.xfer.journal with
  | [] => false
  | e :: _ => 0 < c.chunks e && c.chunks e ≤ e.next

/-- A HALT that waits counts as not issued: the token it took goes back (log 31). -/
def Core.returnToken (c : Core) : Core :=
  match c.scalar.hold with
  | .halt n =>
    let p := if n = 1 then some Engine.v else if n = 2 then some .m else if n = 3 then some .x else none
    match p with
    | some e => { c with queues := c.queues.pushToken e .s }
    | none => c
  | _ => c

/-- The retirement among the pushes that raises a fault, which nothing follows. -/
def faultsOf (ps : List Push) : List Retire :=
  ps.filterMap (fun p => match p.kind with
    | .retire w => if w.isFault then some w else none
    | _ => none)

/-- Every push takes effect, and the S words that have issued retire, as far as they can (R183, R187); a fault that has still to
be raised waits for TRET (log 78). -/
def Core.settle (c : Core) : Core :=
  let c := c.endPause
  let ps := c.queues.pushes
  let rest := ps.filter (fun p => (faultsOf [p]).isEmpty)
  let c := c.applyDue (rest.map (fun p => { p with wait := 0 }))
  (c.flushLate (c.scalar.late ++ faultsOf ps)).returnToken

/-- The core comes to rest between two cycles: every issued M word completes, and so does an X command whose last chunk
is written (R102, R187). -/
def State.restNow (s : State) : State :=
  let s := s.onCore (·.drainM)
  let s := if s.core.xDone then s.completeX else s
  ((s.xlatDone true).cfencesDone true).onCore Core.settle

/-- The cycle ends, and the core comes to rest. -/
def State.rest (s : State) : State := (s.onCore Core.advance).restNow

/-! ### The trap frame (R183, R184, R186) -/

/-- A replay descriptor (R184), with the values of its fields. -/
structure Desc where
  kind   : Nat
  sig1   : Nat
  sig2   : Nat
  flags  : Nat
  dest   : Nat
  slot   : Nat
  remain : Nat
  data   : Nat
  deriving DecidableEq, Repr

/-- The code of an element width in a KIND 5 descriptor. -/
def widthCode (w : Nat) : Nat := if w = 4 then 0 else if w = 8 then 1 else if w = 16 then 2 else if w = 32 then 3 else 4

/-- The descriptor of a V result in flight, and the slots it takes from slot `k` on. -/
def Flight.desc (f : Flight) (k : Nat) : Desc × List Slot :=
  let mk := fun (kind dest slot data : Nat) =>
    (⟨kind, f.sig1.toNat, f.sig2.toNat, f.flags.toNat, dest, slot, f.remain, data⟩ : Desc)
  let slot := fun (v : BitVec 8192) (lo n : Nat) => (⟨v, lo, n, f.tile, f.dirty⟩ : Slot)
  match f.result with
  | .signal => (mk 0 0 255 0, [])
  | .vreg p v lo n => (mk 1 p.toNat k 0, [slot v lo n])
  | .mask m v => (mk 2 m.toNat k 0, [slot (v.setWidth 8192) 0 32])
  | .cond b => (mk 3 0 255 (b2n b), [])
  | .sreg d v => (mk 4 d.toNat 255 v.toNat, [])
  | .row v off n w => (mk 5 0 k (off % 2 ^ 32 + n * 2 ^ 32 + widthCode w * 2 ^ 44), [slot v 0 1024])
  | .scatter v offs wide => (mk 6 0 k (k + 1 + b2n wide * 2 ^ 8), [slot v 0 1024, slot offs 0 1024])
  | .latch v => (mk 7 0 255 v.toNat, [])

/-- The descriptors of a list of results, with their slots. -/
def flightDescs : List Flight → Nat → List Desc × List Slot
  | [], _ => ([], [])
  | f :: fs, k =>
    let (d, sl) := f.desc k
    let (ds, sls) := flightDescs fs (k + sl.length)
    (d :: ds, sl ++ sls)

/-- The replay buffer of a core at rest: VCQ bits held by the full queue, V results, then multiplies and divides
(R124, R132). -/
def Core.replayBuffer (c : Core) : List Desc × List Slot :=
  let held := c.queues.held.map (fun x => (⟨3, x.2.1.toNat, x.2.2.toNat, 0, 0, 255, 0, b2n x.1⟩ : Desc))
  let (ds, sl) := flightDescs c.vec.flights 0
  let md := c.scalar.flights.filterMap (fun f => match f.work with
    | .muldiv d v _ => some (⟨8, f.sig.toNat, 0, 0, d.toNat, 255, f.remain, v.toNat⟩ : Desc)
    | _ => none)
  (held ++ ds ++ md, sl)

/-- The first doubleword of a descriptor. -/
def Desc.word (d : Desc) : Nat :=
  d.kind + d.sig1 * 2 ^ 4 + d.sig2 * 2 ^ 7 + d.flags * 2 ^ 10 + d.dest * 2 ^ 16 + d.slot * 2 ^ 24 + d.remain * 2 ^ 32

/-- A field of a save area: offset, bytes and value. -/
abbrev Field := Nat × Nat × Nat

/-- Fields of equal size at a fixed distance. -/
def fieldRun (off size step : Nat) : List Nat → List Field
  | [] => []
  | v :: vs => (off, size, v) :: fieldRun (off + step) size step vs

def PathEntry.word (x : PathEntry) : Nat := (x.target &&& ~~~3).toNat + b2n x.taken

/-- Whether a journal entry is one that PROBE queued (R186). -/
def JEntry.queued (e : JEntry) : Bool := (wordOp e.word = 6 || wordOp e.word = 7) && fld e.word 0 1 = 1

/-- A journal entry at an offset (R186). -/
def JEntry.fields (e : JEntry) (off : Nat) : List Field :=
  (off, 4, e.word.toNat) :: (off + 4, 4, e.next) ::
    (if e.queued then [(off + 8, 8, e.old.toNat)] else fieldRun (off + 8) 4 4 (e.idx.toList.map (fun v => v.toNat % 2 ^ 32)))

def journalFields : List JEntry → Nat → List Field
  | [], _ => []
  | e :: es, off => e.fields off ++ journalFields es (off + 32)

/-- A handle in HANDLES. -/
def Handle.fields (x : Handle) (off : Nat) : List Field :=
  [(off, 8, x.va.toNat), (off + 8, 8, x.len.toNat), (off + 16, 8, x.fn.toNat + x.state.num * 2 ^ 8)]

/-- A copy of the streams and levels, in the STREAMS and NESTACT layouts. -/
def Conf.fields (k : Conf) (streams levels : Nat) : List Field :=
  fieldRun streams 8 8 ((k.streams.toList.map (fun q => q.toList.map (·.toNat))).flatten) ++
  fieldRun levels 8 8 ((k.levels.toList.map (fun l => [l.trip.toNat, l.first.toNat, l.last.toNat])).flatten)

/-- The same with the bits that a stream's KIND or FMT ignores as zeros, as the frame has them (R74). -/
def Conf.shown (k : Conf) : Conf := { k with streams := k.streams.map Stream.shown }

/-- The bits of the condition queue, head first. -/
def condBits (bs : List Bool) : Nat := packBits 1 (bs.map b2n)

/-- The frame of a core at rest (R183). -/
def Core.frameFields (c : Core) (cause engine : Nat) (tval : Word) : List Field :=
  let q := c.queues
  let ds := c.replayBuffer.1
  let nest : List Field := match c.nest with
    | none => []
    | some n => [(0x50, 8, n.rows - 1 + (n.ii - 1) * 2 ^ 6), (0x58, 8, n.cycle)] ++
        fieldRun 0x60 4 4 (n.counters.toList.map (fun v => v.toNat % 2 ^ 32))
  [(0x00, 8, cause + engine * 2 ^ 8 + b2n c.nest.isSome * 2 ^ 10), (0x08, 8, tval.toNat)] ++
  fieldRun 0x10 8 8 (engines.map (fun e => (c.eng e).pc.toNat)) ++
  fieldRun 0x30 8 8 (engines.map (fun e => (c.eng e).walk)) ++ nest ++
  [(0x78, 8, packBits 4 q.tok.toList), (0x88, 8, condBits q.cond + q.cond.length * 2 ^ 16),
   (0x90, 8, q.pathV.length + q.pathM.length * 2 ^ 8 + q.pathX.length * 2 ^ 16), (0x98, 8, c.vec.window.toNat),
   (0xA0, 8, c.vec.latch.toNat), (0xA8, 8, ds.length), (0xB0, 8, c.xfer.journal.length)] ++
  fieldRun 0xB8 1 1 q.pend.toList ++ fieldRun 0x100 8 8 (q.pathV.map PathEntry.word) ++
  fieldRun 0x200 8 8 (q.pathM.map PathEntry.word) ++ fieldRun 0x300 8 8 (q.pathX.map PathEntry.word) ++
  fieldRun 0x400 8 8 ((ds.map (fun d => [d.word, d.data])).flatten) ++ journalFields c.xfer.journal 0xA00 ++
  ((List.range 16).map (fun k => (c.handle (BitVec.ofNat 4 k)).fields (0xE00 + 32 * k))).flatten ++
  c.active.shown.fields 0x1000 0x1900

/-- Writes fields over zeroed bytes at `base`. -/
def Mem.writeFields (m : Mem) (base len : Nat) (fs : List Field) : Mem :=
  fs.foldl (fun m f => m.store (base + f.1) f.2.1 f.2.2) (m.clear base len)

/-- Bytes 0x000 to 0x19FF of the trap save area are written (R183). -/
def Core.writeFrame (c : Core) (cause engine : Nat) (tval : Word) : Core :=
  let base := c.store.tsave
  let fs := c.frameFields cause engine tval
  { c with store := { c.store with spad := c.store.spad.writeFields base 0x1A00 fs } }.touch
    (c.store.vregBytes + c.store.accuBytes + base) 0x1A00

/-- The handler starts (R124, R125): queues are cleared, TCAUSE and TVAL set, and PC.S takes TVEC. -/
def Core.enterHandler (c : Core) (cause : BitVec 8) (tval : Word) : Core :=
  let slots := c.replayBuffer.2
  let x := c.scalar
  let calm := fun (c : Core) (e : Engine) => c.setEng e { c.eng e with stall := 0 }
  let c := engines.foldl calm c
  { c with
    engS := { c.engS with pc := x.tvec },
    scalar := { x with hold := .none, flights := [], tcause := cause, tval := tval, handler := true, stash := x.late,
                       late := [], sentOut := x.sent, sent := none, deferred := 0 },
    vec := { c.vec with flights := [], busy := 0, replay := slots },
    xfer := { c.xfer with journal := [], saved := c.xfer.journal, lines := [], sent := none },
    queues := .reset, nest := none, idx := .zero, stopped := false, entry := false }

/-- Taking a trap: the one operation of every resumable fault and interrupt. The core comes to rest, the frame is
written, and the handler starts; with no handler the cause is fatal as it stands (R121, R192). -/
def State.takeTrap (s : State) (f : Fail) : State :=
  if s.core.handlerAt = 0 then s.onCore (fun c => { c with fails := [], fatal := some f })
  else
    (({ s with core := { s.core with fails := [] } } : State).rest).onCore
      (fun c => (c.writeFrame f.cause.toNat f.engine.num f.tval).enterHandler f.cause f.tval)

def State.trapFault (s : State) : State :=
  match s.core.cause with
  | some f => s.takeTrap f
  | none => s

def execTrapEntry (s : State) : Host.Outcome State Fault Refusal := .next s.trapFault

/-- The interrupt is the cause that is taken: its pending bit is cleared, and a PAUSE ends (R147, R150). -/
def Core.raiseInterrupt (c : Core) (k : Nat) : Core :=
  let c : Core := { c with scalar := { c.scalar with ipend := c.scalar.ipend &&& ~~~(BitVec.ofNat 3 (2 ^ k)) } }
  (c.endPause).record ⟨.s, interruptCause k, 0, c.engS.pc⟩

/-- Taking an interrupt: as a trap, once the S words in flight have returned. -/
def State.trapInterrupt (s : State) : State :=
  match s.core.interrupt with
  | none => s
  | some k =>
    let s := s.onCore (·.raiseInterrupt k)
    if s.core.handlerAt = 0 ∨ s.settled then s.trapFault else s

def execInterruptTake (s : State) : Host.Outcome State Fault Refusal := .next s.trapInterrupt

/-! ### Reading a frame back (R126, R185) -/

/-- Descriptor k of a frame read through `rd` (offset, bytes). -/
def readDesc (rd : Nat → Nat → Nat) (k : Nat) : Desc :=
  let w := rd (0x400 + 16 * k) 8
  ⟨w % 16, w / 2 ^ 4 % 8, w / 2 ^ 7 % 8, w / 2 ^ 10 % 64, w / 2 ^ 16 % 256, w / 2 ^ 24 % 256, w / 2 ^ 32 % 2 ^ 16,
   rd (0x408 + 16 * k) 8⟩

/-- Whether a KIND needs a slot. -/
def Desc.needsSlot (d : Desc) : Bool := d.kind = 1 || d.kind = 2 || d.kind = 5 || d.kind = 6

/-- A descriptor in range (R185). That the second slot of a KIND 6 descriptor is checked too is the model's choice (log 91). -/
def Desc.ok (d : Desc) : Bool :=
  d.kind ≤ 8 && (d.slot < 96 || (d.slot = 255 && !d.needsSlot)) && (d.kind ≠ 6 || d.data % 256 < 96)

/-- Every restored field is in range (R185). -/
def Core.frameOk (c : Core) (rd : Nat → Nat → Nat) : Bool :=
  let paths := rd 0x90 8
  let nest := rd 0x00 8 / 2 ^ 10 % 2 = 1
  rd 0x88 8 / 2 ^ 16 % 32 ≤ 16 && paths % 64 ≤ 32 && paths / 2 ^ 8 % 64 ≤ 32 && paths / 2 ^ 16 % 64 ≤ 32 &&
  rd 0xA8 8 % 128 ≤ 96 && rd 0xB0 8 % 64 ≤ 32 &&
  (List.range (rd 0xA8 8 % 128)).all (fun k => (readDesc rd k).ok) &&
  (!nest || (rd 0x10 8 / 4 = rd 0x18 8 / 4 && rd 0x10 8 / 4 = rd 0x20 8 / 4 && rd 0x10 8 / 4 = rd 0x28 8 / 4)) &&
  rd 0x98 8 % 8 < c.store.windows

/-- A V result from its descriptor. -/
def Desc.flight (d : Desc) (slots : List Slot) : Option Flight :=
  let slot := fun (k : Nat) => (slots[k]?).getD ⟨Config.unusedSlot k, 0, 1024, none, false⟩
  let sl := slot d.slot
  let mk := fun (r : Result) (tile : Option (BitVec 6)) (dirty : Bool) =>
    some (⟨d.remain, r, BitVec.ofNat 3 d.sig1, BitVec.ofNat 3 d.sig2, BitVec.ofNat 6 d.flags, tile, dirty, true⟩ : Flight)
  match d.kind with
  | 0 => mk .signal none false
  | 1 => mk (.vreg (BitVec.ofNat 8 d.dest) sl.value sl.lo sl.n) sl.tile sl.dirty
  | 2 => mk (.mask (BitVec.ofNat 2 d.dest) (sl.value.setWidth 256)) none false
  | 3 => mk (.cond (d.data % 2 = 1)) none false
  | 4 => mk (.sreg (BitVec.ofNat 6 d.dest) (BitVec.ofNat 64 d.data)) none false
  | 5 => mk (.row sl.value (d.data % 2 ^ 32) (d.data / 2 ^ 32 % 2 ^ 12) (4 * 2 ^ (d.data / 2 ^ 44 % 8))) sl.tile sl.dirty
  | 6 => mk (.scatter sl.value (slot (d.data % 256)).value (d.data / 2 ^ 8 % 2 = 1)) sl.tile sl.dirty
  | 7 => mk (.latch (BitVec.ofNat 64 d.data)) none false
  | _ => none

/-- An S multiply or divide from its descriptor: one with 3 or more cycles to go is a divide (log 32). -/
def Desc.sflight (d : Desc) (extra : Nat) : Option SFlight :=
  if d.kind = 8 then
    some ⟨d.remain + extra, .muldiv (BitVec.ofNat 6 d.dest) (BitVec.ofNat 64 d.data) (3 ≤ d.remain), BitVec.ofNat 3 d.sig1, 0,
      true, none⟩
  else none

def readPath (rd : Nat → Nat → Nat) (off n : Nat) : List PathEntry :=
  (List.range n).map (fun k =>
    let v := rd (off + 8 * k) 8
    ⟨v % 2 = 1, BitVec.ofNat 64 (v / 4 * 4)⟩)

/-- Journal entry k of a frame. Its streams are those of the command at the trap, where the frame still names
it, else the active ones (log 33); the value of an XSET is read afresh (R187; log 34). -/
def Core.readEntry (c : Core) (rd : Nat → Nat → Nat) (k : Nat) : JEntry :=
  let off := 0xA00 + 32 * k
  let w := BitVec.ofNat 32 (rd off 4)
  let next := rd (off + 4) 4
  let idx : Idx := Vector.ofFn (fun l => BitVec.ofNat 64 (rd (off + 8 + 4 * l.val) 4))
  let base : JEntry := match c.xfer.saved[k]? with
    | some e => if e.word = w then e else
        ⟨w, 0, .zero, c.stream (fld w 17 4), c.stream (fld w 13 4), c.stream (fld w 0 4), 0, 0, none, 0, false⟩
    | none => ⟨w, 0, .zero, c.stream (fld w 17 4), c.stream (fld w 13 4), c.stream (fld w 0 4), 0, 0, none, 0, false⟩
  let base := { base with word := w, next := next, value := none, begun := false }
  if base.queued then { base with idx := .zero, old := BitVec.ofNat 64 (rd (off + 8) 8) } else { base with idx := idx }

/-- The nest of a frame; its body is read again from the text. -/
def readNest (rd : Nat → Nat → Nat) : Option Nest :=
  if rd 0x00 8 / 2 ^ 10 % 2 = 1 then
    some {
      rows := rd 0x50 8 % 64 + 1
      ii := rd 0x50 8 / 2 ^ 6 % 64 + 1
      cycle := rd 0x58 8
      counters := Vector.ofFn (fun l => BitVec.ofNat 64 (rd (0x60 + 4 * l.val) 4))
      checked := false
      held := false
      body := []
      sig := 0 }
  else none

/-- The head of the journal starts its next chunk. -/
def startHead : List JEntry → List JEntry
  | [] => []
  | e :: es => { e with wait := e.chunkCycles } :: es

/-- A condition bit that the full queue held at the boundary: it has no cycle to go (R124). -/
def Desc.isHeld (d : Desc) : Bool := d.kind = 3 && d.remain = 0

/-- The core's state becomes that of the frame's boundary (R185); replayed multiplies and divides land `extra` cycles after
their counts, V results at them once the core counts again (R126, R132), but the condition bits that lead a frame with a full condition queue are those V held (R124; log 79); S words of the
handler in flight and journal entries that X still holds come last (log 42). -/
def Core.loadFrame (c : Core) (rd : Nat → Nat → Nat) (extra : Nat) : Core :=
  let all := (List.range (rd 0xA8 8 % 128)).map (readDesc rd)
  let full := rd 0x88 8 / 2 ^ 16 % 32 = 16
  let held := if full then all.takeWhile Desc.isHeld else []
  let ds := all.drop held.length
  let eng := fun (k : Nat) => (⟨BitVec.ofNat 64 (rd (0x10 + 8 * k) 8 / 4 * 4), rd (0x30 + 8 * k) 8, 0, 0⟩ : EngineState)
  let conds := rd 0x88 8
  let paths := rd 0x90 8
  let entries := (List.range (rd 0xB0 8 % 64)).map (c.readEntry rd)
  { c with
    engS := eng 0, engV := eng 1, engM := eng 2, engX := eng 3,
    scalar := { c.scalar with
      hold := .none, late := c.scalar.stash, stash := [], handler := false, sent := c.scalar.sentOut, sentOut := none,
      flights := ds.filterMap (·.sflight extra) ++ c.scalar.flights },
    vec := { c.vec with
      window := BitVec.ofNat 3 (rd 0x98 8), latch := BitVec.ofNat 64 (rd 0xA0 8), busy := 0,
      flights := ds.filterMap (·.flight c.vec.replay) },
    xfer := { c.xfer with journal := startHead (entries ++ c.xfer.journal), saved := [] },
    queues := { Queues.reset with
      tok := Vector.ofFn (fun k => rd 0x78 8 / 16 ^ k.val % 16),
      pend := Vector.ofFn (fun k => rd (0xB8 + k.val) 1),
      cond := (List.range (conds / 2 ^ 16 % 32)).map (fun k => conds / 2 ^ k % 2 = 1),
      held := held.map (fun d => (d.data % 2 = 1, BitVec.ofNat 3 d.sig1, BitVec.ofNat 3 d.sig2)),
      pathV := readPath rd 0x100 (paths % 64), pathM := readPath rd 0x200 (paths / 2 ^ 8 % 64),
      pathX := readPath rd 0x300 (paths / 2 ^ 16 % 64) },
    nest := readNest rd }

/-- A byte run of the trap save area as a number. -/
def Core.saveArea (c : Core) (off n : Nat) : Nat := c.store.spad.load (c.store.tsave + off) n

/-- An AMO whose AtomicOp was refused tries its route again (R309). -/
def State.dropRefused (s : State) : State :=
  match s.core.scalar.sent.bind (fun x => s.dev.atomics.find? (fun r => r.id = x.id)) with
  | some r =>
    match r.answer with
    | none | some (.atomicOp, _, _) => s
    | _ => s.onCore (·.setSent none)
  | none => s

def Core.retTrap (c : Core) : Core := { c with scalar := { c.scalar with hold := .tret 1 } }

/-- TRET at address `pc`: the state of the boundary returns, and the engines resume in the cycle after TRET retires; or a field
out of range is DOUBLETRAP (R126, R185). -/
def State.returnFromTrap (s : State) (pc : Word) : State :=
  let rd := s.core.saveArea
  if s.core.frameOk rd then (s.onCore (fun c => (c.loadFrame rd 2).retTrap)).dropRefused
  else s.onCore (·.record ⟨.s, 0x87, 0, pc⟩)

/-- TRET. It retires in the cycle after it issues: the model's choice, as R131 has no line for TRET (R126; log 90). -/
def execTret (t : BitVec 3) (s : State) : Host.Outcome State Fault Refusal :=
  .next (s.issue .s t 0 (Instr.gate (.tret t) s) (fun u => (u.returnFromTrap s.core.engS.pc).onCore (·.signal 1 .s 0 t)))

/-- Whether the V results that fall due land now: not while a trap is being taken, TRET retires or a restore waits for pages,
and in a nest once the words of the nest cycle have been tested, where none of them faults (R94, R124, R126, R182, R198). A result
due at nest cycle b that has landed before a trap is taken in the frozen nest cycle b stays landed: the model's choice (log 90). -/
def Core.landsV (c : Core) : Bool :=
  !c.entry && !c.returning && c.restoring = [] && (match c.nest with
    | none => true
    | some n => n.checked && c.fails = [])

/-- The replay entries that fall due land, V's and S's (R126, R132). -/
def Core.landReplays (c : Core) : Core := (if c.landsV then c.landDue true else c).landMuldiv true

def execReplayEntryLand (s : State) : Host.Outcome State Fault Refusal := .next (s.onCore Core.landReplays)

/-! ### WATCHDOG (R22) -/

/-- An engine whose stall has reached 2^24 cycles. -/
def Core.stalledOut (c : Core) (e : Engine) : Bool := 2 ^ 24 ≤ (c.eng e).stall

def State.watchdog (s : State) (e : Engine) : State :=
  s.onCore (fun c => (c.addFail e 0x85 (BitVec.ofNat 64 (e.num + 16 * (c.eng e).code))).setEng e { c.eng e with stall := 0 })

def execWatchdog (e : Engine) (s : State) : Host.Outcome State Fault Refusal := .next (s.watchdog e)

/-! ### The save image (R195 to R197) -/

/-- A byte of the pool, in the order the partition word places its parts (R197, R203). -/
def Core.poolByte (c : Core) (p : Nat) : Byte :=
  let v := c.store.vregBytes
  let a := c.store.accuBytes
  if p < v then ((c.vec.regs[p / 1024]?).getD 0).extractLsb' (8 * (p % 1024)) 8
  else if p < v + a then ((c.mat.accs[(p - v) / 4096]?).getD 0).extractLsb' (8 * ((p - v) % 4096)) 8
  else c.store.spad.get (p - v - a)

/-- Line j of granule g. -/
def Core.poolLine (c : Core) (g j : Nat) : List Byte := (List.range 64).map (fun k => c.poolByte (4096 * g + 64 * j + k))

/-- The tag of a line, given the line before it (none for line 0), and its payload (R197). -/
def lineTag (prev : Option (List Byte)) (l : List Byte) : Nat × List Byte :=
  if l.all (· = 0) then (0, [])
  else if prev = some l then (1, [])
  else if l = (List.replicate 16 (l.take 4)).flatten then (2, l.take 4)
  else (3, l)

/-- A granule record (R197). -/
def Core.granuleRecord (c : Core) (g : Nat) : List Byte :=
  let lines := (List.range 64).map (fun j =>
    lineTag (if j = 0 then none else some (c.poolLine g (j - 1))) (c.poolLine g j))
  let payload := (lines.map (·.2)).flatten
  leBytes 8 (g + payload.length * 2 ^ 16) ++ leBytes 16 (packBits 2 (lines.map (·.1))) ++ payload ++
    List.replicate ((8 - payload.length % 8) % 8) 0

/-- The 16 bytes of a tile table entry (R207). -/
def Tile.fields (x : Tile) (off : Nat) : List Field :=
  [(off, 8, x.info.toNat), (off + 8, 8, (tagWord x.handle x.block).toNat)]

/-- The replay slots in use: in a handler those of the trap it handles (R196). -/
def Core.usedSlots (c : Core) : List Slot := if c.scalar.handler then c.vec.replay else c.replayBuffer.2

/-- IPEND at a boundary, with the TIMER interrupt that becomes pending in the next cycle (R122, R196). -/
def Core.ipendAt (c : Core) : BitVec 3 := c.scalar.ipend ||| (if c.scalar.armed && c.scalar.timer = 0 then 1 else 0)

/-- The core state block (R196). The shadow streams stand in it as they have been written: only the frame shows the bits that
KIND or FMT ignores as zero (R74; log 80). -/
def Core.stateFields (c : Core) : List Field :=
  let x := c.scalar
  c.frameFields 0x32 0 0 ++ fieldRun 0x1A00 8 8 ((List.range 64).map (fun k => (c.reg (BitVec.ofNat 6 k)).toNat)) ++
  c.shadow.fields 0x1C00 0x2500 ++ fieldRun 0x2600 32 32 (c.vec.masks.toList.map (·.toNat)) ++
  fieldRun 0x2680 8 8 [x.slip.toNat, x.fpmode.toNat, x.fpflags.toNat, x.tvec.toNat, x.tcause.toNat, x.tval.toNat,
    x.timer.toNat, x.ien.toNat, c.ipendAt.toNat, b2n x.handler] ++
  ((List.range 64).map (fun k => (c.tile (BitVec.ofNat 6 k)).fields (0x2700 + 16 * k))).flatten ++
  fieldRun 0x2B00 1024 1024 (c.usedSlots.map (·.value.toNat))

/-- The save image of a core at rest (R195). -/
def Core.image (c : Core) : List Byte :=
  let len := 0x2B00 + 1024 * c.usedSlots.length
  let gs := (List.range 512).filter (fun g => c.store.dirty.getLsbD g)
  let records := (gs.map c.granuleRecord).flatten
  let head := Mem.writeFields [] 0 0x100 ([(0, 8, 1), (8, 8, c.store.part.toNat), (0x10, 8, len), (0x18, 8, gs.length),
    (0x20, 8, 0x100 + len + records.length), (0x28, 8, c.id), (0x40, 64, c.store.dirty.toNat)])
  head.bytes 0 0x100 ++ (Mem.writeFields [] 0 len c.stateFields).bytes 0 len ++ records

/-- What the image has no field for (log 30). -/
def Core.keep (c : Core) : Kept :=
  ⟨c.job.slot, c.scalar.late, c.scalar.stash, c.xfer.sigs, c.usedSlots,
    if c.scalar.handler then c.xfer.saved else c.xfer.journal, c.scalar.sent, c.scalar.sentOut⟩

/-! ### Restore (R198) -/

/-- Expands the lines of a granule record: tags, payload, the line before; none for tag 1 on line 0. -/
def expandLines (payload : List Byte) : Nat → Nat → Option (List Byte) → Nat → Option (List Byte)
  | 0, _, _, _ => some []
  | n + 1, tags, prev, off =>
    let (line, used) : Option (List Byte) × Nat := match tags % 4 with
      | 0 => (some (List.replicate 64 0), 0)
      | 1 => (prev, 0)
      | 2 => (some (List.replicate 16 ((payload.drop off).take 4)).flatten, 4)
      | _ => (some ((payload.drop off).take 64), 64)
    match line with
    | none => none
    | some l => (expandLines payload n (tags / 4) (some l) (off + used)).map (l ++ ·)

/-- The pool that granule records give, as sparse bytes; none for a malformed record. -/
def expandRecords : Nat → List Byte → Mem → Option Mem
  | 0, _, m => some m
  | n + 1, bs, m =>
    let head := leNat (bs.take 8)
    let len := head / 2 ^ 16 % 2 ^ 16
    let pad := (len + 7) / 8 * 8
    match expandLines ((bs.drop 24).take len) 64 (leNat ((bs.drop 8).take 16)) none 0 with
    | none => none
    | some page => expandRecords n (bs.drop (24 + pad)) (m.write (4096 * (head % 512)) page)

/-- The streams and levels at offsets of a state block. -/
def readConf (rd : Nat → Nat → Nat) (streams levels : Nat) : Conf :=
  ⟨Vector.ofFn (fun k => Vector.ofFn (fun f => BitVec.ofNat 64 (rd (streams + 144 * k.val + 8 * f.val) 8))),
   Vector.ofFn (fun l => ⟨BitVec.ofNat 32 (rd (levels + 24 * l.val) 8), BitVec.ofNat 64 (rd (levels + 24 * l.val + 8) 8),
     BitVec.ofNat 64 (rd (levels + 24 * l.val + 16) 8)⟩)⟩

def readTile (rd : Nat → Nat → Nat) (off : Nat) : Tile :=
  let v := rd off 8
  let t := BitVec.ofNat 64 (rd (off + 8) 8)
  let state := match v / 2 ^ 16 % 4 with
    | 0 => TState.empty
    | 1 => .filling
    | 2 => .ready
    | _ => .draining
  ⟨BitVec.ofNat 9 v, BitVec.ofNat 6 (v / 2 ^ 9), v / 2 ^ 15 % 2 = 1, state, BitVec.ofNat 3 (v / 2 ^ 18), v / 2 ^ 21 % 2 = 1,
   BitVec.ofNat 4 (v / 2 ^ 22), BitVec.ofNat 6 (v / 2 ^ 26), t.extractLsb' 0 4, t.extractLsb' 4 60⟩

/-- A handle of a state block: VALID ones are translated again, and are REVOKED where that fails; one with a page that is
not present is left for the walk that requests it (R198, R212). -/
def Device.restoreHandle (d : Device) (pasid : BitVec 20) (c : Core) (h : BitVec 4) (rd : Nat → Nat → Nat) : Core :=
  let off := 0xE00 + 32 * h.toNat
  let va := rd off 8
  let len := rd (off + 8) 8
  let w := rd (off + 16) 8
  let fn := BitVec.ofNat 2 w
  let old := fun (st : HState) => c.setHandle h ⟨BitVec.ofNat 64 va, BitVec.ofNat 64 len, fn, st, []⟩
  match w / 2 ^ 8 % 4 with
  | 0 => old .invalid
  | 1 =>
    if len = 0 ∨ 2 ^ 26 < len ∨ 2 ^ 57 < va + len then old .revoked
    else
      match xlatPages d.pages pasid fn va (va + len) 16385 va [] with
      | .hit ps =>
        if ps.length ≤ 4096 - c.tableUsed h then
          c.setHandle h ⟨BitVec.ofNat 64 va, BitVec.ofNat 64 len, fn, .valid, ps⟩
        else old .revoked
      | .miss _ => let c := old .invalid; { c with restoring := c.restoring ++ [h] }
      | .fault _ _ => old .revoked
  | _ => old .revoked

/-- The core that an image restores on a core in its region-start state: none for a malformed image (R198).
`classes` are the region's tile classes, `kept` what the image has no field for (log 30). -/
def Device.restoreCore (d : Device) (pasid : BitVec 20) (c : Core) (classes : Vector TClass 8) (kept : Kept) (img : List Byte) :
    Option Core :=
  let m : Mem := Mem.write [] 0 (img.take (0x100 + 0x2B00 + 96 * 1024))
  let rd := fun off n => m.load (0x100 + off) n
  let len := m.load 0x10 8
  let c := { c with store := { c.store with part := BitVec.ofNat 6 (m.load 8 8), dirty := BitVec.ofNat 512 (m.load 0x40 64), classes := classes } }
  match expandRecords (m.load 0x18 8) (img.drop (0x100 + len)) [] with
  | none => none
  | some pool =>
    if !c.frameOk rd then none
    else
      let v := c.store.vregBytes
      let a := c.store.accuBytes
      let slots := (List.range ((len - 0x2B00) / 1024)).map (fun k =>
        { (kept.slots[k]?).getD ⟨0, 0, 1024, none, false⟩ with value := BitVec.ofNat 8192 (rd (0x2B00 + 1024 * k) 1024) })
      let spad : Mem := (pool.filter (fun (x : Host.Cell) => v + a ≤ x.1)).map (fun (x : Host.Cell) => (x.1 - v - a, x.2))
      let c := { c with
        vec := { c.vec with
          regs := Vector.ofFn (fun k => if 1024 * k.val < v then BitVec.ofNat 8192 (pool.load (1024 * k.val) 1024) else 0),
          masks := Vector.ofFn (fun k => BitVec.ofNat 256 (rd (0x2600 + 32 * k.val) 32)), replay := slots },
        mat := { c.mat with accs := Vector.ofFn (fun k => if 4096 * k.val < a then
          BitVec.ofNat 32768 (pool.load (v + 4096 * k.val) 4096) else 0) },
        store := { c.store with
          spad := spad,
          tiles := Vector.ofFn (fun k => readTile rd (0x2700 + 16 * k.val)) },
        scalar := { c.scalar with stash := kept.late }, xfer := { c.xfer with sigs := kept.sigs, saved := kept.saved },
        active := readConf rd 0x1000 0x1900, shadow := readConf rd 0x1C00 0x2500 }
      let regs : Vector Word 64 := Vector.ofFn (fun k => BitVec.ofNat 64 (rd (0x1A00 + 8 * k.val) 8))
      let f := fun k => rd (0x2680 + 8 * k) 8
      let c := c.loadFrame rd 0
      let within := decide (f 9 % 2 = 1)
      let vec := if within then { c.vec with replay := slots } else c.vec
      let xfer := if within then { c.xfer with saved := kept.saved } else c.xfer
      let c := { c with vec := vec, xfer := xfer, scalar := { c.scalar with
        regs := regs, slip := BitVec.ofNat 11 (f 0), fpmode := BitVec.ofNat 3 (f 1), fpflags := BitVec.ofNat 6 (f 2),
        tvec := BitVec.ofNat 64 (f 3) &&& ~~~3, tcause := BitVec.ofNat 8 (f 4), tval := BitVec.ofNat 64 (f 5),
        timer := BitVec.ofNat 32 (f 6), armed := f 6 ≠ 0, ien := BitVec.ofNat 3 (f 7), ipend := BitVec.ofNat 3 (f 8),
        handler := within, stash := kept.stash, sent := kept.sent, sentOut := kept.sentOut } }
      some ((List.range 16).foldl (fun c k => d.restoreHandle pasid c (BitVec.ofNat 4 k) rd) c)

end Sys2Proof.Machine
end

