-- ==== Sys2Proof/Machine/Ccb.lean ====
section
/-! DEFINITION. The continuation control block as the device reads and writes it, and notifications (spec/16
R289 to R293, spec/17 R297 to R299, R305). -/
namespace Sys2Proof.Machine

/-- States of a continuation in QWORD (R289). -/
def ccbIdle : Nat := 0
def ccbStarting : Nat := 1
def ccbRunning : Nat := 2
def ccbParked : Nat := 3
def ccbDone : Nat := 4
def ccbFaulted : Nat := 5
def ccbAborted : Nat := 6

/-- A number in a CCB: in host memory under its PASID with CXL.cache, else in the CCB window (R297). -/
def Device.ccbGet (d : Device) (c : Ccb) (off n : Nat) : Nat :=
  if d.hostCxl then ((d.readVa c.pasid (c.addr.toNat + off) n).map leNat).getD 0
  else d.mem.load (windowBase + c.addr.toNat + off) n

def Device.ccbPut (d : Device) (c : Ccb) (off n v : Nat) : Device :=
  if d.hostCxl then d.writeVa c.pasid (c.addr.toNat + off) (leBytes n v)
  else { d with mem := d.mem.store (windowBase + c.addr.toNat + off) n v }

/-- The continuation of a slot. -/
def Device.ccb? (d : Device) (slot : Nat) : Option Ccb := d.ccbs.find? (fun c => c.slot = slot)

def Device.onCcb (d : Device) (slot : Nat) (f : Ccb → Ccb) : Device :=
  { d with ccbs := d.ccbs.map (fun c => if c.slot = slot then f c else c) }

/-- STATE of a continuation. -/
def Device.ccbState (d : Device) (c : Ccb) : Nat := d.ccbGet c 0 8 % 16

/-- Whether a state is IDLE or terminal. -/
def ccbAtRest (st : Nat) : Bool := st = 0 || (4 ≤ st && st ≤ 6)

/-- A QWORD write that is no notification keeps LATCHED (R299). -/
def Device.ccbSetState (d : Device) (c : Ccb) (st : Nat) : Device :=
  d.ccbPut c 0 8 (st + d.ccbGet c 0 8 / 16 % 2 * 16)

/-- One more in a 64-bit counter of a CCB. -/
def Device.ccbCount (d : Device) (c : Ccb) (off : Nat) : Device := d.ccbPut c off 8 (d.ccbGet c off 8 + 1)

/-- The vector of a notification to an owner: its CPU's, else 2,040, else none (R305). -/
def Device.notifyVector (d : Device) (owner : Nat) : Option Nat :=
  if owner < 2040 ∧ !d.msixMask.getLsbD owner then some owner
  else if !d.msixMask.getLsbD 2040 then some 2040
  else none

def Device.ccbFault (d : Device) (c : Ccb) (f : FaultRec) : Device :=
  let d := d.ccbPut c 0x40 8 (f.kind + f.cause * 2 ^ 8 + f.engine * 2 ^ 16 + f.core * 2 ^ 32)
  let d := d.ccbPut c 0x48 8 f.tval.toNat
  let d := d.ccbPut c 0x50 8 f.pc.toNat
  d.ccbPut c 0x58 8 f.rcb.toNat

/-- A notification (R292): one store of STATE, CAUSE and LATCHED, then the owner word is read and the message
sent. -/
def Device.notify (d : Device) (c : Ccb) (st cause : Nat) : Device :=
  let d := d.ccbPut c 0 8 (st + 16 + cause * 2 ^ 8)
  let d := d.onCcb c.slot (fun c => { c with check := none })
  let owner := d.ccbGet c 8 8
  match (if owner = 2 ^ 64 - 1 then none else d.notifyVector owner) with
  | some v => { d.ccbCount c 0x78 with messages := v :: d.messages }
  | none => d.ccbCount c 0x80

/-- ACKSEQ, RESULT and REASON, written together (R298). -/
def Device.ccbAck (d : Device) (c : Ccb) (seq : BitVec 32) (result reason : Nat) : Device :=
  d.ccbPut c 0x18 8 (seq.toNat + result * 2 ^ 32 + reason * 2 ^ 40)

/-- The root's first core is dispatched: RUNNING, and under PARK the first policy check is set; at a relaunch the
continuation has not left RUNNING (R291, R299). -/
def Device.ccbRuns (d : Device) (slot : Nat) : Device :=
  match d.ccb? slot with
  | none => d
  | some c =>
    if d.ccbState c ≠ ccbStarting then d
    else
    let d := d.ccbSetState c ccbRunning
    if c.park then d.onCcb slot (fun c => { c with check := some (d.wall + usUnits 100) }) else d

end Sys2Proof.Machine
end

