-- ==== Sys2Proof/Machine/Sluice.lean ====
section
/-! DEFINITION. Regions: launch, placement, dispatch, fault domains, pre-emption, and how a region finishes
(spec/15 R269 to R286, spec/09 R192 to R194, R198, spec/19 R328 to R330). -/
namespace Sys2Proof.Machine

/-! ### The region control block (R269, R271) -/

def RState.num : RState → Nat
  | .idle => 0
  | .pending => 1
  | .running => 2
  | .joining => 3
  | .done => 4
  | .doneEmpty => 5
  | .faulted => 6
  | .aborted => 7
  | .rejected => 8

/-- The key of a region (log 35). -/
def regionKey (pasid : BitVec 20) (rcb : Word) : Nat := pasid.toNat * 2 ^ 64 + rcb.toNat

/-- A number in a control block; 0 where it cannot be read. -/
def Device.rcbGet (d : Device) (pasid : BitVec 20) (rcb : Word) (off n : Nat) : Nat :=
  ((d.readVa pasid (rcb.toNat + off) n).map leNat).getD 0

def Device.rcbPut (d : Device) (pasid : BitVec 20) (rcb : Word) (off n v : Nat) : Device :=
  d.writeVa pasid (rcb.toNat + off) (leBytes n v)

/-- Whether a control block can be read and written (R273). -/
def Device.rcbOk (d : Device) (pasid : BitVec 20) (rcb : Word) : Bool :=
  rcb.toNat % 256 = 0 && (d.readVa pasid rcb.toNat 256).isSome && d.canWriteVa pasid rcb.toNat 256

/-- STATUS, keeping LAUNCHES (R271). -/
def Device.putStatus (d : Device) (pasid : BitVec 20) (rcb : Word) (st : RState) (reason restarts : Nat)
    (sigfail leftover : Bool) : Device :=
  d.rcbPut pasid rcb 0xE8 4 (st.num + reason * 2 ^ 8 + restarts * 2 ^ 16 + b2n sigfail * 2 ^ 18 + b2n leftover * 2 ^ 19)

/-- The STATUS of a region that is not terminal. -/
def Device.showState (d : Device) (r : Region) : Device := d.putStatus r.pasid r.rcb r.state 0 r.restarts false false

/-- The error value of a signal write (R272). -/
def errorValue (st : RState) (reason : Nat) : Word := BitVec.ofNat 64 (2 ^ 63 + st.num * 2 ^ 8 + reason)

/-- The signal write; an address that cannot take it sets SIGFAIL instead (R272). -/
def Device.signalWrite (d : Device) (pasid : BitVec 20) (rcb addr v : Word) : Device :=
  if addr = 0 then d
  else if addr.toNat % 8 = 0 ∧ d.canWriteVa pasid addr.toNat 8 then d.writeVa pasid addr.toNat (leBytes 8 v.toNat)
  else d.rcbPut pasid rcb 0xE8 4 (Nat.lor (d.rcbGet pasid rcb 0xE8 4) (2 ^ 18))

/-! ### Launch (R270, R272, R273) -/

/-- The static children of a chain, as it stands (R282): it ends at a block that cannot be read, and at one
that it has met before (log 36), so it is no longer than there are addresses. -/
def Device.childChain (d : Device) (pasid : BitVec 20) : Nat → Word → List Word → List Word
  | 0, _, seen => seen.reverse
  | n + 1, a, seen =>
    if a = 0 ∨ seen.contains a then seen.reverse
    else
      match d.readVa64 pasid (a.toNat + 0x10) with
      | none => (a :: seen).reverse
      | some next => Device.childChain d pasid n next (a :: seen)

/-- A partition word that R203 accepts. -/
def partOk (w : Word) : Bool := w.toNat < 64 && w.toNat / 4 ≤ 8

/-- The classes and tiles of a tile layout block; the launch leaves every used tile EMPTY, clean and unpinned,
ranked in index order within its class (R206, R207). -/
def layoutClasses (bs : List Byte) : Vector TClass 8 :=
  Vector.ofFn (fun c =>
    let v := leNat ((bs.drop (8 * c.val)).take 8)
    ⟨BitVec.ofNat 4 v, BitVec.ofNat 6 (v / 2 ^ 4), v / 2 ^ 10 % 2 = 1⟩)

def layoutWord (bs : List Byte) (i : Nat) : Nat := leNat ((bs.drop (64 + 8 * i)).take 8)

def layoutTiles (bs : List Byte) : Vector Tile 64 :=
  let cls := layoutClasses bs
  Vector.ofFn (fun i =>
    let v := layoutWord bs i.val
    let c := v / 2 ^ 9 % 8
    let before := (List.range i.val).filter (fun j =>
      let u := layoutWord bs j
      u / 2 ^ 12 % 2 = 1 && u / 2 ^ 9 % 8 = c)
    { Tile.reset with
      baseg := BitVec.ofNat 9 v, lenm1 := ((cls[c]?).map (·.lenm1)).getD 0, used := v / 2 ^ 12 % 2 = 1,
      cls := BitVec.ofNat 3 c, rank := BitVec.ofNat 6 before.length })

/-- The checks of R206 on a layout, for a scratchpad whose trap save area starts at `tsave`. -/
def layoutOk (bs : List Byte) (tsave : Nat) : Bool :=
  let ts := (layoutTiles bs).toList.filter (·.used)
  ts.all (fun x => (((layoutClasses bs)[x.cls.toNat]?).map (·.valid)).getD false && x.base + x.len ≤ tsave) &&
  (List.range ts.length).all (fun i => (List.range i).all (fun j =>
    match ts[i]?, ts[j]? with
    | some x, some y => x.base + x.len ≤ y.base || y.base + y.len ≤ x.base
    | _, _ => true))

/-- A plane entry of a control block: the tag and the plane region it names, if it is VALID. -/
structure PlaneEntry where
  valid : Bool
  tag   : BitVec 3
  page  : Nat
  deriving DecidableEq, Repr

def planeEntry (w : Nat) : PlaneEntry := ⟨w % 2 = 1, BitVec.ofNat 3 (w / 2), w / 2 ^ 12 % 2 ^ 45⟩

/-- The unbound plane region whose base is at a page. -/
def Device.planeOfPage (d : Device) (page : Nat) : Option Plane := d.planes.find? (fun p => p.base = page * 4096)

def Device.planeEntryOk (d : Device) (mask : Nat) (e : PlaneEntry) : Bool :=
  !e.valid || (mask / 2 ^ e.tag.toNat % 2 = 1 && (match d.planeOfPage e.page with
    | some p => p.bound.isNone
    | none => false))

/-- The plane entries of a block are allowed (R273); no plane region is named with two tags, since it is bound to one
(R233). -/
def Device.planesOk (d : Device) (mask : Nat) : List PlaneEntry → Bool
  | [] => true
  | e :: es => d.planeEntryOk mask e && (!e.valid || es.all (fun x => !x.valid || x.page ≠ e.page || x.tag = e.tag)) && d.planesOk mask es

/-- The fields of a block, resolved from the parent where INHERIT says so (R270). -/
def Device.resolve (d : Device) (pasid : BitVec 20) (rcb : Word) (parent : Option Region) (ccb : Option Nat) : Region :=
  let g := fun off n => d.rcbGet pasid rcb off n
  let own := fun (b : Nat) => parent.isNone || g 0x28 1 / 2 ^ b % 2 = 1
  let p := parent
  let shape := g 0x68 8
  let dims := shape / 16 % 4 + 1
  let kind := shape % 4
  let counts := ((List.range (Nat.min dims 3)).map (fun k => g (0x70 + 4 * k) 4))
  let pick := fun {α : Type} (b : Nat) (mine : α) (f : Region → α) => if own b then mine else (p.map f).getD mine
  { key := regionKey pasid rcb, pasid := pasid, rcb := rcb, parent := p.map (·.key), ccb := ccb, state := .pending
    maxCores := pick 0 (g 0x18 2) (·.maxCores), gang := g 0x1A 1 % 2 = 1, prio := pick 1 (g 0x1A 1 / 2 % 8) (·.prio)
    domain := pick 2 (g 0x1A 1 / 16 % 4) (·.domain), part := pick 3 (BitVec.ofNat 6 (g 0x20 8)) (·.part)
    codeLo := pick 4 (BitVec.ofNat 64 (g 0x30 8)) (·.codeLo), codeTag := pick 4 (BitVec.ofNat 64 (g 0x38 8)) (·.codeTag)
    entry := pick 4 (g 0x40 2) (·.entry), entryVa := 0, paramRcb := pick 5 rcb (·.paramRcb)
    tilesVa := pick 6 (BitVec.ofNat 64 (g 0x50 8)) (·.tilesVa), classes := layoutClasses [], tiles := layoutTiles []
    spillBase := BitVec.ofNat 64 (g 0x58 8)
    spillSize := g 0x60 3, kind := kind, order := shape / 4 % 4, counts := counts, seed := none
    sigAddr := BitVec.ofNat 64 (g 0x88 8), sigVal := BitVec.ofNat 64 (g 0x90 8)
    imageBase := BitVec.ofNat 64 (g 0xC0 8), imageStride := g 0xC8 4
    chain := d.childChain pasid (2 ^ 64) (BitVec.ofNat 64 (g 0x08 8)) []
    total := if kind = 0 then counts.foldl (· * ·) 1 else 0
    dispatched := 0, started := 0, params := [], images := [], kept := [], children := 0, chained := false
    launchedAt := d.cycle, serial := d.serial, readySince := none, deficit := 0, restarts := 0, ending := none }

/-- The tile layout block of a region: all zero without one. -/
def Device.layoutBlock (d : Device) (r : Region) : Option (List Byte) :=
  if r.tilesVa = 0 then some (List.replicate 576 0) else d.readVa r.pasid r.tilesVa.toNat 576

/-- The partition word that a launch resolves to, whole. -/
def Device.partWord (d : Device) (r : Region) (own : Bool) : Word :=
  if own then BitVec.ofNat 64 (d.rcbGet r.pasid r.rcb 0x20 8) else r.part.setWidth 64

/-- The first failing check of R273, in order (0 when all pass), and the TVAL of LAUNCH-CODE. -/
def Device.launchReason (d : Device) (r : Region) (ownPart : Bool) : Nat × Word :=
  let mask := d.rcbGet r.pasid r.rcb 0x98 1
  let dims := d.rcbGet r.pasid r.rcb 0x68 1 / 16 % 4
  let part := d.partWord r ownPart
  let st := { Store.reset with part := part.setWidth 6 }
  let layout := d.layoutBlock r
  let seedVa := d.rcbGet r.pasid r.rcb 0x80 8
  let tags := (tagNums.filter (fun t => mask / 2 ^ t.toNat % 2 = 1))
  let entries := (List.range 4).map (fun k => planeEntry (d.rcbGet r.pasid r.rcb (0xA0 + 8 * k) 8))
  let sizeOk := r.spillSize = 0 || (r.spillSize % 8 = 0 && r.spillSize ≤ 2 ^ 20)
  if 2 ≤ r.kind ∨ dims = 3 ∨ (r.kind = 0 ∧ 2 ^ 40 ≤ r.total) then (1, 0)
  else if r.maxCores = 0 ∨ d.liveCores < r.maxCores ∨ r.domain = 3 then (2, 0)
  else if !partOk part ∨ !((layout.map (fun bs => layoutOk bs st.tsave)).getD true) ∨ !sizeOk ∨
      (r.imageBase ≠ 0 ∧ r.imageStride < 0x21DC00) then (3, 0)
  else
    match d.enterCode 1 r.codeLo r.codeTag r.entry with
    | .error v => (4, v)
    | .ok _ =>
      if (mask ≠ 0 ∧ !r.gang) ∨ tags.any (fun t => (d.tag t).owner.isSome) ∨ !d.planesOk mask entries then (5, 0)
      else if layout.isNone ∨ (r.kind = 1 ∧ seedVa ≠ 0 ∧ (d.readVa r.pasid seedVa 64).isNone) then (6, 0)
      else (0, 0)

/-- The seed record of a task region (R277). -/
def Device.seedRecord (d : Device) (r : Region) : Option (BitVec 512) :=
  let va := d.rcbGet r.pasid r.rcb 0x80 8
  if r.kind = 1 ∧ va ≠ 0 then (d.readVa r.pasid va 64).map (fun bs => BitVec.ofNat 512 (leNat bs)) else none

/-- What a launch has read besides the block adds to the error counters: its tile layout, its seed (R273, R325). -/
def Device.noteLaunch (d : Device) (r : Region) : Device :=
  let d := if r.tilesVa = 0 then d else d.noteVa r.pasid r.tilesVa.toNat 576
  let seed := d.rcbGet r.pasid r.rcb 0x80 8
  if r.kind = 1 ∧ seed ≠ 0 then d.noteVa r.pasid seed 64 else d

/-- Claims the tags of a region and binds its plane regions, whose step begins with an empty next plane (R230,
R233, R272). -/
def Device.claim (d : Device) (r : Region) : Device :=
  let mask := d.rcbGet r.pasid r.rcb 0x98 1
  let d := tagNums.foldl (fun d t =>
    if mask / 2 ^ t.toNat % 2 = 1 then d.setTag t { Tag.reset with owner := some r.key } else d) d
  (List.range 4).foldl (fun d k =>
    let e := planeEntry (d.rcbGet r.pasid r.rcb (0xA0 + 8 * k) 8)
    if e.valid then
      { d with planes := d.planes.map (fun p =>
          if p.base = e.page * 4096 then { p with bound := some (e.tag, r.key), next := [] } else p) }
    else d) d

/-- A launch of the block at `rcb` (R272, R273): the device after it, and the reason, 0 when the region is
PENDING or, with a product of 0, JOINING. -/
def Device.launch (d : Device) (pasid : BitVec 20) (rcb : Word) (parent : Option Nat) (ccb : Option Nat) : Device × Nat :=
  if !d.rcbOk pasid rcb then (d.noteVa pasid rcb.toNat 256, 6)
  else if (d.region? (regionKey pasid rcb)).isSome then (d, 7)
  else
    let p := parent.bind d.region?
    let d := d.noteVa pasid rcb.toNat 256
    let d := d.rcbPut pasid rcb 0xEC 4 ((d.rcbGet pasid rcb 0xEC 4 + 1) % 2 ^ 32)
    let r := d.resolve pasid rcb p ccb
    let d := d.noteLaunch r
    let (reason, tval) := d.launchReason r (p.isNone || d.rcbGet pasid rcb 0x28 1 / 2 ^ 3 % 2 = 1)
    let d := if reason = 0 ∨ 4 ≤ reason then d.noteCode 1 r.codeLo r.codeTag r.entry else d
    if reason ≠ 0 then
      let d := d.putStatus pasid rcb .rejected reason 0 false false
      let d := if reason = 4 then d.rcbPut pasid rcb 0xD8 8 tval.toNat else d
      (d.signalWrite pasid rcb r.sigAddr (errorValue .rejected reason), reason)
    else
      let entryVa := match d.enterCode 1 r.codeLo r.codeTag r.entry with
        | .ok a => a
        | .error _ => 0
      let layout := (d.layoutBlock r).getD []
      let st : RState := if r.kind = 0 ∧ r.total = 0 then .joining else .pending
      let r := { r with entryVa := entryVa, seed := d.seedRecord r, state := st, classes := layoutClasses layout,
                        tiles := layoutTiles layout }
      let d := d.writeVa pasid (rcb.toNat + 0xD0) (List.replicate 24 0)
      let d := d.writeVa pasid (rcb.toNat + 0xF0) (List.replicate 16 0)
      let d := (d.showState r).claim r
      ({ d with regions := d.regions ++ [r], serial := d.serial + 1 }, 0)

/-! ### How a region ends (R272, R274, R299) -/

/-- Cores of a region: those that run, and those that halted with records in their deques. -/
def State.coresOf (s : State) (key : Nat) : List Core := s.cores.filter (fun c => c.job.region = some key)

def State.runningOf (s : State) (key : Nat) : List Core := (s.coresOf key).filter (·.running)

/-- A region waits to end: it dispatches, restores and launches nothing more. -/
def Region.awaitEnd (r : Region) (x : Ending) : Region :=
  { r with state := .joining, images := [], kept := [], chained := true, ending := some x }

/-- Changes every core for which `p` holds. -/
def State.mapCores (s : State) (p : Core → Bool) (f : Core → Core) : State :=
  { s with core := if p s.core then f s.core else s.core, others := s.others.map (fun c => if p c then f c else c) }

/-- What the cores for which `p` holds have asked of peers goes on without them, as do their AtomicOps (R192, R315). -/
def State.dropOut (s : State) (p : Core → Bool) : State :=
  { s with dev := s.dev.orphanReqs (fun id => s.cores.any (fun c => c.id = id && p c)) }

/-- A core stops for good: what is in flight is discarded, and no token is pushed (R192). -/
def Core.stop (c : Core) (now : Nat) : Core :=
  { c with
    running := false, fails := [], fatal := none, stopped := false, entry := false, walk := none, restoring := [],
    scalar := { c.scalar with flights := [], hold := .none, late := [], stash := [], sent := none, sentOut := none },
    vec := { c.vec with flights := [] }, mat := { c.mat with queue := [], sigs := [] },
    xfer := { c.xfer with journal := [], sigs := [], lines := [], sent := none }, queues := { c.queues with pushes := [] },
    job := { c.job with freeAt := now, preempt := false, preemptFor := none } }

/-- Stops the running cores for which `p` holds. -/
def State.stopWhere (s : State) (p : Core → Bool) : State :=
  let q := fun (c : Core) => c.running && p c
  (s.dropOut q).mapCores q (fun c => c.stop s.dev.cycle)

/-- Stops every running core of a region. -/
def State.stopRegion (s : State) (key : Nat) : State := s.stopWhere (fun c => c.job.region = some key)

/-- A core gives back what it holds of a region that has ended, and is free to every region from this cycle (R274). -/
def Core.leave (c : Core) (now : Nat) : Core :=
  { c with deque := .reset, job := { c.job with region := none, slot := 0, freeAt := now } }

/-- The cores of a region stop, and give back what they hold of it. -/
def State.freeRegion (s : State) (key : Nat) : State :=
  (s.stopRegion key).mapCores (fun c => c.job.region = some key) (fun c => c.leave s.dev.cycle)

/-- Whether a plane region is bound to a region. -/
def Plane.boundBy (p : Plane) (key : Nat) : Bool :=
  match p.bound with
  | some (_, k) => k == key
  | none => false

/-- The stores of this cycle to the plane regions of a region are dropped: its step ends here (R233, R236). -/
def Device.dropStores (d : Device) (key : Nat) : Device :=
  let lost := fun (x : PlaneStore) => d.planes.any (fun p => p.boundBy key && decide (p.base ≤ x.addr) && decide (x.addr < p.base + p.len))
  { d with settling := d.settling.filter (fun x => !lost x) }

/-- Starts a continuation's root (R299): ARGS stored into PARAM, the launch, STARTING, and a notification when the
launch is rejected. -/
def Device.startRoot (d : Device) (slot : Nat) (c : Ccb) (root args : Word) : Device :=
  let d := if args = 0 then d else d.rcbPut c.pasid root 0x48 8 args.toNat
  let d := d.onCcb slot (fun c => { c with park := d.ccbGet c 0x20 8 % 2 = 1, heldArgs := none,
                                           root := some (regionKey c.pasid root) })
  let d := d.ccbSetState c ccbStarting
  let (d, reason) := d.launch c.pasid root none (some slot)
  if reason = 0 then d
  else
    let tval := if reason = 4 then BitVec.ofNat 64 (d.rcbGet c.pasid root 0xD8 8) else 0
    (d.ccbFault c ⟨2, reason, 0, 0, tval, 0, root⟩).notify c ccbFaulted reason

/-- Launches every START held by GATE whose root has become terminal (R283, R299). -/
def Device.startHeld (d : Device) : Device :=
  d.ccbs.foldl (fun d c =>
    match c.heldArgs with
    | some (args, root) =>
      if ccbAtRest (d.ccbState c) ∧ (d.region? (regionKey c.pasid root)).isNone then
        (d.startRoot c.slot c root args).ccbCount c 0x60
      else d
    | none => d) d

/-- What a root's end does to its continuation (R293, R299). -/
def Device.endCcb (d : Device) (r : Region) (st : RState) (reason : Nat) (f : FaultRec) : Device :=
  match r.parent, r.ccb.bind d.ccb? with
  | none, some c =>
    match st with
    | .done | .doneEmpty => d.notify c ccbDone 0
    | .aborted => (d.ccbFault c { f with kind := 3, cause := 0 }).notify c ccbAborted 0
    | .rejected => (d.ccbFault c ⟨2, reason, 0, 0, 0, 0, r.rcb⟩).notify c ccbFaulted reason
    | _ => (d.ccbFault c { f with kind := 1 }).notify c ccbFaulted reason
  | _, _ => d

def FaultRec.none : FaultRec := ⟨0, 0, 0, 0, 0, 0, 0⟩

/-- A region reaches a terminal state (R272): tags released, planes unbound, records discarded, STATUS and the
signal written, and its parent and continuation told. -/
def State.finishRegion (s : State) (r : Region) (x : Ending) : State :=
  let key := r.key
  let st := x.state
  let reason := x.reason
  let d := s.dev.dropStores key
  let free := fun (p : Plane) => if p.boundBy key then { p with bound := none, next := [] } else p
  let tags := d.tags.map (fun t => if t.owner = some key then Tag.reset else t)
  let orphan := fun (x : Region) => if r.parent = some x.key then { x with children := x.children - 1 } else x
  let regions := (d.regions.filter (fun x => x.key ≠ key)).map orphan
  let undo := d.undo.filter (fun u => u.region ≠ key)
  let d := { d with tags := tags, planes := d.planes.map free, undo := undo, regions := regions }
  let d := d.putStatus r.pasid r.rcb st reason r.restarts false x.left
  let v := if st = .done ∨ st = .doneEmpty then r.sigVal else errorValue st reason
  let d := (d.signalWrite r.pasid r.rcb r.sigAddr v).endCcb r st reason x.fault
  { s with dev := d.startHeld }

/-- Whether a write of a region to a peer is not acknowledged: the signal of its end covers it (R272). -/
def Device.writesOut (d : Device) (key : Nat) : Bool := d.peerReqs.any (fun q => q.region = some key && q.isWrite)

/-- Whether a region whose cores have stopped can end: the writes to peers of its own are acknowledged, and its descendants have
ended, whose writes its signal covers too (R272, R293). -/
def Device.canEnd (d : Device) (key : Nat) : Bool := !d.writesOut key && !d.regions.any (fun r => r.parent = some key)

/-- A region comes to its end (R272): its cores stop and give back what they hold, and it reaches its terminal state, or does so
once the writes that its signal covers are acknowledged. -/
def State.endRegion (s : State) (key : Nat) (st : RState) (reason : Nat) (f : FaultRec) : State :=
  match s.dev.region? key with
  | none => s
  | some r =>
    if r.ending.isSome then s
    else
      let left := (s.coresOf key).any (fun c => c.deque.bank ≠ [] || c.deque.spill ≠ 0)
      let s := s.freeRegion key
      if s.dev.canEnd key then s.finishRegion r ⟨st, reason, f, left⟩
      else { s with dev := s.dev.onRegion key (·.awaitEnd ⟨st, reason, f, left⟩) }

/-! ### Fault domains (R192, R193, R329) -/

/-- The regions below a region, children first in launch order. -/
def Device.below (d : Device) (key : Nat) : Nat → List Nat
  | 0 => []
  | n + 1 => ((d.regions.filter (fun r => r.parent = some key)).map (fun r => r.key :: Device.below d r.key n)).flatten

/-- Every region below `key` ends ABORTED with REASON 0, the deepest first. -/
def State.abortBelow (s : State) (key : Nat) : State :=
  (s.dev.below key (s.dev.regions.length + 1)).reverse.foldl (fun s k => s.endRegion k .aborted 0 .none) s

/-- The fault record of a region's control block (R192). -/
def Device.recordFault (d : Device) (r : Region) (f : FaultRec) : Device :=
  let d := d.rcbPut r.pasid r.rcb 0xD0 8 (f.cause + f.engine * 2 ^ 8 + f.core * 2 ^ 16)
  let d := d.rcbPut r.pasid r.rcb 0xD8 8 f.tval.toNat
  d.rcbPut r.pasid r.rcb 0xE0 8 f.pc.toNat

/-- Applies a region's undo records, newest first, and discards them (R329). -/
def Device.rollBack (d : Device) (key : Nat) : Device :=
  let d' := (d.undo.filter (fun u => u.region = key)).foldl (fun d u =>
    { d with
      mem := d.mem.write (64 * u.line) u.old,
      poison := if u.poison then (if d.poison.contains u.line then d.poison else u.line :: d.poison)
        else d.poison.filter (· ≠ u.line),
      flaws := d.flaws.filter (fun f => f.line ≠ u.line),
      lineKeys := (if u.tag = 0 then [] else [(u.line, u.tag)]) ++ d.lineKeys.filter (fun k => k.1 ≠ u.line) }) d
  { d' with undo := d'.undo.filter (fun u => u.region ≠ key) }

/-- A relaunch under RESTARTABLE: the region starts again as PENDING (R193, R278). -/
def State.relaunchNow (s : State) (r : Region) : State :=
  let d := (s.dev.dropStores r.key).rollBack r.key
  let r' := { r with
    state := if r.kind = 0 ∧ r.total = 0 then .joining else .pending, dispatched := 0, started := 0, params := [], images := [],
    kept := [], children := 0, chained := false, launchedAt := d.cycle, readySince := none, restarts := r.restarts + 1,
    ending := none }
  let fresh := fun (t : Tag) => if t.owner = some r.key then { Tag.reset with owner := t.owner } else t
  let empty := fun (p : Plane) => if p.boundBy r.key then { p with next := [] } else p
  let d := { d with tags := d.tags.map fresh, planes := d.planes.map empty }
  let d := (d.onRegion r.key (fun _ => r')).showState r'
  { s with dev := d.rcbPut r.pasid r.rcb 0xF0 8 0 }

/-- The same, once the descendants have ended: till then the region is to end as PENDING. -/
def State.relaunch (s : State) (r : Region) (f : FaultRec) : State :=
  let s := s.freeRegion r.key
  if s.dev.canEnd r.key then s.relaunchNow r
  else { s with dev := s.dev.onRegion r.key (·.awaitEnd ⟨.pending, 0, f, false⟩) }

/-- A fatal error of a region, by its domain (R193): CONTAIN, PROPAGATE to the parent, or RESTARTABLE. Each record names
the region that it is made for (R297; log 73). -/
def State.faultRegion : Nat → State → Nat → FaultRec → State
  | 0, s, _, _ => s
  | n + 1, s, key, f =>
    match s.dev.region? key with
    | none => s
    | some r =>
      if r.ending.isSome then s
      else
        let f := { f with rcb := r.rcb }
        let s := s.stopRegion key
        let s := ({ s with dev := s.dev.recordFault r f } : State).abortBelow key
        if r.domain = 2 ∧ r.restarts < 2 then s.relaunch r f
        else
          let s := s.endRegion key .faulted f.cause f
          if r.domain = 1 then
            match r.parent with
            | some p => State.faultRegion n s p f
            | none => s
          else s

/-- Where the record's PC stands (R192). -/
def Fail.record (f : Fail) (core : Nat) (rcb : Word) : FaultRec :=
  ⟨1, f.cause.toNat, f.engine.num, core, f.tval, f.pc, rcb⟩

/-- The cause with which the current core ends: a fatal one as it stands, or in a handler DOUBLETRAP with the
second trap's cause, which is raised at S: its program counter is that of the faulting word of S, or S's as it stands (R125, R189,
R192). -/
def Core.fatalFail (c : Core) : Option Fail :=
  match c.fatal with
  | some f => some f
  | none =>
    c.cause.map (fun f =>
      if !f.isFatal && c.scalar.handler then
        ⟨.s, 0x87, f.cause.setWidth 64, if f.engine = .s then f.pc else c.engS.pc⟩
      else f)

/-- A fatal error stops the core, and its region's domain acts (R192, R193). -/
def State.fatalStop (s : State) : State :=
  match s.core.fatalFail with
  | none => s
  | some f =>
    let region := s.dev.regionOf s.core
    let s := (s.dropOut (fun c => c.id = s.core.id)).onCore (fun c => c.stop s.dev.cycle)
    match region with
    | none => s
    | some r => State.faultRegion (s.dev.regions.length + 1) s r.key (f.record s.core.id r.rcb)

def execFatalError (s : State) : Host.Outcome State Fault Refusal := .next s.fatalStop

/-! ### HALT retires (R18, R125, R231, R274) -/

/-- Everything that a HALT waits for has drained; in a handler it waits for S's own words alone (R18, R125, R131;
log 82). -/
def Core.drained (c : Core) : Bool :=
  let q := c.queues
  (match c.scalar.hold with
   | .halt _ => true
   | _ => false) &&
  c.scalar.flights = [] && c.scalar.late = [] && q.pushes = [] &&
  (c.scalar.handler ||
    (c.vec.flights = [] && c.mat.queue = [] && c.xfer.journal = [] && c.xfer.sigs = [] &&
     q.tok.all (· = 0) && q.pend.all (· = 0) && q.cond = [] && q.held = [] && q.pathV = [] && q.pathM = [] &&
     q.pathX = []))

/-- One more in a 32-bit counter of a region's control block. -/
def Device.rcbCount (d : Device) (r : Region) (off : Nat) : Device :=
  d.rcbPut r.pasid r.rcb off 4 (d.rcbGet r.pasid r.rcb off 4 + 1)

/-- The current core halts: it leaves its tags, is free from this cycle, and keeps its slot while its deque holds
records. -/
def State.haltCore (s : State) : State :=
  let s := s.leaveTags
  let s := match s.dev.regionOf s.core with
    | some r => { s with dev := s.dev.rcbCount r 0xF8 }
    | none => s
  s.onCore (fun c =>
    { c with running := false, scalar := { c.scalar with hold := .none },
             job := { c.job with freeAt := s.dev.cycle, preempt := false, preemptFor := none } }.giveUpSlot s.dev.cycle)

def execHaltRetire (s : State) : Host.Outcome State Fault Refusal := .next s.haltCore

/-! ### Placement (R274, R275, R279, R280) -/

/-- The core of an ID, idle where it is not listed. -/
def State.coreOf (s : State) (id : Nat) : Core := (s.cores.find? (fun c => c.id = id)).getD (Core.idle id)

/-- Puts a core in its place, listing it where it was idle. -/
def State.putCore (s : State) (c : Core) : State :=
  if s.cores.any (fun x => x.id = c.id) then s.setCore c else { s with others := s.others ++ [c] }

/-- Inserts into the shared order of free cores: the cycle in which each became free, then the lower ID. -/
def insertFree (x : Nat × Nat) : List (Nat × Nat) → List (Nat × Nat)
  | [] => [x]
  | y :: ys => if x.1 < y.1 ∨ (x.1 = y.1 ∧ x.2 < y.2) then x :: y :: ys else y :: insertFree x ys

/-- The free cores, as (cycle free, ID), in the shared order (R274). -/
def State.freeCores (s : State) : List (Nat × Nat) :=
  ((List.range s.dev.liveCores).filter (fun id => !(s.coreOf id).running && s.dev.present (s.dev.dieOf id) &&
      !s.dev.stopAt.any (fun x => x.1 = s.dev.dieOf id))).foldl
    (fun xs id => insertFree ((s.coreOf id).job.freeAt, id) xs) []

/-- Cores of a gang (R275). -/
def Region.gangSize (r : Region) : Nat := if r.kind = 0 then Nat.min r.maxCores r.total else r.maxCores

/-- Iterations or core starts still due (R275, R280). -/
def Region.undispatched (r : Region) : Nat :=
  if r.state ≠ .pending ∧ r.state ≠ .running then 0
  else if r.gang then (if r.started = 0 then r.gangSize else 0)
  else if r.kind = 0 then r.total - r.dispatched
  else r.maxCores - r.started

/-- Ready work (R280). -/
def Region.ready (r : Region) : Bool := 0 < r.undispatched || r.images ≠ []

/-- Whether a region's continuation is parked (R303). -/
def Device.isParked (d : Device) (r : Region) : Bool :=
  match r.ccb.bind d.ccb? with
  | some c => d.ccbState c = ccbParked
  | none => false

/-- Slots that a region's cores or images hold (R274). -/
def State.usedSlots (s : State) (r : Region) : List Nat := (s.coresOf r.key).map (·.job.slot) ++ r.images

/-- The lowest slot that nothing holds. -/
def State.freeSlot (s : State) (r : Region) : Option Nat :=
  (List.range r.maxCores).find? (fun k => !(s.usedSlots r).contains k)

/-- How many cores a region can take now. -/
def State.need (s : State) (r : Region) : Nat :=
  if s.dev.isParked r then 0
  else if r.gang then (if r.images ≠ [] then r.images.length else r.undispatched)
  else Nat.min (r.maxCores - (s.runningOf r.key).length) (r.images.length + r.undispatched)

/-- Whether a free core was pre-empted for another region that still needs cores, and that this one may not overtake
(R281; log 87). -/
def State.reserved (s : State) (r : Region) (id : Nat) : Bool :=
  match (s.coreOf id).job.preemptFor with
  | none => false
  | some k =>
    match s.dev.region? k with
    | none => false
    | some q => k ≠ r.key && r.prio ≤ q.prio && 0 < s.need q

/-- Whether a free core may serve a region: one with records serves its own only (R274). -/
def State.mayServe (s : State) (r : Region) (id : Nat) : Bool :=
  !s.reserved r id &&
  (match (s.coreOf id).job.region with
   | some k => k = r.key && r.images = []
   | none => r.images ≠ [] || (s.freeSlot r).isSome)

/-- The sets of cores among which a gang of G may be placed (R275). -/
def Device.placements (d : Device) (g : Nat) : List (Nat → Bool) :=
  if g ≤ 8 then
    ((List.range d.dies).map (fun die => (List.range 3).map (fun cl =>
      fun id => d.dieOf id = die && (d.place id).1 = cl))).flatten
  else if g ≤ d.perDie then (List.range d.dies).map (fun die => fun id => d.dieOf id = die)
  else [fun _ => true]

/-- The cores a gang of G takes: of the placements whose G-th free core exists, the one where it comes
earliest. -/
def Device.gangPick (d : Device) (g : Nat) (free : List (Nat × Nat)) : Option (List Nat) :=
  let ids := free.map (·.2)
  let tries := (d.placements g).filterMap (fun p =>
    let xs := (ids.filter p).take g
    if xs.length = g then (xs.getLast?.map (fun l => (ids.idxOf l, xs))) else none)
  (tries.foldl (fun (best : Option (Nat × List Nat)) t =>
    match best with
    | none => some t
    | some b => if t.1 < b.1 then some t else some b) none).map (·.2)

/-- Inserts into the order in which regions take cores: priority, then deficit, then launch (R280). -/
def insertRegion (r : Region) : List Region → List Region
  | [] => [r]
  | x :: xs =>
    if x.prio < r.prio ∨ (x.prio = r.prio ∧ (x.deficit < r.deficit ∨ (x.deficit = r.deficit ∧ r.serial < x.serial))) then
      r :: x :: xs
    else x :: insertRegion r xs

/-- Which region takes which free cores. -/
def State.planOver (s : State) : List Region → List (Nat × Nat) → List (Nat × List (Nat × Nat))
  | [], _ => []
  | r :: rs, free =>
    let can := free.filter (fun x => s.mayServe r x.2)
    let n := s.need r
    let taken := if n = 0 then []
      else if r.gang then
        match s.dev.gangPick n can with
        | some ids => can.filter (fun x => ids.contains x.2)
        | none => []
      else can.take n
    (r.key, taken) :: s.planOver rs (free.filter (fun x => !taken.contains x))

def State.plan (s : State) : List (Nat × List (Nat × Nat)) :=
  let rs := s.dev.regions.filter Region.ready
  if rs = [] then [] else s.planOver (rs.foldl (fun xs r => insertRegion r xs) []) s.freeCores

/-- Cycles from the launch becoming visible, or the core becoming free, to the first word (R279). -/
def dispatchLatency : Nat := 613

/-- The cycle in which the first words issue on the cores that a region takes now: a free core is given at once, and runs
from 613 cycles after the later of the launch and its becoming free (R279, R280; log 88). -/
def State.startCycle (s : State) (r : Region) (ids : List Nat) : Nat :=
  Nat.max (s.dev.cycle + 1)
    ((ids.map (fun id => (s.coreOf id).job.freeAt)).foldl Nat.max r.launchedAt + dispatchLatency)

/-- Whether a core has come to its first word. -/
def Device.live (d : Device) (c : Core) : Bool := c.running && decide (c.job.started ≤ d.cycle)

/-- The cores that a region takes next: a whole gang, or one core. -/
def State.takes (s : State) (r : Region) : List Nat :=
  match s.plan.find? (fun p => p.1 = r.key) with
  | none => []
  | some (_, xs) => if r.gang then xs.map (·.2) else (xs.take 1).map (·.2)

/-! ### Dispatch (R277, R278) -/

/-- The parameter block (R278): none where its pointer or the block cannot be read. -/
def Device.readParams (d : Device) (r : Region) : Option (List Word) :=
  match d.readVa64 r.pasid (r.paramRcb.toNat + 0x48) with
  | none => none
  | some p =>
    if p = 0 then some [0, 0, 0]
    else (d.readVa r.pasid p.toNat 24).map (fun bs => (List.range 3).map (fun k => BitVec.ofNat 64 (leNat ((bs.drop (8 * k)).take 8))))

/-- What such a read adds to the error counters. -/
def Device.noteParams (d : Device) (r : Region) : Device :=
  let d := d.noteVa r.pasid (r.paramRcb.toNat + 0x48) 8
  match d.readVa64 r.pasid (r.paramRcb.toNat + 0x48) with
  | some p => if p = 0 then d else d.noteVa r.pasid p.toNat 24
  | none => d

/-- A core in its region-start state for a region and slot, to run from cycle `start` (R277); it keeps the records of a
slot it still holds, and has no victim yet (R265). -/
def State.startCore (s : State) (r : Region) (id slot n start : Nat) : Core :=
  let old := s.coreOf id
  let (i0, i1, i2) := if r.kind = 0 then indexPoint r.order r.counts n else (0, 0, 0)
  let c := Core.idle id
  let eng := EngineState.reset r.entryVa
  let st := { Store.reset with part := r.part, classes := r.classes, tiles := r.tiles }
  let p := fun k => (r.params[k]?).getD 0
  let c := { c with
    running := true, engS := eng, engV := eng, engM := eng, engX := eng, store := st,
    deque := if old.job.region = some r.key then { old.deque with lastNear := none, lastFar := none } else .reset,
    job := ⟨some r.key, slot, start, old.job.freeAt, false, none⟩ }
  let regs : List (BitVec 6 × Word) := [(1, BitVec.ofNat 64 i0), (2, BitVec.ofNat 64 i1), (3, BitVec.ofNat 64 i2),
    (4, BitVec.ofNat 64 (if r.kind = 0 then n else slot)), (5, p 0), (6, p 1), (7, p 2), (60, r.rcb),
    (61, BitVec.ofNat 64 st.tsave)]
  let c := regs.foldl (fun c x => c.setReg x.1 x.2) c
  match r.seed with
  | some rec' => if slot = 0 ∧ r.started = 0 then { c with deque := { c.deque with bank := c.deque.bank ++ [rec'] } } else c
  | none => c

/-- What the last program of a core has still out is not that of the next. -/
def Device.freshCore (d : Device) (id : Nat) : Device :=
  { d.orphanReqs (· = id) with lostLines := d.lostLines.filter (fun x => x.1 ≠ id) }

/-- One core start of a region. -/
def State.startOne (s : State) (key id start : Nat) : State :=
  match s.dev.region? key with
  | none => s
  | some r =>
    let own := (s.coreOf id).job.region = some key
    match (if own then some (s.coreOf id).job.slot else s.freeSlot r) with
    | none => s
    | some slot =>
      let n := r.dispatched
      let s := s.putCore (s.startCore r id slot n start)
      let s := { s with dev := s.dev.freshCore id }
      let n' := if r.kind = 0 then n + 1 else n
      let upd := fun (r : Region) => { r with dispatched := n', started := r.started + 1, readySince := some s.dev.wall }
      { s with dev := (s.dev.onRegion key upd).rcbPut r.pasid r.rcb 0xF0 8 n' }

/-- The claimed tags of a gang that starts: its members and scope (R230, R275). -/
def Device.enrol (d : Device) (key : Nat) (ids : List Nat) : Device :=
  let wide := match ids with
    | [] => false
    | a :: as => as.any (fun b => d.dieOf b ≠ d.dieOf a)
  let ms := ids.map (fun id => (⟨id, false, false, false, 0, 0, false, none, false, none⟩ : Member))
  { d with tags := d.tags.map (fun t => if t.owner = some key then { t with device := wide, members := ms } else t) }

/-- A dispatch (R277, R278): the first one of a region reads the parameters, or rejects the region. -/
def State.dispatch (s : State) (key : Nat) : State :=
  match s.dev.region? key with
  | none => s
  | some r =>
    let ids := s.takes r
    if ids = [] then s
    else
      let params := if r.state = .pending then s.dev.readParams r else some r.params
      match params with
      | none => s.endRegion key .rejected 6 .none
      | some ps =>
        let first := r.state = .pending
        let start := s.startCycle r ids
        let d := if first then s.dev.noteParams r else s.dev
        let d := d.onRegion key (fun r => { r with params := ps, state := .running })
        let d := if first then d.putStatus r.pasid r.rcb .running 0 r.restarts false false else d
        let d := if first ∧ r.parent.isNone then (match r.ccb with
          | some slot => d.ccbRuns slot
          | none => d) else d
        let d := if r.gang then d.enrol key ids else d
        ids.foldl (fun s id => s.startOne key id start) { s with dev := d }

def execDispatch (rcb : Nat) (s : State) : Host.Outcome State Fault Refusal := .next (s.dispatch rcb)

/-! ### Restore (R198, R280, R281) -/

/-- A member of a tag moves with its core, and so do its stores to the next plane and the writes it has lost. -/
def Device.moveMember (d : Device) (key old new : Nat) : Device :=
  let move := fun (m : Member) => if m.core = old then { m with core := new } else m
  let store := fun (x : PlaneStore) => if x.core = old then { x with core := new } else x
  { d with
    tags := d.tags.map (fun t => if t.owner = some key then { t with members := t.members.map move } else t),
    planes := d.planes.map (fun p => { p with next := p.next.map store }), settling := d.settling.map store,
    lostLines := d.lostLines.map (fun x => if x.1 = old then (new, x.2) else x) }

/-- Restores the image of a slot on a core, to run from cycle `start`; a malformed image is DOUBLETRAP for the region (R198). One
that cannot be read, a page missing or poisoned, counts as malformed, and the fault record names the restoring core with ENGINE,
TVAL and PC 0: the model's choices (log 108). -/
def State.restoreOne (s : State) (key slot id start : Nat) : State :=
  match s.dev.region? key with
  | none => s
  | some r =>
    let base := r.imageBase.toNat + r.imageStride * slot
    let kept := (r.kept.find? (fun k => k.slot = slot)).getD ⟨slot, [], [], [], [], [], none, none⟩
    let s := { s with dev := s.dev.onRegion key (fun r =>
      { r with images := r.images.filter (· ≠ slot), kept := r.kept.filter (fun k => k.slot ≠ slot),
               readySince := some s.dev.wall }) }
    let img := (s.dev.readVa r.pasid (base + 0x20) 8).bind (fun bs => s.dev.readVa r.pasid base (leNat bs))
    match img.bind (s.dev.restoreCore r.pasid (Core.idle id) r.classes kept) with
    | none => State.faultRegion (s.dev.regions.length + 1) s key ⟨1, 0x87, 0, id, 0, 0, r.rcb⟩
    | some c =>
      let from' := leNat (((img.getD []).drop 0x28).take 2)
      let c := { c with running := true, walk := c.restoring.head?.map c.restoreWalk, job := ⟨some key, slot, start, (s.coreOf id).job.freeAt, false, none⟩ }
      let s := s.putCore c
      { s with dev := (s.dev.freshCore id).moveMember key (from' + 2 ^ 16) id }

/-- A restore: one image, or a gang's images as one. While they move, members stand under their old core's number
plus 2^16, so that two moves cannot meet. -/
def State.restore (s : State) (key : Nat) : State :=
  match s.dev.region? key with
  | none => s
  | some r =>
    let ids := s.takes r
    let start := s.startCycle r ids
    (List.zip r.images ids).foldl (fun s x => s.restoreOne key x.1 x.2 start) s

def execRestore (rcb : Nat) (s : State) : Host.Outcome State Fault Refusal := .next (s.restore rcb)

/-! ### Pre-emption (R194, R281) -/

/-- Whether a core's deque holds records. -/
def Core.hasRecords (c : Core) : Bool := c.deque.bank ≠ [] || 0 < c.deque.spill

/-- Whether a core stands at a boundary where a pre-emption is taken: as for a trap, but never during TRET, and with no record in
its deque (R194, R281; log 30). -/
def State.stands (s : State) (c : Core) : Bool :=
  ({ s with core := c } : State).canStop && !c.returning && !c.hasRecords

/-- A core, or with a gang every running core of it (R281). -/
def State.together (s : State) (c : Core) : List Core :=
  match s.dev.regionOf c with
  | some r => if r.gang then s.runningOf r.key else [c]
  | none => []

/-- Whether a core, or with a gang every running core of it, stands so (R281). -/
def State.allStand (s : State) (c : Core) : Bool := (s.together c) ≠ [] && (s.together c).all s.stands

/-- Whether a region's choice of a core falls: it, or a core of its gang, has come by records before it stopped, and the region
looks for another (R281; log 87). -/
def State.escapes (s : State) (c : Core) : Bool :=
  c.job.preemptFor.isSome && !c.entry && (s.together c).any Core.hasRecords

/-- The cores that a pre-emption is asked of stop where they stand, and their engines issue no more (R194); none with records is
taken (R281). -/
def State.stopPreempted (s : State) : State :=
  let s := s.mapCores (fun c => c.running && c.job.preempt && s.escapes c)
    (fun c => { c with job := { c.job with preempt := false, preemptFor := none } })
  s.mapCores (fun c => s.dev.live c && c.job.preempt && s.allStand c) (fun c => { c with stopped := true, entry := true })

/-- Whether a core waits for a peer, but for lines that X reads and can ask for again. -/
def Device.atPeers (d : Device) (id : Nat) : Bool := d.peerReqs.any (fun r => r.live && r.core = id && r.kind != .xread)

/-- Whether the image of a core can be written: no trap is due, the S words in flight have returned, peers have answered,
and its deque holds no record (R194, R281; log 30). -/
def State.canPreempt (s : State) (c : Core) : Bool :=
  s.dev.live c && c.job.preempt && c.phase = .land && s.stands c && ({ s with core := c } : State).settled && c.fails = [] &&
    c.fatal.isNone && !s.dev.atPeers c.id

/-- The current core's image is written to its slot's area, and the core is free. Where the area has no writable page those lines
of the image are not written, and the core is freed all the same: the model's choice (R194; log 109). -/
def State.saveCore (s : State) : State :=
  match s.dev.regionOf s.core with
  | none => s
  | some r =>
    let s := s.restNow
    let slot := s.core.job.slot
    let img := s.core.image
    let d := s.dev.writeVa r.pasid (r.imageBase.toNat + r.imageStride * slot) img
    let d := d.rcbCount r 0xFC
    let d := d.onRegion r.key (fun r => { r with images := r.images ++ [slot], kept := r.kept ++ [s.core.keep] })
    let d := ((d.orphanReqs (· = s.core.id)).cleanOwned s.core.id).moveMember r.key s.core.id (s.core.id + 2 ^ 16)
    let idle := Core.idle s.core.id
    { s with dev := d, core := { idle with job := { idle.job with freeAt := s.dev.cycle, preemptFor := s.core.job.preemptFor } } }

/-- The cores that a pre-emption takes now: one core, or a gang all of whose running cores are at a boundary. -/
def State.preemptable (s : State) : List Nat :=
  match s.cores.find? (fun c => s.canPreempt c && (match s.dev.regionOf c with
      | some r => !r.gang || (s.runningOf r.key).all s.canPreempt
      | none => false)) with
  | none => []
  | some c =>
    match s.dev.regionOf c with
    | some r => if r.gang then (s.runningOf r.key).map (·.id) else [c.id]
    | none => []

def State.preempt (s : State) : State := s.preemptable.foldl (fun s id => s.atCore id State.saveCore) s

def execPreemption (s : State) : Host.Outcome State Fault Refusal := .next s.preempt

/-- Cores that a region may pre-empt: of lower priority, with an image area and no records in the deque; of a gang
all or none (R281). -/
def State.preemptTargets (s : State) (r : Region) : List Core :=
  s.cores.filter (fun c => c.running && !c.job.preempt && !c.hasRecords &&
    (match s.dev.regionOf c with
     | some q => q.prio < r.prio && q.imageBase ≠ 0 && !(s.together c).any Core.hasRecords
     | none => false))

/-- Whether core a is chosen before core b: lower PRIO, later dispatch, lower ID. -/
def State.preemptBefore (s : State) (a b : Core) : Bool :=
  let p := fun c => ((s.dev.regionOf c).map (·.prio)).getD 8
  p a < p b || (p a = p b && (b.job.started < a.job.started || (a.job.started = b.job.started && a.id < b.id)))

/-- Cores in a placement that a region needs beyond the free ones and those being pre-empted for it. -/
def State.lack (s : State) (r : Region) (p : Nat → Bool) : Nat :=
  let free := (s.freeCores.filter (fun x => p x.2 && s.mayServe r x.2)).length
  let coming := (s.cores.filter (fun c => c.running && c.job.preemptFor = some r.key && p c.id)).length
  s.need r - free - coming

/-- The placement for which a region pre-empts: of a gang, the one that lacks fewest cores of those that lower-priority cores
can fill; none where a gang could not use what it takes (R275, R281; log 87). -/
def State.preemptPlace (s : State) (r : Region) : Option (Nat → Bool) :=
  let can := fun (p : Nat → Bool) => decide (s.lack r p ≤ ((s.preemptTargets r).filter (fun c => p c.id)).length)
  if r.gang then
    ((s.dev.placements (s.need r)).filter can).foldl (fun (best : Option (Nat → Bool)) p =>
      match best with
      | none => some p
      | some b => if s.lack r p < s.lack r b then some p else some b) none
  else some (fun _ => true)

/-- The core that a region pre-empts next, where it still lacks one. -/
def State.preemptPick (s : State) (r : Region) : Option Core :=
  match s.preemptPlace r with
  | none => none
  | some p =>
    if s.lack r p = 0 then none
    else
      ((s.preemptTargets r).filter (fun c => p c.id)).foldl (fun (best : Option Core) c =>
        match best with
        | none => some c
        | some b => if s.preemptBefore c b then some c else some b) none

/-- A region that has waited 20 µs pre-empts a core of lower priority (R281). -/
def State.preemptWait (s : State) (key : Nat) : State :=
  match s.dev.region? key with
  | none => s
  | some r =>
    match s.preemptPick r with
    | none => s
    | some v =>
      let gang := match s.dev.regionOf v with
        | some q => q.gang
        | none => false
      s.mapCores (fun c => c.running && (c.id = v.id || (gang && c.job.region = v.job.region)))
        (fun c => { c with job := { c.job with preempt := true, preemptFor := some key } })

def execPriorityPreemptWait (rcb : Nat) (s : State) : Host.Outcome State Fault Refusal := .next (s.preemptWait rcb)

/-- Whether that wait is over (R281). -/
def State.preemptDue (s : State) (r : Region) : Bool :=
  match r.readySince with
  | some t => usUnits 20 ≤ s.dev.wall - t && (s.preemptPick r).isSome
  | none => false

/-! ### Fairness (R280) -/

/-- Clamps a deficit to ±(MAXCORES × 50 µs). -/
def Region.clampDeficit (r : Region) (v : Int) : Int :=
  let m : Int := r.maxCores * usUnits 50
  if v < -m then -m else if m < v then m else v

/-- A period of 50 µs begins: every region with ready work gains. -/
def Device.newPeriod (d : Device) : Device :=
  let gain := fun (r : Region) =>
    if r.ready then { r with deficit := r.clampDeficit (r.deficit + r.maxCores * usUnits 50) } else r
  { d with period := d.period + 1, regions := d.regions.map gain }

def execFairnessPeriod (s : State) : Host.Outcome State Fault Refusal := .next { s with dev := s.dev.newPeriod }

/-- What a cycle's time does to the regions: running cores take away from deficits, and the wait for a core goes
on while there is ready work. -/
def State.tickRegions (s : State) (units : Nat) : State :=
  let upd := fun (r : Region) =>
    if r.ready then
      let spent : Int := ((s.runningOf r.key).filter s.dev.live).length * units
      { r with
        deficit := r.clampDeficit (r.deficit - spent)
        readySince := some (r.readySince.getD s.dev.wall) }
    else { r with deficit := 0, readySince := none }
  { s with dev := { s.dev with regions := s.dev.regions.map upd } }

/-! ### How a region finishes (R282) -/

/-- Whether a core of a region was stopped on a die whose isolation is still to be confirmed (R334). -/
def State.cutOff (s : State) (r : Region) : Bool :=
  s.dev.stopAt.any (fun x => (s.coresOf r.key).any (fun c => s.dev.dieOf c.id = x.1))

/-- A region's own work is finished: no core runs, nothing is due, and no image waits. -/
def State.workDone (s : State) (r : Region) : Bool :=
  r.state = .running && !s.cutOff r && s.runningOf r.key = [] && r.undispatched = 0 && r.images = []

/-- Launches the static children in chain order; a refused one is no child of this launch. -/
def Device.launchChain (d : Device) (r : Region) : List Word → Device
  | [] => d
  | a :: as =>
    let (d, reason) := d.launch r.pasid a (some r.key) r.ccb
    let d := if reason = 0 then d.onRegion r.key (fun r => { r with children := r.children + 1 }) else d
    Device.launchChain d r as

/-- Whether a region's children are all terminal and its writes performed. -/
def State.joined (s : State) (r : Region) : Bool :=
  r.state = .joining && r.ending.isNone && r.children = 0 && s.dev.canEnd r.key

/-- Whether a region that has stopped can end now. -/
def State.endDue (s : State) (r : Region) : Bool := r.ending.isSome && s.dev.canEnd r.key

/-- Whether REGION_COMPLETE is due for a region. -/
def State.completionDue (s : State) (r : Region) : Bool :=
  s.workDone r || (r.state = .joining && !r.chained) || s.joined r || s.endDue r

/-- A region whose own work is finished goes to JOINING and launches its children; one whose children are all
terminal is DONE. -/
def State.completeRegion (s : State) (key : Nat) : State :=
  match s.dev.region? key with
  | none => s
  | some r =>
    if s.workDone r ∨ (r.state = .joining ∧ !r.chained) then
      let r' := { r with state := .joining, chained := true }
      let d := (s.dev.onRegion key (fun _ => r')).showState r'
      { s with dev := d.launchChain r' r.chain }
    else if s.joined r then
      s.endRegion key (if r.kind = 0 ∧ r.total = 0 then .doneEmpty else .done) 0 .none
    else if s.endDue r then
      match r.ending with
      | some x => if x.state = .pending then s.relaunchNow r else s.finishRegion r x
      | none => s
    else s

def execRegionComplete (rcb : Nat) (s : State) : Host.Outcome State Fault Refusal := .next (s.completeRegion rcb)

/-! ### Answers of the Sluice and the banks (R265, R284 to R286) -/

/-- RSPAWN of the current core; address 0 is LAUNCH-ADDR (R286). -/
def State.spawn (s : State) (t : BitVec 3) (dst : BitVec 6) (rcb : Word) : State :=
  match s.dev.regionOf s.core with
  | none => s.onCore (fun c => (c.setReg dst (errorValue .rejected 6)).answered t)
  | some r =>
    let ok := rcb ≠ 0 && s.dev.rcbOk r.pasid rcb && (s.dev.region? (regionKey r.pasid rcb)).isNone
    let d := if ok then s.dev.rcbPut r.pasid rcb 0 8 r.rcb.toNat else s.dev
    let (d, reason) := if rcb = 0 then (d, 6) else d.launch r.pasid rcb (some r.key) r.ccb
    let d := if reason = 0 then d.onRegion r.key (fun r => { r with children := r.children + 1 }) else d
    ({ s with dev := d } : State).onCore (fun c =>
      (c.setReg dst (if reason = 0 then 0 else errorValue .rejected reason)).answered t)

/-- The answer to the word that holds the current core. -/
def State.answerHere (s : State) : State :=
  match s.core.scalar.hold with
  | .answer 0 i v r off =>
    match i with
    | .qpush t _ => s.onCore (·.answered t)
    | .qpop t d _ => s.onCore (fun c =>
        let c := if v = 0 then c else c.writeSpad off (leBytes 64 r.toNat)
        (c.setReg d v).answered t)
    | .qsteal t d _ => s.steal t d off
    | .qlen t d => s.onCore (fun c => (c.setReg d v).answered t)
    | .wnext t d => s.nextIndex t d
    | .rspawn t d _ => s.spawn t d v
    | .tsyncJoin t _ _ b => s.onCore (fun c => (c.setReg b v).answered t)
    | .tsyncArrive t _ _ b => s.onCore (fun c => (c.setReg b v).answered t)
    | _ => s
  | _ => s

/-- Cores that an answer reaches now, in ascending order. -/
def State.answerDue (s : State) : List Nat :=
  (List.range s.dev.liveCores).filter (fun id => s.cores.any (fun c => c.id = id && c.running &&
    (match c.scalar.hold with
     | .answer 0 _ _ _ _ => true
     | _ => false)))

/-- Every answer that falls due, in order of logical core ID. -/
def State.answers (s : State) : State := s.answerDue.foldl (fun s id => s.atCore id State.answerHere) s

def execSluiceOrHomeAnswer (s : State) : Host.Outcome State Fault Refusal := .next s.answers

end Sys2Proof.Machine
end

