-- ==== Sys2Proof/Machine/Host.lean ====
section
/-! DEFINITION. The host: driver commands, commands of the continuation control block, QUERY and JOIN, PARK, host
writes, MSI-X, revocation and page moves (spec/16 R289 to R293, spec/17 R295 to R307, spec/11 R215, R229). -/
namespace Sys2Proof.Machine

/-! ### Driver commands (R295, R296) -/

/-- How a driver command ends: an error number, or the device after it and its results (none where R296 names
none). -/
inductive Reply where
  | err (n : Nat)
  | done (d : Device) (r0 r1 : Option Word)

/-- A result register after a command: its result, or a value the manual does not state (log 37). -/
def Device.resultOr (d : Device) (k : Nat) (r : Option Word) : Word := r.getD (Config.freeResult (2 * d.drawn + k))

/-- Whether an event is a write of DCMD. -/
def isDcmd : Instr → Bool
  | .regccb _ _ _ _ _ | .unregccb _ _ _ _ _ | .setsegtab _ _ _ _ _ | .regseg _ _ _ _ _ | .bumpgen _ _ _ _ _
  | .declwin _ _ _ _ _ | .peerap _ _ _ _ _ | .setplane _ _ _ _ _ | .planealloc _ _ _ _ _ | .planefree _ _ _ _ _
  | .dcmdReservedOp _ _ _ _ _ _ => true
  | _ => false

/-- A driver command: operands and command are in their registers, it is performed, and DSTAT tells; one
with an error changes nothing else. Vector 2,041 announces it (R305). A command behind which another write of DCMD has
already come is overwritten and not performed (R295; log 37). -/
def Device.command (d : Device) (code : Nat) (seq : BitVec 32) (a0 a1 a2 a3 : Word) (act : Device → Reply) : Device :=
  let d := { d with dcmd := BitVec.ofNat 64 (code + seq.toNat * 2 ^ 32), darg := #v[a0, a1, a2, a3] }
  let status := fun (n : Nat) => BitVec.ofNat 64 (n + seq.toNat * 2 ^ 32)
  if d.inbox.any isDcmd then d
  else
  match act d with
  | .err n => { d with dstat := status n }.raiseEvent 2041
  | .done e r0 r1 =>
    { e with dres := #v[e.resultOr 0 r0, e.resultOr 1 r1], drawn := e.drawn + 1, dstat := status 0 }.raiseEvent 2041

/-- Whether every byte of a range is mapped readable. -/
def Device.canReadVa (d : Device) (pasid : BitVec 20) (va n : Nat) : Bool :=
  (List.range n).all (fun i => match findPage d.pages pasid (va + i) with
    | some p => p.canRead
    | none => false)

/-- The first number from k on that `used` does not hold, with fuel. -/
def firstFree (used : Nat → Bool) : Nat → Nat → Option Nat
  | 0, _ => none
  | n + 1, k => if used k then firstFree used n (k + 1) else some k

/-- What registration writes into a block (R297). -/
def Device.initCcb (d : Device) (c : Ccb) : Device :=
  let d := d.ccbPut c 0 8 0
  let d := d.ccbPut c 0x18 8 (d.ccbGet c 0x10 8 / 2 ^ 32)
  let d := d.ccbPut c 0x38 8 c.pasid.toNat
  (List.range 9).foldl (fun d k => d.ccbPut c (0x40 + 8 * k) 8 0) d

def Device.regccb (d : Device) (addr pasid : Word) : Reply :=
  let id : BitVec 20 := pasid.setWidth 20
  let ok := if d.hostCxl then d.canReadVa id addr.toNat 256 && d.canWriteVa id addr.toNat 256
    else decide (addr.toNat < 0x100000)
  if addr.toNat % 256 ≠ 0 ∨ !ok then .err 2
  else
    match firstFree (fun k => (d.ccb? k).isSome) 4096 0 with
    | none => .err 3
    | some slot =>
      let c : Ccb := ⟨slot, addr, id, false, none, none, none⟩
      .done ({ d with ccbs := d.ccbs ++ [c] }.initCcb c) (some (BitVec.ofNat 64 slot)) none

def execRegccb (seq : BitVec 32) (a0 a1 a2 a3 : Word) (s : State) : Host.Outcome State Fault Refusal :=
  .next { s with dev := s.dev.command 1 seq a0 a1 a2 a3 (fun d => d.regccb a0 a1) }

def Device.unregccb (d : Device) (slot : Word) : Reply :=
  if 4096 ≤ slot.toNat then .err 2
  else
    match d.ccb? slot.toNat with
    | none => .err 4
    | some c =>
      if ccbAtRest (d.ccbState c) then .done { d with ccbs := d.ccbs.filter (fun x => x.slot ≠ slot.toNat) } none none
      else .err 2

def execUnregccb (seq : BitVec 32) (a0 a1 a2 a3 : Word) (s : State) : Host.Outcome State Fault Refusal :=
  .next { s with dev := s.dev.command 2 seq a0 a1 a2 a3 (fun d => d.unregccb a0) }

def Device.setSegtab (d : Device) (addr count : Word) : Reply :=
  if count.toNat = 0 ∨ 2 ^ 24 < count.toNat then .err 2
  else .done { d with segtab := addr, segcnt := count.toNat } none none

def execSetsegtab (seq : BitVec 32) (a0 a1 a2 a3 : Word) (s : State) : Host.Outcome State Fault Refusal :=
  .next { s with dev := s.dev.command 3 seq a0 a1 a2 a3 (fun d => d.setSegtab a0 a1) }

/-- Publishes every line of a segment on every die, wherever pages map them to CODE frames (R257, R296; log 38). -/
def Device.publishSegment (d : Device) (g : Segment) : Device :=
  let dies := List.range d.dies
  d.pages.foldl (fun d p =>
    let lo := Nat.max g.base.toNat p.va
    let fin := Nat.min (g.base.toNat + g.length) (p.va + 2 ^ p.bits)
    if lo < fin then d.publishLines p.pasid dies lo fin else d) d

/-- A code handle of a segment (R141). -/
def handleLow (seg : Nat) (gen : BitVec 16) (rights : Nat) : Word :=
  BitVec.ofNat 64 (seg + gen.toNat * 2 ^ 24 + rights % 256 * 2 ^ 40)

/-- The descriptor that a driver command names. -/
def Device.namedSegment (d : Device) (seg : Word) : Option Segment :=
  if d.segcnt ≤ seg.toNat then none else d.segment seg.toNat

def Device.regseg (d : Device) (seg rights : Word) : Reply :=
  match d.namedSegment seg with
  | none => .err 2
  | some g =>
    if g.base.toNat % 4096 ≠ 0 ∨ g.length % 4 ≠ 0 ∨ g.entries = 0 ∨ 4 ≤ rights.toNat % 256 then .err 2
    else
      let lo := handleLow seg.toNat g.gen rights.toNat
      .done (d.publishSegment g) (some lo) (some (sealTag d.bootKey lo))

def execRegseg (seq : BitVec 32) (a0 a1 a2 a3 : Word) (s : State) : Host.Outcome State Fault Refusal :=
  .next { s with dev := s.dev.command 4 seq a0 a1 a2 a3 (fun d => d.regseg a0 a1) }

/-- Writes bytes of device memory at a device physical address (R331). -/
def Device.writePhys (d : Device) (a : Nat) (bs : List Byte) : Device :=
  d.writeAt ⟨none, none⟩ .device (a / 2 ^ 40 % 4096) none (a % 2 ^ 40) bs

/-- The generation of a segment advances; its lines are published (R296, R307). -/
def Device.bumpSegment (d : Device) (seg : Word) : Reply :=
  match d.namedSegment seg with
  | none => .err 2
  | some g =>
    .done ((d.writePhys (d.segtab.toNat + 32 * seg.toNat + 14) (leBytes 2 (g.gen + 1).toNat)).publishSegment g) none none

def execBumpgen (seq : BitVec 32) (a0 a1 a2 a3 : Word) (s : State) : Host.Outcome State Fault Refusal :=
  .next { s with dev := s.dev.command 5 seq a0 a1 a2 a3 (fun d => d.bumpSegment a0) }

def Device.declWindow (d : Device) (num base len flags : Word) : Reply :=
  if 64 ≤ num.toNat then .err 2
  else
    let rest := d.windows.filter (fun w => w.num ≠ num.toNat)
    let ws := if len = 0 then rest else rest ++ [⟨num.toNat, base.toNat, len.toNat, flags.getLsbD 0, .untried⟩]
    .done { d with windows := ws } none none

def execDeclwin (seq : BitVec 32) (a0 a1 a2 a3 : Word) (s : State) : Host.Outcome State Fault Refusal :=
  .next { s with dev := s.dev.command 6 seq a0 a1 a2 a3 (fun d => d.declWindow a0 a1 a2 a3) }

/-- Declares a peer aperture, in place of the one its device ID had (R311). -/
def Device.setAperture (d : Device) (id base len : Word) : Reply :=
  let dev := id.toNat % 256
  let rest := d.apertures.filter (fun a => a.dev ≠ dev)
  .done { d with apertures := if len = 0 then rest else rest ++ [⟨dev, base.toNat, len.toNat⟩] } none none

def execPeerap (seq : BitVec 32) (a0 a1 a2 a3 : Word) (s : State) : Host.Outcome State Fault Refusal :=
  .next { s with dev := s.dev.command 7 seq a0 a1 a2 a3 (fun d => d.setAperture a0 a1 a2) }

/-- Sets a die's plane partition and rewrites the enumeration table (R232, R324). -/
def Device.setPlane (d : Device) (die mib : Word) : Reply :=
  let k := die.toNat % 8
  if !d.present k ∨ 16 < mib.toNat ∨ d.planes.any (fun p => p.die = k) then .err 2
  else .done { d with planeMib := d.planeMib.setIfInBounds k mib.toNat }.bumpGen none none

def execSetplane (seq : BitVec 32) (a0 a1 a2 a3 : Word) (s : State) : Host.Outcome State Fault Refusal :=
  .next { s with dev := s.dev.command 8 seq a0 a1 a2 a3 (fun d => d.setPlane a0 a1) }

def planeRuleOf (n : Nat) : PlaneRule :=
  match n % 4 with
  | 0 => .priority
  | 1 => .sumI32
  | 2 => .sumF32
  | _ => .fault

/-- The bytes of a range read zero, and none of its lines is poisoned. -/
def Device.clearRange (d : Device) (base n : Nat) : Device :=
  { d with
    mem := d.mem.clear base n
    poison := d.poison.filter (fun l => !(decide (base ≤ 64 * l) && decide (64 * l < base + n))) }

/-- The lowest start of a free range of a die's partition (R296): it is the partition's start, or the end of a
region. -/
def Device.planeRoom (d : Device) (die len : Nat) : Option Nat :=
  let mine := d.planes.filter (fun p => p.die = die)
  let fits := fun (a : Nat) =>
    decide (a + len ≤ planeBase die + (d.planeMib[die]?).getD 0 * 2 ^ 20) &&
      mine.all (fun p => decide (a + len ≤ p.base) || decide (p.base + p.len ≤ a))
  ((planeBase die :: mine.map (fun p => p.base + p.len)).filter fits).foldl (fun best a => match best with
    | none => some a
    | some b => some (Nat.min a b)) none

def Device.planeAlloc (d : Device) (sel len : Word) : Reply :=
  let die := sel.toNat % 8
  let n := len.toNat
  if n % 4096 ≠ 0 ∨ n < 4096 ∨ 2 ^ 24 < n then .err 2
  else
    match d.planeRoom die n, firstFree (fun k => d.planes.any (fun p => p.num = k)) 4096 0 with
    | some base, some num =>
      let p : Plane := ⟨num, die, planeRuleOf (sel.toNat / 16), base, n, none, []⟩
      .done { d.clearRange base n with planes := d.planes ++ [p] } (some (BitVec.ofNat 64 base))
        (some (BitVec.ofNat 64 num))
    | _, _ => .err 3

def execPlanealloc (seq : BitVec 32) (a0 a1 a2 a3 : Word) (s : State) : Host.Outcome State Fault Refusal :=
  .next { s with dev := s.dev.command 9 seq a0 a1 a2 a3 (fun d => d.planeAlloc a0 a1) }

def Device.planeFree (d : Device) (num : Word) : Reply :=
  match d.planes.find? (fun p => p.num = num.toNat) with
  | none => .err 4
  | some p =>
    if p.bound.isSome then .err 2 else .done { d with planes := d.planes.filter (fun q => q.num ≠ num.toNat) } none none

def execPlanefree (seq : BitVec 32) (a0 a1 a2 a3 : Word) (s : State) : Host.Outcome State Fault Refusal :=
  .next { s with dev := s.dev.command 10 seq a0 a1 a2 a3 (fun d => d.planeFree a0) }

def execDcmdReservedOp (code : BitVec 8) (seq : BitVec 32) (a0 a1 a2 a3 : Word) (s : State) :
    Host.Outcome State Fault Refusal :=
  .next { s with dev := s.dev.command code.toNat seq a0 a1 a2 a3 (fun _ => .err 1) }

/-! ### Commands of a continuation control block (R298, R299) -/

/-- RESULT and REASON of a command (R297). -/
abbrev Ack := Nat × Nat

/-- START (R283, R299): launch, hold under GATE, or refuse. -/
def State.startCommand (s : State) (c : Ccb) (gate : Bool) : State × Ack :=
  let d := s.dev
  let root := BitVec.ofNat 64 (d.ccbGet c 0x28 8)
  let args := BitVec.ofNat 64 (d.ccbGet c 0x30 8)
  let busy := (d.region? (regionKey c.pasid root)).isSome
  let oneHeld := c.heldArgs.isSome || d.ccbs.any (fun x => x.pasid == c.pasid && x.heldArgs.any (fun h => h.2 == root))
  let hold := fun (_ : Unit) =>
    ({ s with dev := d.onCcb c.slot (fun x => { x with heldArgs := some (args, root) }) }, ((2, 0) : Ack))
  if ccbAtRest (d.ccbState c) then
    if busy then (if gate && !oneHeld then hold () else (s, (5, 7)))
    else
      let d := ((d.startRoot c.slot c root args).onCcb c.slot (fun x => { x with heldArgs := c.heldArgs })).ccbCount c 0x60
      ({ s with dev := d.startHeld }, (0, 0))
  else if gate && !oneHeld then hold ()
  else (s, (1, 0))

/-- ABORT (R299, R302): every region of the continuation ends ABORTED, descendants first. -/
def State.abortCommand (s : State) (c : Ccb) : State × Ack :=
  if ccbAtRest (s.dev.ccbState c) then (s, (3, 0))
  else
    let s := { s with dev := s.dev.onCcb c.slot (fun x => { x with heldArgs := none }) }
    match c.root with
    | none => (s, (3, 0))
    | some key => ((s.abortBelow key).endRegion key .aborted 0 .none, (0, 0))

/-- Sets HOSTSIG in the save image of a slot (R301). -/
def Device.signalImage (d : Device) (r : Region) (slot : Nat) : Device :=
  let va := r.imageBase.toNat + r.imageStride * slot + 0x100 + 0x2680 + 64
  d.writeVa r.pasid va (leBytes 8 (Nat.lor (((d.readVa r.pasid va 8).map leNat).getD 0) 2))

/-- HOSTSIG becomes pending (R147). -/
def Core.hostSignal (c : Core) : Core := { c with scalar := { c.scalar with ipend := c.scalar.ipend ||| 2 } }

/-- SIGNAL (R301): on every core that runs a region of the continuation, and in its save images. -/
def State.signalCommand (s : State) (c : Ccb) : State × Ack :=
  if ccbAtRest (s.dev.ccbState c) then (s, (3, 0))
  else
    let mine := s.dev.regions.filter (fun r => r.ccb = some c.slot)
    let s := s.mapCores (fun k => k.running && mine.any (fun r => k.job.region = some r.key)) Core.hostSignal
    ({ s with dev := mine.foldl (fun d r => r.images.foldl (fun d k => d.signalImage r k) d) s.dev }, (0, 0))

/-- A command is consumed when its SEQ is new (R298). -/
def State.consume (s : State) (slot : Nat) : State :=
  match s.dev.ccb? slot with
  | none => s
  | some c =>
    let w := s.dev.ccbGet c 0x10 8
    let seq := w / 2 ^ 32
    if seq = s.dev.ccbGet c 0x18 4 then s
    else
      let (s, ack) : State × Ack := match w % 16 with
        | 0 => (s, (0, 0))
        | 1 => s.startCommand c (w / 16 % 2 = 1)
        | 2 => s.abortCommand c
        | 3 => s.signalCommand c
        | _ => (s, (4, 0))
      { s with dev := s.dev.ccbAck c (BitVec.ofNat 32 seq) ack.1 ack.2 }

/-- The host stores OP, GATE and SEQ as one doubleword, and the device consumes it (R298, R300). -/
def State.hostCommand (s : State) (slot code : Nat) (gate : Bool) (seq : BitVec 32) : State :=
  match s.dev.ccb? slot with
  | none => s
  | some c =>
    ({ s with dev := s.dev.ccbPut c 0x10 8 (code + b2n gate * 16 + seq.toNat * 2 ^ 32) } : State).consume slot

def execStart (slot : Nat) (gate : Bool) (seq : BitVec 32) (s : State) : Host.Outcome State Fault Refusal :=
  .next (s.hostCommand slot 1 gate seq)

def execAbort (slot : Nat) (seq : BitVec 32) (s : State) : Host.Outcome State Fault Refusal :=
  .next (s.hostCommand slot 2 false seq)

def execSignal (slot : Nat) (seq : BitVec 32) (s : State) : Host.Outcome State Fault Refusal :=
  .next (s.hostCommand slot 3 false seq)

def execCcbNoop (slot : Nat) (seq : BitVec 32) (s : State) : Host.Outcome State Fault Refusal :=
  .next (s.hostCommand slot 0 false seq)

def execCcbReservedOp (slot : Nat) (code : BitVec 4) (seq : BitVec 32) (s : State) : Host.Outcome State Fault Refusal :=
  .next (s.hostCommand slot code.toNat false seq)

/-! ### QUERY and JOIN (R289, R300) -/

/-- QWORD is returned, and LATCHED is cleared in the same step. `hostResult` holds what the host received. -/
def Device.query (d : Device) (c : Ccb) : Device :=
  let q := d.ccbGet c 0 8
  { d.ccbPut c 0 8 (q - q / 16 % 2 * 16) with hostResult := BitVec.ofNat 64 q }

def execQuery (slot : Nat) (s : State) : Host.Outcome State Fault Refusal :=
  match s.dev.ccb? slot with
  | none => .next s
  | some c => .next { s with dev := s.dev.query c }

/-- Whether a continuation is terminal (R289). -/
def Device.ccbTerminal (d : Device) (c : Ccb) : Bool := d.ccbState c ≠ 0 && ccbAtRest (d.ccbState c)

/-- JOIN: it queries; unless the state is terminal, it waits and queries again once it is. -/
def Device.join (d : Device) (c : Ccb) : Device :=
  let rest := d.joins.filter (fun k => k ≠ c.slot)
  if d.ccbTerminal c then { d.query c with joins := rest }
  else { (d.query c) with hostResult := d.hostResult, joins := rest ++ [c.slot] }

def execJoin (slot : Nat) (s : State) : Host.Outcome State Fault Refusal :=
  match s.dev.ccb? slot with
  | none => .next s
  | some c => .next { s with dev := s.dev.join c }

/-! ### PARK (R291, R303) -/

/-- DESCHEDULED (R290). -/
def descheduled : Nat := 2 ^ 64 - 1

/-- Marks, or unmarks, the running cores of a continuation's regions that have an image area. -/
def State.markParked (s : State) (slot : Nat) (b : Bool) : State :=
  s.mapCores (fun c => c.running && (match s.dev.regionOf c with
      | some r => r.ccb = some slot && r.imageBase ≠ 0
      | none => false))
    (fun c => { c with job := { c.job with preempt := b || c.job.preemptFor.isSome } })

/-- A policy check of a continuation under PARK. -/
def State.policyCheck (s : State) (slot : Nat) : State :=
  match s.dev.ccb? slot with
  | none => s
  | some c =>
    let st := s.dev.ccbState c
    if c.check.isNone ∨ (st ≠ ccbRunning ∧ st ≠ ccbParked) then
      { s with dev := s.dev.onCcb slot (fun x => { x with check := none }) }
    else
      let d := s.dev.onCcb slot (fun x => { x with check := x.check.map (· + usUnits 100) })
      let away := d.ccbGet c 8 8 = descheduled
      if away ∧ st = ccbRunning then
        ({ s with dev := (d.ccbSetState c ccbParked).ccbCount c 0x68 } : State).markParked slot true
      else if !away ∧ st = ccbParked then
        ({ s with dev := (d.ccbSetState c ccbRunning).ccbCount c 0x70 } : State).markParked slot false
      else { s with dev := d }

def execPolicyCheck (slot : Nat) (s : State) : Host.Outcome State Fault Refusal := .next (s.policyCheck slot)

/-! ### Host memory accesses and MSI-X (R234, R305 to R307) -/

/-- The memory type of a machine address (log 15). -/
def Device.kindAt (d : Device) (a : Nat) : PageKind :=
  if peerBase ≤ a then .peer
  else if hostBase ≤ a then .host
  else if planeBase 0 ≤ a then .plane
  else if d.isCode a then .code
  else .device

/-- Whether a write range meets a plane region that is bound. -/
def Device.meetsBound (d : Device) (a n : Nat) : Bool :=
  d.planes.any (fun p => p.bound.isSome && decide (a < p.base + p.len) && decide (p.base < a + n))

/-- The machine address of the command doubleword of a continuation. -/
def Device.ccbOpAddr (d : Device) (c : Ccb) : Option Nat :=
  if d.hostCxl then (findPage d.pages c.pasid (c.addr.toNat + 0x10)).map (fun p => p.addr (c.addr.toNat + 0x10))
  else some (windowBase + c.addr.toNat + 0x10)

/-- The continuations whose command a write of n bytes at a touches (R298). -/
def Device.touched (d : Device) (a n : Nat) : List Nat :=
  (d.ccbs.filter (fun c => match d.ccbOpAddr c with
    | some x => decide (a < x + 8) && decide (x < a + n)
    | none => false)).map (·.slot)

/-- Whether a byte of the CCB window is PASID of a continuation, which the host cannot write (R297). -/
def Device.lockedByte (d : Device) (a : Nat) : Bool :=
  !d.hostCxl && d.ccbs.any (fun c =>
    let lo := windowBase + c.addr.toNat + 0x38
    decide (lo ≤ a) && decide (a < lo + 8))

/-- The bytes that a host write leaves in memory. -/
def Device.hostBytes (d : Device) (a : Nat) : List Byte → List Byte
  | [] => []
  | b :: bs => (if d.lockedByte a then d.mem.get a else b) :: Device.hostBytes d (a + 1) bs

/-- A host write: device memory under key slot 0, an unbound plane region's present plane, a CODE frame with its
marks, host memory, or the CCB window; a bound plane region answers Completer Abort (R234, R307, R331). -/
def State.hostWrite (s : State) (a : Nat) (bs : List Byte) : State :=
  let d := s.dev
  if d.meetsBound a bs.length then { s with dev := { d with hostAnswer := .abort } }
  else if enumPage ≤ a then { s with dev := { d with hostAnswer := .success } }
  else
    let d := { d.writeAt ⟨none, none⟩ (d.kindAt a) 0 none a (d.hostBytes a bs) with hostAnswer := .success }
    (d.touched a bs.length).foldl (fun s k => s.consume k) { s with dev := d }

def execHostMemoryWrite (addr : Nat) (data : List Byte) (s : State) : Host.Outcome State Fault Refusal :=
  .next (s.hostWrite addr data)

/-- An AtomicOp addressed to the device completes with Unsupported Request (R306). -/
def execAtomicopRequest (s : State) : Host.Outcome State Fault Refusal :=
  .next { s with dev := { s.dev with hostAnswer := .unsupported } }

/-- A vector is unmasked: one message, if its pending bit is set (R305). -/
def Device.unmask (d : Device) (v : Nat) : Device :=
  let bit := BitVec.ofNat 2048 (2 ^ v)
  let d := { d with msixMask := d.msixMask &&& ~~~bit }
  if d.msixPend.getLsbD v then { d with msixPend := d.msixPend &&& ~~~bit, messages := v :: d.messages } else d

def execMsixVectorUnmask (vec : Nat) (s : State) : Host.Outcome State Fault Refusal :=
  .next { s with dev := s.dev.unmask vec }

/-! ### Revocation and page moves (R215, R229) -/

/-- Revokes every handle of a core that pins a page, and frees its entries. -/
def Core.revoke (c : Core) (p : Page) : Core :=
  let lose := fun (h : Handle) => if h.state = .valid && h.pages.contains p then { h with state := .revoked, pages := [] } else h
  { c with store := { c.store with handles := c.store.handles.map lose } }

/-- The page leaves the translation caches and every handle over it is REVOKED; an XLAT in flight over it meets
this when it retires. -/
def State.revokePage (s : State) (p : Page) : State :=
  let s := s.mapCores (fun _ => true) (·.revoke p)
  { s with dev := { s.dev with
      pages := s.dev.pages.filter (· ≠ p), tcache := s.dev.tcache.filter (fun x => x.2 ≠ p) } }

/-- The handles over a page: core and handle. -/
def State.holders (s : State) (p : Page) : List (Nat × BitVec 4) :=
  (s.cores.map (fun c => ((List.range 16).map (BitVec.ofNat 4)).filterMap (fun h =>
    if (c.handle h).state = .valid ∧ (c.handle h).pages.contains p then some (c.id, h) else none))).flatten

/-- Whether a machine line lies in a page. -/
def holdsLine (p : Page) (l : Nat) : Bool := decide (p.frame ≤ 64 * l) && decide (64 * l < p.frame + 2 ^ p.bits)

/-- Whether a core has an access open that passed its check, through a handle it held over the page, before the revocation:
a word of S that has not returned, or a chunk whose writes are at peers (R215). -/
def Core.accessOpen (c : Core) (v : Inval) : Bool :=
  let mine := fun (h : BitVec 4) => v.held.contains (c.id, h)
  c.scalar.flights.any (fun f => f.handle.any mine && decide (f.born ≤ v.since) && (match f.work with
    | .xlat _ _ _ _ _ => false
    | _ => true)) ||
  (c.xfer.sent.isSome && (match c.xfer.journal with
    | e :: _ => (c.entryHandles e).any mine
    | [] => false))

/-- Whether an invalidation still waits for accesses: those of its cores, requests to peers, and AtomicOps (R215). -/
def State.invalOpen (s : State) (v : Inval) : Bool :=
  s.cores.any (fun c => c.running && c.accessOpen v) ||
  s.dev.peerReqs.any (fun r => holdsLine v.page r.line && decide (r.born ≤ v.since)) ||
  s.dev.atomics.any (fun x => x.page = v.page && x.answer.isNone)

/-- The contents of n bytes, with their poison and keys, move from one frame to another: errors that the code corrects do
not go along, and what it cannot correct is poison. Lines of CODE at the destination are marked on every die (R256,
R325). -/
def Device.moveFrame (d : Device) (src dst n : Nat) : Device :=
  let inSrc := fun (l : Nat) => decide (src ≤ 64 * l) && decide (64 * l < src + n)
  let inDst := fun (l : Nat) => decide (dst ≤ 64 * l) && decide (64 * l < dst + n)
  let shift := fun (l : Nat) => (64 * l - src + dst) / 64
  let cells := d.mem.filter (fun (c : Host.Cell) => decide (src ≤ c.1) && decide (c.1 < src + n))
  let mem := cells.foldl (fun (m : Mem) (c : Host.Cell) => m.set (c.1 - src + dst) c.2) (d.mem.clear dst n)
  let bad := (d.flaws.map (·.line)).filter (fun l => inSrc l && d.uncorrectable l && !d.poison.contains l)
  let poison := ((d.poison.filter inSrc) ++ bad.eraseDups).map shift ++ d.poison.filter (fun l => !inDst l)
  let keys := (d.lineKeys.filter (fun k => inSrc k.1)).map (fun k => (shift k.1, k.2)) ++
    d.lineKeys.filter (fun k => !inDst k.1)
  let code := ((List.range (n / 128)).map (fun k => dst / 128 + k)).filter (fun l => d.isCode (128 * l))
  code.foldl (fun d l => d.markLine none l)
    { d with mem := mem, poison := poison, lineKeys := keys, flaws := d.flaws.filter (fun f => !inDst f.line),
             owned := d.owned.filter (fun x => !inSrc x.1 && !inDst x.1) }

/-- The record of a page's moves. -/
def Device.movesOf (d : Device) (pasid : BitVec 20) (va : Nat) : Moves :=
  (d.moves.find? (fun m => m.pasid == pasid && m.va = va)).getD ⟨pasid, va, [], none⟩

/-- A move is performed unless the page has settled or has moved 3 times in the last 8 ms (R229). -/
def Device.mayMove (d : Device) (m : Moves) : Bool :=
  (match m.settled with
   | some t => decide (t < d.wall)
   | none => true) &&
  decide ((m.times.filter (fun t => d.wall < t + msUnits 8)).length < 3)

/-- The record after a move now: the third within 8 ms settles the page for 50 ms. -/
def Device.noteMove (d : Device) (m : Moves) : Device :=
  let times := d.wall :: m.times.filter (fun t => d.wall < t + msUnits 8)
  let m' : Moves := { m with times := times, settled := if 3 ≤ times.length then some (d.wall + msUnits 50) else none }
  { d with moves := m' :: d.moves.filter (fun x => !(x.pasid == m.pasid && x.va = m.va)) }

/-- A page as it stands in another frame. -/
def Device.pageAt (d : Device) (p : Page) (frame : Nat) : Page :=
  { p with frame := frame, kind := if p.kind = .code then .code else d.kindAt frame }

/-- The page stands in its new frame. -/
def Device.pageMoved (d : Device) (p : Page) (frame : Nat) : Device :=
  let q := d.pageAt p frame
  let d := { d with pages := d.pages ++ [q] }
  (d.moveFrame p.frame frame (2 ^ p.bits)).noteMove (d.movesOf p.pasid p.va)

/-- The invalidation is acknowledged, and a move that waited for it is made (R215, R229). -/
def Device.acknowledge (d : Device) (v : Inval) : Device :=
  let d := { d with invalAcks := (v.page.pasid, v.page.va) :: d.invalAcks }
  match v.move with
  | some frame => d.pageMoved v.page frame
  | none => d

/-- An invalidation of a page: its handles are revoked at once, and it is acknowledged when the accesses through them are
done (R215). -/
def State.invalidate (s : State) (p : Page) (move : Option Nat) : State :=
  let v : Inval := ⟨p, s.holders p, s.dev.cycle, move⟩
  let s := s.revokePage p
  { s with dev := if s.invalOpen v then { s.dev with invals := s.dev.invals ++ [v] } else s.dev.acknowledge v }

/-- The invalidations whose accesses are done are acknowledged. -/
def State.settleInvals (s : State) : State :=
  if s.dev.invals = [] then s
  else
    let d := { s.dev with invals := s.dev.invals.filter s.invalOpen }
    { s with dev := (s.dev.invals.filter (fun v => !s.invalOpen v)).foldl Device.acknowledge d }

/-- The host unmaps or invalidates the page that holds va. -/
def State.revocation (s : State) (pasid : BitVec 20) (va : Nat) : State :=
  match findPage s.dev.pages pasid va with
  | none => s
  | some p => s.invalidate p none

def execRevocation (pasid : BitVec 20) (va : Nat) (s : State) : Host.Outcome State Fault Refusal :=
  .next (s.revocation pasid va)

/-- A request to move the page of va to another frame (R229, R339). -/
def State.movePage (s : State) (pasid : BitVec 20) (va frame : Nat) : State :=
  match findPage s.dev.pages pasid va with
  | none => s
  | some p =>
    if s.dev.mayMove (s.dev.movesOf pasid p.va) ∧ s.dev.mayMap (s.dev.pageAt p frame) then s.invalidate p (some frame) else s

def execPageMoveRequest (pasid : BitVec 20) (va frame : Nat) (s : State) : Host.Outcome State Fault Refusal :=
  .next (s.movePage pasid va frame)

end Sys2Proof.Machine
end

