-- ==== Sys2Proof/Machine/Peer.lean ====
section
/-! DEFINITION. Eproth peer links: flits, the packets of peers and their answers, link failure (spec/17 R310 to
R313; log 92); and a die's application of writes from other dies (spec/13 R251). -/
namespace Sys2Proof.Machine

/-! ### Requests of peers (R311, R312) -/

/-- Key slot and frame of a device physical address (R331). -/
def physKey (a : Word) : Nat := a.toNat / 2 ^ 40 % 4096
def physFrame (a : Word) : Nat := a.toNat % 2 ^ 40

/-- The mapping under which a peer reaches a device physical address: its machine address is its frame. -/
def Device.homePage (d : Device) (a : Word) : Page :=
  ⟨0, 0, 62, d.kindAt (physFrame a), true, true, false, physKey a, 0, none, false⟩

/-- Sends an answer to a device over a working link; without one it is lost. -/
def Device.answerPeer (d : Device) (id : BitVec 8) (p : Packet) : Device := d.sendTo id.toNat [p]

/-- What a peer's access to n bytes does at their home before it: its fill is counted, and deferred releases on the lines
are flushed (R252, R325). -/
def Device.peerTouch (d : Device) (a : Word) (n : Nat) : Device :=
  (d.noteErrors (d.fillNotes (d.homePage a) (physFrame a) n)).request none (physFrame a) n

/-- Whether a peer's request for n bytes waits for the flush of a release that is deferred on a line of theirs (R252). -/
def Device.peerWaits (d : Device) (a : Word) (n : Nat) : Bool := (linesOf (physFrame a) n).any (d.lineHeld none)

/-- A request of a peer that waits so: it has the flush begin. -/
def Device.holdPeer (d : Device) (a : Word) (n : Nat) (p : Packet) : Device :=
  let d := d.request none (physFrame a) n
  { d with peerHeld := d.peerHeld ++ [p] }

/-- A READ: data and poison come back, after the flush of a release that is deferred on the line. -/
def Device.peerRead (d : Device) (req tag : BitVec 8) (a : Word) (len : Nat) : Device :=
  if d.peerWaits a len then d.holdPeer a len (.read req tag a len)
  else
    let (bs, bad) := d.readPage (d.homePage a) (physFrame a) len
    (d.peerTouch a len).answerPeer req (.readData tag bs bad.isSome)

def execRead (req tag : BitVec 8) (addr : Word) (len : Nat) (s : State) : Host.Outcome State Fault Refusal :=
  .next { s with dev := s.dev.peerRead req tag addr len }

/-- Status of an ACK or OPDATA: performed, or Completer Abort (log 39). -/
def statusDone : BitVec 8 := 0
def statusAbort : BitVec 8 := 1

/-- A WRITE is performed at its home; on a bound plane region it is aborted and changes nothing (R234). -/
def Device.peerWrite (d : Device) (req tag : BitVec 8) (a : Word) (mask : List Bool) (data : List Byte) : Device :=
  let f := physFrame a
  if d.meetsBound f data.length then d.answerPeer req (.ack tag statusAbort)
  else
    let d := (maskedRuns 0 mask data).foldl (fun d r => d.writePage ⟨none, none⟩ (d.homePage a) (f + r.1) r.2) d
    d.answerPeer req (.ack tag statusDone)

def execWrite (req tag : BitVec 8) (addr : Word) (mask : List Bool) (data : List Byte) (_scope : BitVec 2) (s : State) :
    Host.Outcome State Fault Refusal :=
  .next { s with dev := s.dev.peerWrite req tag addr mask data }

/-- An OP is executed indivisibly at the home; the old value comes back (R312). -/
def Device.peerOp (d : Device) (req tag : BitVec 8) (a : Word) (o : AmoOp) (wide : Bool) (x y : Word) (acq rel : Bool) :
    Device :=
  let n := if wide then 8 else 4
  let f := physFrame a
  let m := 2 ^ (8 * n)
  let amo : Amo := ⟨o, wide, 0, 0, 0, x.toNat % m, y.toNat % m, 0⟩
  if d.meetsBound f n then d.answerPeer req (.opData tag 0 statusAbort)
  else if d.peerWaits a n then d.holdPeer a n (.op req tag a o wide x y acq rel)
  else
    let old := leNat (d.readPage (d.homePage a) f n).1
    let d := (d.peerTouch a n).writePage ⟨none, none⟩ (d.homePage a) f (amo.bytes old)
    d.answerPeer req (.opData tag (BitVec.ofNat 64 old) statusDone)

def execOp (req tag : BitVec 8) (addr : Word) (operation : AmoOp) (wide : Bool) (x y : Word) (acq rel : Bool) (s : State) :
    Host.Outcome State Fault Refusal :=
  .next { s with dev := s.dev.peerOp req tag addr operation wide x y acq rel }

/-- The requests of peers that have waited for deferred releases are served, or go on waiting, in order. -/
def Device.serveHeld (d : Device) : Device :=
  d.peerHeld.foldl (fun d p => match p with
    | .read req tag a len => d.peerRead req tag a len
    | .op req tag a o wide x y acq rel => d.peerOp req tag a o wide x y acq rel
    | _ => d) { d with peerHeld := [] }

/-! ### Answers of peers (R311 to R313) -/

/-- The outstanding request of a tag. -/
def Device.reqOf (d : Device) (tag : BitVec 8) : Option PeerReq := d.peerReqs.find? (fun r => r.tag = some tag)

/-- The device without a request: its tag is free, and a request that waits for one goes out. -/
def Device.dropReq (d : Device) (r : PeerReq) : Device :=
  ({ d with peerReqs := d.peerReqs.filter (fun x => x.id ≠ r.id) } : Device).pump

def SFlight.isPeer (f : SFlight) (id : Nat) : Bool :=
  match f.work with
  | .peer _ k _ _ _ => k == id
  | _ => false

/-- The word of the current core that waits for a request retires with a value, or with POISON. -/
def Core.peerData (c : Core) (id v : Nat) (bad : Option Word) : Core :=
  let (fs, c) := c.takeFlights (fun f => f.isPeer id)
  let land := fun (c : Core) (f : SFlight) => match f.work, bad with
    | .peer _ _ _ _ _, some a => c.failS 0x83 a
    | .peer (some d) _ size sext _, none => c.setReg d (extend size sext v)
    | _, _ => c
  (fs.foldl land c).retireTokens fs

/-- A line that X has asked for is here. -/
def Core.lineHere (c : Core) (id : Nat) (bs : List Byte) (poison : Bool) : Core :=
  { c with xfer := { c.xfer with lines := c.xfer.lines.map (fun l => if l.id = id then { l with data := some (bs, poison) } else l) } }

/-- An element update of XRED has returned its old value: its flags are those of the update (R225). -/
def Core.redDone (c : Core) (fl : Flags) : Core :=
  { c with xfer := { c.xfer with sent := c.xfer.sent.map (fun x => (x.1 ||| fl, x.2)) } }

/-- What an answer does for the core that asked: data bytes, the value they or the OPDATA hold, and poison. A store and a
write need only be acknowledged. -/
def PeerReq.deliver (r : PeerReq) (bs : List Byte) (v : Nat) (poison : Bool) (c : Core) : Core :=
  match r.kind with
  | .load => c.peerData r.id v (if poison then some r.va else none)
  | .xread => c.lineHere r.id bs poison
  | .xred fmt o x => if poison then c.failX 0x83 r.va else c.redDone (redElem fmt o v x).2
  | .write | .xwrite => c

/-- The answer of a peer to the request of a tag; one made for a core that has stopped is for nobody (R192). -/
def State.peerAnswer (s : State) (tag : BitVec 8) (bs : List Byte) (v : Nat) (poison : Bool) : State :=
  match s.dev.reqOf tag with
  | none => s
  | some r =>
    let s := { s with dev := s.dev.dropReq r }
    if r.live then s.atCore r.core (·.onCore (r.deliver bs v poison)) else s

def execReaddata (tag : BitVec 8) (data : List Byte) (poison : Bool) (s : State) : Host.Outcome State Fault Refusal :=
  .next (s.peerAnswer tag data (leNat data) poison)

/-- OPDATA: the old value (log 39). -/
def execOpdata (tag : BitVec 8) (old : Word) (_status : BitVec 8) (s : State) : Host.Outcome State Fault Refusal :=
  .next (s.peerAnswer tag [] old.toNat false)

/-- ACK: the write is performed at the peer's home. -/
def execAck (tag _status : BitVec 8) (s : State) : Host.Outcome State Fault Refusal := .next (s.peerAnswer tag [] 0 false)

/-! ### Flits (R310) -/

/-- The effect of one packet. -/
def State.receive (s : State) (p : Packet) : State :=
  match p with
  | .read req tag a len => { s with dev := s.dev.peerRead req tag a len }
  | .readData tag data poison => s.peerAnswer tag data (leNat data) poison
  | .write req tag a mask data _ => { s with dev := s.dev.peerWrite req tag a mask data }
  | .op req tag a o wide x y acq rel => { s with dev := s.dev.peerOp req tag a o wide x y acq rel }
  | .opData tag old _ => s.peerAnswer tag [] old.toNat false
  | .ack tag _ => s.peerAnswer tag [] 0 false

/-- Flits of a link up to an acknowledged sequence are kept no longer. -/
def Device.ackFlits (d : Device) (link : Nat) (ackd : BitVec 12) : Device :=
  { d with unacked := d.unacked.filter (fun u => !(u.link = link && decide ((ackd - u.seq).toNat < 2048))) }

/-- The flits of a link that are not acknowledged go out again, from the first on. -/
def Device.resend (d : Device) (link : Nat) : Device :=
  let again := (d.unacked.filter (fun u => u.link = link)).map (fun u => (link, d.flitOf link u.seq u.packets))
  { d with peerOut := d.peerOut ++ again }

/-- A flit is discarded, and a retry is requested in a flit of no packets. -/
def Device.askRetry (d : Device) (link : Nat) : Device :=
  { d with peerRetry := d.peerRetry.setIfInBounds link true }.sendFlit link 0 []

/-- A flit on a link: one whose CRC fails, or that skips a sequence number, is discarded and a retry requested; a
repeated one is discarded; the next in sequence delivers its packets in order. A good one acknowledges what was sent before,
and its retry request is served. -/
def State.flit (s : State) (link : Nat) (seq ackd : BitVec 12) (crc : FlitCheck) (ps : List Packet) : State :=
  let want := (s.dev.peerSeq[link]?).getD 0
  if !bitOf s.dev.peerLinks link then s
  else
    match crc with
    | .bad => { s with dev := s.dev.askRetry link }
    | .good again =>
      let d := s.dev.ackFlits link ackd
      let d := if again then d.resend link else d
      if seq = want then
        let d := { d with peerRetry := d.peerRetry.setIfInBounds link false, peerSeq := d.peerSeq.setIfInBounds link (want + 1) }
        ps.foldl State.receive { s with dev := d }
      else if (seq - want).toNat < 2048 then { s with dev := d.askRetry link }
      else { s with dev := d }

def execFlitReceive (link : Nat) (seq ackd : BitVec 12) (crc : FlitCheck) (packets : List Packet) (s : State) :
    Host.Outcome State Fault Refusal :=
  .next (s.flit link seq ackd crc packets)

/-! ### Link failure (R313) -/

/-- A request whose peer no route reaches completes: a write is lost, a read or operation returns poison. -/
def State.cutRequest (s : State) (r : PeerReq) : State :=
  let s := { s with dev := { s.dev with peerReqs := s.dev.peerReqs.filter (fun x => x.id ≠ r.id) } }
  if !r.live then s
  else
    match r.kind with
    | .write | .xwrite => { s with dev := { s.dev with lostLines := s.dev.lostLines ++ [(r.core, r.va.toNat)] } }
    | _ => s.atCore r.core (·.onCore (r.deliver (List.replicate 64 0) 0 true))

/-- The flits of a link that are not acknowledged go out on another link that reaches their device. -/
def Device.reroute (d : Device) (link : Nat) : Device :=
  let mine := d.unacked.filter (fun u => u.link = link)
  let d := { d with unacked := d.unacked.filter (fun u => u.link ≠ link) }
  mine.foldl (fun d u => if u.packets = [] then d else d.sendTo u.dev u.packets) d

/-- A peer link fails: traffic takes another link of the route table, or its peer is unreachable. -/
def State.linkFail (s : State) (link : Nat) : State :=
  let d := ({ s.dev with peerLinks := s.dev.peerLinks.setIfInBounds link false }.reroute link).raiseEvent 2045
  let s := (d.peerReqs.filter (fun r => (d.linkTo r.dev).isNone)).foldl State.cutRequest { s with dev := d }
  { s with dev := s.dev.pump }

def execPeerLinkFail (link : Nat) (s : State) : Host.Outcome State Fault Refusal := .next (s.linkFail link)

/-! ### Writes between dies (R251, R256) -/

/-- Whether a die may apply a write: no write that its stamp names is still on the way to that die. -/
def Device.mayApply (d : Device) (r : Remote) : Bool :=
  !d.remote.any (fun x => x != r && x.dst == r.dst &&
    decide ((x.stamp[x.src]?).getD 0 ≤ (r.stamp[x.src]?).getD 0))

/-- The write that a die applies next. -/
def Device.nextRemote (d : Device) (die : Nat) : Option Remote := d.remote.find? (fun r => r.dst = die && d.mayApply r)

/-- A die applies a write that came from another die: its clock advances, and the mark of the line is set there. -/
def Device.applyRemote (d : Device) (die : Nat) : Device :=
  match d.nextRemote die with
  | none => d
  | some r =>
    let clk := (d.clocks[die]?).getD (Vector.replicate 8 0)
    let seen := Nat.max ((clk[r.src]?).getD 0) ((r.stamp[r.src]?).getD 0)
    { d with
      remote := d.remote.erase r,
      clocks := d.clocks.setIfInBounds die (clk.setIfInBounds r.src seen),
      marks := if d.marks.contains (die, r.line) then d.marks else (die, r.line) :: d.marks }

def execRemoteWriteApply (die : Nat) (s : State) : Host.Outcome State Fault Refusal :=
  .next { s with dev := s.dev.applyRemote die }

end Sys2Proof.Machine
end

