-- ==== Sys2Proof/Machine/Management.lean ====
section
/-! DEFINITION. Rill links and isolation, the management commands, bring-up, reset and power, and lifetime counters
(spec/19 R324, R331 to R340). -/
namespace Sys2Proof.Machine

/-! ### Rill links and isolation (R333, R334) -/

/-- DEGRADED: a link is DOWN, or a die is isolated or failed (R320, R339). -/
def Device.noteDegraded (d : Device) : Device :=
  { d with degraded := (List.range d.linkEnds.length).any (fun l => (d.links[l]?).getD .up == .down) ||
      d.isolated.toList.any id || d.failed.toList.any id }

/-- A link changes state: the table is rewritten, and vector 2,045 tells (R305, R324). A link that retrains has 2 µs
for it. -/
def Device.setLink (d : Device) (l : Nat) (x : Link) : Device :=
  let at' := (if x = .retraining then [(l, d.wall)] else []) ++ d.retrainAt.filter (fun y => y.1 ≠ l)
  ({ d with links := d.links.setIfInBounds l x, retrainAt := at' }.noteDegraded.bumpGen).raiseEvent 2045

/-- Whether a link is one of the grade's. -/
def Device.hasLink (d : Device) (l : Nat) : Bool := decide (l < d.linkEnds.length)

/-- A link that is UP goes to RETRAINING. -/
def Device.retrain (d : Device) (l : Nat) : Device :=
  if d.hasLink l && d.linkUp l then
    (d.onCounters (fun k => { k with retrains := countUp32 k.retrains l })).setLink l .retraining
  else d

def execRillLinkRetraining (link : Nat) (s : State) : Host.Outcome State Fault Refusal :=
  .next { s with dev := s.dev.retrain link }

/-- Retraining succeeds: the link is UP again. -/
def Device.linkBack (d : Device) (l : Nat) : Device :=
  if d.hasLink l && (d.links[l]?).getD .up == .retraining then d.setLink l .up else d

def execRillLinkUp (link : Nat) (s : State) : Host.Outcome State Fault Refusal :=
  .next { s with dev := s.dev.linkBack link }

/-- The live component for isolation, over the links that are not DOWN: R334 begins an isolation when a die's last route goes DOWN,
and a link that retrains may come back, where R333 says UP links; the model's reading (log 112). -/
def Device.liveDies (d : Device) : List Nat :=
  ({ d with links := d.links.map (fun x => if x == .down then .down else .up) } : Device).liveComponent

/-- Dies of the grade that stand outside the live component and are not yet being isolated. -/
def Device.newlyCut (d : Device) : List Nat :=
  (List.range d.dies).filter (fun x => !d.liveDies.contains x && !bitOf d.isolated x && !bitOf d.failed x &&
    !d.stopAt.any (fun y => y.1 = x))

/-- The isolation of the dies that are cut off begins. -/
def Device.cutOffDies (d : Device) : Device := { d with stopAt := d.stopAt ++ d.newlyCut.map (fun x => (x, d.wall)) }

/-- A link that has not retrained goes DOWN; a die that it cuts off starts to be isolated. -/
def Device.linkLost (d : Device) (l : Nat) : Device :=
  if d.hasLink l && !((d.links[l]?).getD .up == .down) then (d.setLink l .down).cutOffDies else d

def execRillLinkDown (link : Nat) (s : State) : Host.Outcome State Fault Refusal :=
  .next { s with dev := s.dev.linkLost link }

/-- A die that has been cut off stops every core it holds. -/
def State.stopDie (s : State) (die : Nat) : State :=
  s.stopWhere (fun c => s.dev.dieOf c.id = die)

def execDieIsolationStop (die : Nat) (s : State) : Host.Outcome State Fault Refusal := .next (s.stopDie die)

/-- The regions with a core on a die, each with its lowest such core. -/
def State.regionsOn (s : State) (die : Nat) : List (Nat × Core) :=
  s.dev.regions.filterMap (fun r =>
    let cs := (s.coresOf r.key).filter (fun c => s.dev.dieOf c.id = die)
    (cs.foldl (fun (best : Option Core) c => match best with
      | none => some c
      | some b => if c.id < b.id then some c else some b) none).map (fun c => (r.key, c)))

/-- The homes poison the lines that a die still owns dirty, of those whose last writer is one of its cores (R334; log
94). -/
def Device.dropOwned (d : Device) (die : Nat) : Device :=
  let mine := fun (x : Nat × Nat) => d.dieOf x.2 = die
  ((d.owned.filter mine).filter (fun x => Config.stillDirty die x.1)).foldl (fun d x => d.poisonLine x.1)
    { d with owned := d.owned.filter (fun x => !mine x) }

/-- Isolation is confirmed: the table shows it, memory homed on the die is unreachable, and every region with a core
there takes DIEISOLATED (R191, R334). -/
def State.confirmIsolation (s : State) (die : Nat) : State :=
  let hit := s.regionsOn die
  let s := s.stopDie die
  let d := { s.dev with isolated := s.dev.isolated.setIfInBounds die true, stopAt := s.dev.stopAt.filter (fun x => x.1 ≠ die) }
  let s := { s with dev := ((d.dropOwned die).noteDegraded.bumpGen).raiseEvent 2043 }
  hit.foldl (fun s x =>
    let rcb := ((s.dev.region? x.1).map (·.rcb)).getD 0
    State.faultRegion (s.dev.regions.length + 1) s x.1 ⟨1, 0x86, 0, x.2.id, BitVec.ofNat 64 die, x.2.engS.pc, rcb⟩) s

def execIsolationConfirm (die : Nat) (s : State) : Host.Outcome State Fault Refusal := .next (s.confirmIsolation die)

/-! ### Errors in memory (R325, R326; log 85) -/

/-- Bits of a symbol of a line flip: those that the code covers are an error of the symbol, and the others change the
data. -/
def Device.flip (d : Device) (line symbol : Nat) (bits : BitVec 16) : Device :=
  let seen := bits &&& d.covered line symbol
  let old := ((d.flaws.find? (fun f => f.line = line && f.symbol = symbol)).map (·.bits)).getD 0
  let now := old ^^^ seen
  let rest := d.flaws.filter (fun f => !(f.line = line && f.symbol = symbol))
  let a := 64 * line + 2 * symbol
  let data := d.mem.load a 2
  { d with
    mem := d.mem.store a 2 (Nat.xor data (bits &&& ~~~(d.covered line symbol)).toNat)
    flaws := if now = 0 then rest else ⟨line, symbol, now⟩ :: rest }

/-- What a cycle does to the memory of the device. -/
def Device.upset (d : Device) : Device :=
  match Config.upset d.cycle with
  | some (line, symbol, bits) => if 64 * line < d.hbmBytes ∧ symbol < 32 then d.flip line symbol bits else d
  | none => d

/-! ### Throttling (R2, R305, R340) -/

/-- What the clock gaps of a throttled die add to the wall time of this cycle (R2; log 60). -/
def Device.gapUnits (d : Device) : Nat := if d.throttled.toList.any Option.isSome then Config.gap d.cycle else 0

/-- Units of an hour of wall time. -/
def hourUnits : Nat := msUnits 3600000

/-- Adds n to a saturating 32-bit counter. -/
def satAdd (x : W32) (n : Nat) : W32 := BitVec.ofNat 32 (Nat.min (2 ^ 32 - 1) (x.toNat + n))

/-- Brings a die's throttle hours up to now (R340). -/
def Device.settleThrottle (d : Device) (die : Nat) : Device :=
  match (d.throttled[die]?).getD none with
  | none => d
  | some t =>
    let total := (d.throttleTime[die]?).getD 0 + (d.wall - t)
    let hours := satAdd ((d.glaes.counters.throttle[die]?).getD 0) (total / hourUnits)
    { (d.onCounters (fun k => { k with throttle := k.throttle.setIfInBounds die hours })) with
      throttled := d.throttled.setIfInBounds die (some d.wall),
      throttleTime := d.throttleTime.setIfInBounds die (total % hourUnits) }

/-- A die begins or ends throttling; vector 2,046 tells. Counts in core cycles are unaffected (R2). -/
def Device.throttle (d : Device) (die : Nat) (begins : Bool) : Device :=
  let d := d.settleThrottle die
  { d with throttled := d.throttled.setIfInBounds die (if begins then some d.wall else none) }.raiseEvent 2046

def execDieThrottle (die : Nat) (begins : Bool) (s : State) : Host.Outcome State Fault Refusal :=
  .next { s with dev := s.dev.throttle die begins }

/-! ### Management commands (R335, R336) -/

/-- Status bytes of a reply. -/
def mctpOk : Byte := 0
def mctpNosem : Byte := 1
def mctpBadarg : Byte := 2
def mctpBadsig : Byte := 3
def mctpUnsecured : Byte := 4

def Device.reply (d : Device) (bs : List Byte) : Device := { d with glaes := { d.glaes with reply := bs } }

/-- A command that needs the semaphore, from its holder; NOSEM from any other port. -/
def Device.withSem (d : Device) (p : Port) (f : Device → Device) : Device :=
  if d.glaes.holder = some p then f d else d.reply [mctpNosem]

/-- The number of a port (R336). -/
def portNum : Port → Nat
  | .hostLink => 1
  | .i3c => 2

/-- A lease as it is taken: 0, or above 10,000 ms, is 10,000 ms. -/
def leaseMs (n : Nat) : Nat := if n = 0 ∨ 10000 < n then 10000 else n

/-- What SEMGET returns while another port holds the semaphore; the remaining ms are rounded up (log 40). -/
def heldWord (p : Port) (units : Nat) : Nat := portNum p + (units + msUnits 1 - 1) / msUnits 1 * 2 ^ 8

/-- The other port's SEMGET that arrives in the same cycle, while the semaphore is free. -/
def rivalLease (p : Port) (box : List Instr) : Option (Port × Nat) :=
  box.findSome? (fun i => match i with
    | .semget q n => if q = p then none else some (q, n)
    | _ => none)

/-- Whether port p loses a tie for the free semaphore: the port that did not hold it last wins, at first the host
link. -/
def losesTie (p : Port) (last : Option Port) : Bool :=
  match last with
  | some q => q == p
  | none => p == .i3c

/-- SEMGET (R336). -/
def Device.semget (d : Device) (p : Port) (lease : Nat) : Device :=
  let g := d.glaes
  let claim := fun (_ : Unit) =>
    { d with glaes := { g with
      holder := some p, lastHolder := some p, lease := d.wall + msUnits (leaseMs lease), reply := mctpOk :: leBytes 4 0 } }
  match g.holder with
  | none =>
    match rivalLease p d.inbox with
    | some (q, n) =>
      if losesTie p g.lastHolder then d.reply (mctpOk :: leBytes 4 (heldWord q (msUnits (leaseMs n)))) else claim ()
    | none => claim ()
  | some q =>
    if q = p then claim () else d.reply (mctpOk :: leBytes 4 (heldWord q (g.lease - d.wall)))

def execSemget (port : Port) (lease : Nat) (s : State) : Host.Outcome State Fault Refusal :=
  .next { s with dev := s.dev.semget port lease }

/-- SEMPUT: the holder releases; from the other port it is ignored. -/
def Device.semput (d : Device) (p : Port) : Device :=
  d.withSem p (fun d => { d with glaes := { d.glaes with holder := none, reply := [mctpOk] } })

def execSemput (port : Port) (s : State) : Host.Outcome State Fault Refusal := .next { s with dev := s.dev.semput port }

/-- The lease is over: the semaphore is free, and an image staged and not committed is discarded. -/
def Device.leaseOver (d : Device) : Device := { d with glaes := { d.glaes with holder := none, staged := [] } }

def execSemaphoreLeaseExpiry (s : State) : Host.Outcome State Fault Refusal := .next { s with dev := s.dev.leaseOver }

/-- GETENUM: the enumeration table (R319). -/
def execGetenum (_port : Port) (s : State) : Host.Outcome State Fault Refusal :=
  .next { s with dev := s.dev.reply (mctpOk :: (List.range 1280).map s.dev.enumByte) }

/-- The lifetime record, in the order of R340's table, 4 bytes each (log 40). -/
def Counters.bytes (k : Counters) : List Byte :=
  let run := fun (xs : List W32) => (xs.map (fun x => leBytes 4 x.toNat)).flatten
  run ((k.hours.toList.map (·.toList)).flatten) ++ run k.droop.toList ++ run ((k.corrected.toList.map (·.toList)).flatten) ++
    run k.uncorrected.toList ++ run k.retrains.toList ++ run k.throttle.toList ++ run [k.power]

/-- GETCOUNTERS. -/
def Device.getcounters (d : Device) : Device :=
  let d := (List.range 8).foldl Device.settleThrottle d
  d.reply (mctpOk :: d.glaes.counters.bytes)

def execGetcounters (_port : Port) (s : State) : Host.Outcome State Fault Refusal :=
  .next { s with dev := s.dev.getcounters }

/-! ### Images (R337) -/

/-- Bytes written at an offset of the staged image; a gap reads zero. -/
def stageBytes (image : List Byte) (off : Nat) (data : List Byte) : List Byte :=
  (image ++ List.replicate (off - image.length) 0).take off ++ data ++ image.drop (off + data.length)

def Device.imagestage (d : Device) (p : Port) (off : Nat) (data : List Byte) : Device :=
  d.withSem p (fun d => { d with glaes := { d.glaes with staged := stageBytes d.glaes.staged off data, reply := [mctpOk] } })

def execImagestage (port : Port) (offset : Nat) (data : List Byte) (s : State) : Host.Outcome State Fault Refusal :=
  .next { s with dev := s.dev.imagestage port offset data }

/-- The number of a kind of image. -/
def imageNum : ImageKind → Nat
  | .firmware => 0
  | .baseDie => 1
  | .decodeTable => 2

/-- A verified image: in effect at the next device reset, and the fused minimum rises at once (R337); it is staged no more
(log 59). -/
def Glaes.commit (g : Glaes) (k : ImageKind) : Glaes :=
  let v := some (Config.imageField 0 g.staged, g.staged)
  let g := { g with
    minSec := g.minSec.setIfInBounds (imageNum k) (Config.imageField 1 g.staged), staged := [], reply := [mctpOk] }
  match k with
  | .firmware => { g with nextFw := v }
  | .baseDie => { g with nextBd := v }
  | .decodeTable => { g with nextDt := v }

/-- IMAGECOMMIT: BADSIG discards the image (R41). -/
def Device.imagecommit (d : Device) (p : Port) (k : ImageKind) : Device :=
  d.withSem p (fun d =>
    let g := d.glaes
    let ok := Config.signatureOk (imageNum k) g.staged && decide ((g.minSec[(imageNum k)]?).getD 0 ≤ Config.imageField 1 g.staged)
    { d with glaes := if ok then g.commit k else { g with staged := [], reply := [mctpBadsig] } })

def execImagecommit (port : Port) (kind : ImageKind) (s : State) : Host.Outcome State Fault Refusal :=
  .next { s with dev := s.dev.imagecommit port kind }

/-! ### Keys (R331, R332) -/

/-- A key command: the semaphore, a secured session, and a slot from 1 to 4,095. -/
def Device.keyCommand (d : Device) (p : Port) (secured : Bool) (slot : Nat) (f : Device → Device) : Device :=
  d.withSem p (fun d =>
    if !secured then d.reply [mctpUnsecured]
    else if slot = 0 ∨ 4096 ≤ slot then d.reply [mctpBadarg]
    else (f d).reply [mctpOk])

/-- The slot is emptied: what was written under it now reads as poison (R332). -/
def Device.dropKey (d : Device) (slot : Nat) : Device := { d with keys := d.keys.filter (fun k => k.1 ≠ slot) }

/-- A key is installed, under a generation of its own. -/
def Device.putKey (d : Device) (slot : Nat) (key : BitVec 512) : Device :=
  { d.dropKey slot with keys := (slot, d.keyGen + 1, key) :: (d.dropKey slot).keys, keyGen := d.keyGen + 1 }

def execKeyinstall (port : Port) (secured : Bool) (slot : Nat) (key : BitVec 512) (s : State) :
    Host.Outcome State Fault Refusal :=
  .next { s with dev := s.dev.keyCommand port secured slot (fun d => d.putKey slot key) }

def execKeydestroy (port : Port) (secured : Bool) (slot : Nat) (s : State) : Host.Outcome State Fault Refusal :=
  .next { s with dev := s.dev.keyCommand port secured slot (fun d => d.dropKey slot) }

/-! ### Policy, DEBUG and measurements (R147, R326, R328, R335, R338) -/

/-- A format that a TOLERANT range may name (R326). -/
def tolerantFmt (f : Nat) : Bool := f = 0 || f = 1 || f = 2 || f = 10 || f = 11

def Device.setPolicy (d : Device) (p : Port) (rs : List Tolerant) (mib : Nat) : Device :=
  d.withSem p (fun d =>
    if rs.all (fun r => tolerantFmt r.fmt) && decide (mib < 2 ^ 16) then
      { d with glaes := { d.glaes with nextPolicy := ⟨rs, BitVec.ofNat 16 mib⟩, reply := [mctpOk] } }
    else d.reply [mctpBadarg])

/-- SETPOLICY: in effect at the next device reset. -/
def execSetpolicy (port : Port) (ranges : List Tolerant) (undoMib : Nat) (s : State) : Host.Outcome State Fault Refusal :=
  .next { s with dev := s.dev.setPolicy port ranges undoMib }

/-- DEBUG is pending on a core. -/
def Core.debugPending (c : Core) : Core := { c with scalar := { c.scalar with ipend := c.scalar.ipend ||| 4 } }

def State.debug (s : State) (p : Port) (c : Nat) : State :=
  if s.dev.glaes.holder = some p then
    if c < s.dev.liveCores then
      { s with dev := s.dev.reply [mctpOk] }.mapCores (fun k => k.id = c && k.running) Core.debugPending
    else { s with dev := s.dev.reply [mctpBadarg] }
  else { s with dev := s.dev.reply [mctpNosem] }

def execDebug (port : Port) (c : Nat) (s : State) : Host.Outcome State Fault Refusal := .next (s.debug port c)

/-- What measurement 5 covers. -/
def Policy.bytes (p : Policy) : List Byte :=
  leBytes 2 p.undoMib.toNat ++ (p.tolerant.map (fun r => leBytes 4 r.base ++ leBytes 4 r.count ++ leBytes 1 r.fmt)).flatten

/-- What a measurement is taken over (R338): an image in effect, the policy, the identity. -/
def Device.measured (d : Device) (i : Nat) : List Byte :=
  match i with
  | 2 => d.glaes.fwImage
  | 3 => d.glaes.bdImage
  | 4 => d.glaes.dtImage
  | 5 => d.glaes.policy.bytes
  | 6 => leBytes 1 d.grade.toNat
  | _ => []

/-- GET_MEASUREMENTS: the signed measurement of an index (log 18). -/
def execGetMeasurements (index : Nat) (s : State) : Host.Outcome State Fault Refusal :=
  .next { s with dev := s.dev.reply (if 1 ≤ index ∧ index ≤ 6 then mctpOk :: Config.measurement index (s.dev.measured index)
    else [mctpBadarg]) }

/-! ### Reset, power and bring-up (R41, R337, R339, R340) -/

/-- What the controller keeps over a device reset: images and policy come into effect, and counters go on. -/
def Glaes.afterReset (g : Glaes) : Glaes :=
  { Glaes.reset with
    dtver := (g.nextDt.map (·.1)).getD g.dtver, fwver := (g.nextFw.map (·.1)).getD g.fwver,
    bdver := (g.nextBd.map (·.1)).getD g.bdver, dtImage := (g.nextDt.map (·.2)).getD g.dtImage,
    fwImage := (g.nextFw.map (·.2)).getD g.fwImage, bdImage := (g.nextBd.map (·.2)).getD g.bdImage,
    minSec := g.minSec, policy := g.nextPolicy, nextPolicy := g.nextPolicy, counters := g.counters, saved := g.saved,
    savedTime := g.savedTime, samples := g.samples }

/-- Device reset (log 41): the state after reset, with memory outside the plane partitions, keys, the host's page
tables, fused and assigned identity, and the controller's lasting state as they stand; of the mappings only those that reduced
service allows, while the 10 minutes to the next write of the counters and throttling go on (R339, R340). -/
def Device.afterReset (d : Device) : Device :=
  let d := (List.range 8).foldl Device.settleThrottle d
  let mem := d.mem.filter (fun (c : Host.Cell) =>
    !(decide (planeBase 0 ≤ c.1) && decide (c.1 < planeBase 8)) && !(decide (windowBase ≤ c.1) && decide (c.1 < hostBase)))
  { Device.reset with
    grade := d.grade, inbox := d.inbox, mem := mem, poison := d.poison, flaws := d.flaws, keys := d.keys, keyGen := d.keyGen,
    lineKeys := d.lineKeys, pages := d.pages.filter reducedPage, bootKey := d.bootKey, enumBase := d.enumBase, devId := d.devId,
    routes := d.routes, hostCxl := d.hostCxl, messages := d.messages, hostResult := d.hostResult,
    throttled := d.throttled.map (fun t => t.map (fun _ => 0)), throttleTime := d.throttleTime,
    glaes := { d.glaes.afterReset with persistAt := d.glaes.persistAt - d.wall }, drawn := d.drawn }

def State.afterReset (s : State) : State := ⟨Core.idle 0, [], s.dev.afterReset⟩

def execDeviceReset (s : State) : Host.Outcome State Fault Refusal := .next s.afterReset

/-- RESET: a device reset, from the semaphore's holder. -/
def execReset (port : Port) (s : State) : Host.Outcome State Fault Refusal :=
  .next (if s.dev.glaes.holder = some port then { s.afterReset with dev := s.afterReset.dev.reply [mctpOk] }
    else { s with dev := s.dev.reply [mctpNosem] })

/-- Power is lost: counters fall back to what the EEPROM holds (R340). -/
def State.powerLoss (s : State) : State :=
  { s with dev := { s.dev with powered := false, glaes := { s.dev.glaes with counters := s.dev.glaes.saved } } }

def execPowerLoss (s : State) : Host.Outcome State Fault Refusal := .next s.powerLoss

/-- Power comes on: reduced service, with device memory and keys lost, the counters as they were last stored, and one more
power cycle counted (R339, R340). -/
def State.powerOn (s : State) : State :=
  let d := s.dev.afterReset
  let mem := d.mem.filter (fun (c : Host.Cell) => decide (hostBase ≤ c.1))
  let d := { d with mem := mem, poison := [], flaws := [], keys := [], lineKeys := [],
                     throttled := Vector.replicate 8 none, throttleTime := d.glaes.savedTime,
                     glaes := { d.glaes with counters := d.glaes.saved, persistAt := Glaes.reset.persistAt } }
  ⟨Core.idle 0, [], d.onCounters (fun k => { k with power := satAdd k.power 1 })⟩

def execPowerOn (s : State) : Host.Outcome State Fault Refusal := .next s.powerOn

/-- Sets the listed places of a vector. -/
def setAll {α : Type} {n : Nat} (v : Vector α n) (is : List Nat) (x : α) : Vector α n :=
  is.foldl (fun v i => v.setIfInBounds i x) v

/-- Training completes: full service, with what failed absent or DOWN, device ID and route table assigned, and the table
rewritten; a die that the failed links cut off starts to be isolated (R310, R333, R339; log 92). -/
def Device.trained (d : Device) (badDies badLinks : List Nat) : Device :=
  if d.reduced then
    ({ d with reduced := false, failed := setAll d.failed badDies true, links := setAll d.links badLinks .down,
              devId := Config.deviceId, routes := Config.routes }.noteDegraded.bumpGen).cutOffDies
  else d

def execTrainingComplete (failedDies failedLinks : List Nat) (s : State) : Host.Outcome State Fault Refusal :=
  .next { s with dev := s.dev.trained failedDies failedLinks }

/-- The temperature bin of a reading in °C: below 40, steps of 10, and 100 and above (R340). -/
def tempBin (t : Nat) : Nat := if t < 40 then 0 else Nat.min 7 ((t - 40) / 10 + 1)

/-- One sample of a die: of six samples in a bin an hour is made, and droop events are added (R340; log 86). -/
def Device.sample (d : Device) (die : Nat) : Device :=
  let b := tempBin (Config.temperature die d.drawn)
  let row := (d.glaes.samples[die]?).getD (Vector.replicate 8 0)
  let n := (row[b]?).getD 0 + 1
  let d := { d with glaes := { d.glaes with samples := d.glaes.samples.setIfInBounds die (row.setIfInBounds b (n % 6)) } }
  d.onCounters (fun k =>
    let hours := (k.hours[die]?).getD (Vector.replicate 8 0)
    { k with
      hours := k.hours.setIfInBounds die (if n = 6 then countUp32 hours b else hours)
      droop := k.droop.setIfInBounds die (satAdd ((k.droop[die]?).getD 0) (Config.droops die d.drawn)) })

/-- Every present die is sampled, and the counters are written to the EEPROM, every 10 minutes (R340). -/
def Device.persist (d : Device) : Device :=
  let d := (List.range 8).foldl Device.settleThrottle d
  let d := { ((List.range d.dies).filter d.present).foldl Device.sample d with drawn := d.drawn + 1 }
  { d with glaes := { d.glaes with
      saved := d.glaes.counters, savedTime := d.throttleTime, persistAt := d.glaes.persistAt + msUnits 600000 } }

def execCounterPersist (s : State) : Host.Outcome State Fault Refusal := .next { s with dev := s.dev.persist }

end Sys2Proof.Machine
end

