-- ==== Sys2Proof/Machine/Dispatch.lean ====
section
/-! DEFINITION. Dispatch: one arm for each row of spec/opcode_table.json. -/
namespace Sys2Proof.Machine

def exec (i : Instr) (s : State) : Host.Outcome State Fault Refusal :=
  match i with
  | .add t d a b => Sys2Proof.Machine.execAdd t d a b s
  | .sub t d a b => Sys2Proof.Machine.execSub t d a b s
  | .and t d a b => Sys2Proof.Machine.execAnd t d a b s
  | .or t d a b => Sys2Proof.Machine.execOr t d a b s
  | .xor t d a b => Sys2Proof.Machine.execXor t d a b s
  | .shl t d a b => Sys2Proof.Machine.execShl t d a b s
  | .shr t d a b => Sys2Proof.Machine.execShr t d a b s
  | .sra t d a b => Sys2Proof.Machine.execSra t d a b s
  | .mul t d a b => Sys2Proof.Machine.execMul t d a b s
  | .mulh t d a b => Sys2Proof.Machine.execMulh t d a b s
  | .mulhu t d a b => Sys2Proof.Machine.execMulhu t d a b s
  | .div t d a b => Sys2Proof.Machine.execDiv t d a b s
  | .divu t d a b => Sys2Proof.Machine.execDivu t d a b s
  | .rem t d a b => Sys2Proof.Machine.execRem t d a b s
  | .remu t d a b => Sys2Proof.Machine.execRemu t d a b s
  | .min t d a b => Sys2Proof.Machine.execMin t d a b s
  | .max t d a b => Sys2Proof.Machine.execMax t d a b s
  | .minu t d a b => Sys2Proof.Machine.execMinu t d a b s
  | .maxu t d a b => Sys2Proof.Machine.execMaxu t d a b s
  | .slt t d a b => Sys2Proof.Machine.execSlt t d a b s
  | .sltu t d a b => Sys2Proof.Machine.execSltu t d a b s
  | .ceq t a b => Sys2Proof.Machine.execCeq t a b s
  | .cne t a b => Sys2Proof.Machine.execCne t a b s
  | .clt t a b => Sys2Proof.Machine.execClt t a b s
  | .cge t a b => Sys2Proof.Machine.execCge t a b s
  | .cltu t a b => Sys2Proof.Machine.execCltu t a b s
  | .cgeu t a b => Sys2Proof.Machine.execCgeu t a b s
  | .addi t d a imm => Sys2Proof.Machine.execAddi t d a imm s
  | .andi t d a imm => Sys2Proof.Machine.execAndi t d a imm s
  | .ori t d a imm => Sys2Proof.Machine.execOri t d a imm s
  | .xori t d a imm => Sys2Proof.Machine.execXori t d a imm s
  | .shli t d a imm => Sys2Proof.Machine.execShli t d a imm s
  | .shri t d a imm => Sys2Proof.Machine.execShri t d a imm s
  | .srai t d a imm => Sys2Proof.Machine.execSrai t d a imm s
  | .ceqi t a imm => Sys2Proof.Machine.execCeqi t a imm s
  | .clti t a imm => Sys2Proof.Machine.execClti t a imm s
  | .lui t d imm => Sys2Proof.Machine.execLui t d imm s
  | .lsh t d imm => Sys2Proof.Machine.execLsh t d imm s
  | .addpc t d imm => Sys2Proof.Machine.execAddpc t d imm s
  | .bcq t o => Sys2Proof.Machine.execBcq t o s
  | .bcqn t o => Sys2Proof.Machine.execBcqn t o s
  | .jmp t o => Sys2Proof.Machine.execJmp t o s
  | .call t o => Sys2Proof.Machine.execCall t o s
  | .jr t a => Sys2Proof.Machine.execJr t a s
  | .callr t a => Sys2Proof.Machine.execCallr t a s
  | .callk t a b => Sys2Proof.Machine.execCallk t a b s
  | .crr t d n => Sys2Proof.Machine.execCrr t d n s
  | .crw t a n => Sys2Proof.Machine.execCrw t a n s
  | .crwTimer t a => Sys2Proof.Machine.execCrwTimer t a s
  | .crwSlip t a => Sys2Proof.Machine.execCrwSlip t a s
  | .crwFpflags t a => Sys2Proof.Machine.execCrwFpflags t a s
  | .crwIen t a => Sys2Proof.Machine.execCrwIen t a s
  | .trap t imm => Sys2Proof.Machine.execTrap t imm s
  | .nop t => Sys2Proof.Machine.execNop t s
  | .tret t => Sys2Proof.Machine.execTret t s
  | .halt t => Sys2Proof.Machine.execHalt t s
  | .pause t => Sys2Proof.Machine.execPause t s
  | .twait t m => Sys2Proof.Machine.execTwait t m s
  | .tsig t m => Sys2Proof.Machine.execTsig t m s
  | .scfg t q a f => Sys2Proof.Machine.execScfg t q a f s
  | .ncfg t a l => Sys2Proof.Machine.execNcfg t a l s
  | .nmaskFirst t a l => Sys2Proof.Machine.execNmaskFirst t a l s
  | .nmaskLast t a l => Sys2Proof.Machine.execNmaskLast t a l s
  | .nest t r imm src => Sys2Proof.Machine.execNest t r imm src s
  | .ldb t d a h imm => Sys2Proof.Machine.execLdb t d a h imm s
  | .ldbu t d a h imm => Sys2Proof.Machine.execLdbu t d a h imm s
  | .ldh t d a h imm => Sys2Proof.Machine.execLdh t d a h imm s
  | .ldhu t d a h imm => Sys2Proof.Machine.execLdhu t d a h imm s
  | .ldw t d a h imm => Sys2Proof.Machine.execLdw t d a h imm s
  | .ldwu t d a h imm => Sys2Proof.Machine.execLdwu t d a h imm s
  | .ldd t d a h imm => Sys2Proof.Machine.execLdd t d a h imm s
  | .stb t d a h imm => Sys2Proof.Machine.execStb t d a h imm s
  | .sth t d a h imm => Sys2Proof.Machine.execSth t d a h imm s
  | .stw t d a h imm => Sys2Proof.Machine.execStw t d a h imm s
  | .std t d a h imm => Sys2Proof.Machine.execStd t d a h imm s
  | .lds t d a imm => Sys2Proof.Machine.execLds t d a imm s
  | .sts t d a imm => Sys2Proof.Machine.execSts t d a imm s
  | .lda t d a h w c q => Sys2Proof.Machine.execLda t d a h w c q s
  | .stl t d a h w c q => Sys2Proof.Machine.execStl t d a h w c q s
  | .amoadd t d a h w o c => Sys2Proof.Machine.execAmoadd t d a h w o c s
  | .amoswp t d a h w o c => Sys2Proof.Machine.execAmoswp t d a h w o c s
  | .amocas t d a h w o c => Sys2Proof.Machine.execAmocas t d a h w o c s
  | .amomin t d a h w o c => Sys2Proof.Machine.execAmomin t d a h w o c s
  | .amomax t d a h w o c => Sys2Proof.Machine.execAmomax t d a h w o c s
  | .amominu t d a h w o c => Sys2Proof.Machine.execAmominu t d a h w o c s
  | .amomaxu t d a h w o c => Sys2Proof.Machine.execAmomaxu t d a h w o c s
  | .amoand t d a h w o c => Sys2Proof.Machine.execAmoand t d a h w o c s
  | .amoor t d a h w o c => Sys2Proof.Machine.execAmoor t d a h w o c s
  | .amoxor t d a h w o c => Sys2Proof.Machine.execAmoxor t d a h w o c s
  | .xlatR t h a b => Sys2Proof.Machine.execXlatR t h a b s
  | .xlatRw t h a b => Sys2Proof.Machine.execXlatRw t h a b s
  | .xlatRwa t h a b => Sys2Proof.Machine.execXlatRwa t h a b s
  | .probe t d a o c => Sys2Proof.Machine.execProbe t d a o c s
  | .trel t a => Sys2Proof.Machine.execTrel t a s
  | .tstat t d a => Sys2Proof.Machine.execTstat t d a s
  | .tclean t a => Sys2Proof.Machine.execTclean t a s
  | .tdirty t a => Sys2Proof.Machine.execTdirty t a s
  | .hrel t h => Sys2Proof.Machine.execHrel t h s
  | .hqry t d h => Sys2Proof.Machine.execHqry t d h s
  | .fence t c => Sys2Proof.Machine.execFence t c s
  | .cfence t a b c => Sys2Proof.Machine.execCfence t a b c s
  | .bar t g => Sys2Proof.Machine.execBar t g s
  | .bara t a g => Sys2Proof.Machine.execBara t a g s
  | .barw t g => Sys2Proof.Machine.execBarw t g s
  | .barq t d g => Sys2Proof.Machine.execBarq t d g s
  | .step t g => Sys2Proof.Machine.execStep t g s
  | .stwp t d a h imm => Sys2Proof.Machine.execStwp t d a h imm s
  | .qpush t a => Sys2Proof.Machine.execQpush t a s
  | .qpop t d a => Sys2Proof.Machine.execQpop t d a s
  | .qsteal t d a => Sys2Proof.Machine.execQsteal t d a s
  | .qlen t d => Sys2Proof.Machine.execQlen t d s
  | .wnext t d => Sys2Proof.Machine.execWnext t d s
  | .rspawn t d a => Sys2Proof.Machine.execRspawn t d a s
  | .tsyncJoin t h a b => Sys2Proof.Machine.execTsyncJoin t h a b s
  | .tsyncArrive t h a b => Sys2Proof.Machine.execTsyncArrive t h a b s
  | .vadd t e y d a b => Sys2Proof.Machine.execVadd t e y d a b s
  | .vsub t e y d a b => Sys2Proof.Machine.execVsub t e y d a b s
  | .vmul t e y d a b => Sys2Proof.Machine.execVmul t e y d a b s
  | .vfma t e y d a b => Sys2Proof.Machine.execVfma t e y d a b s
  | .vfms t e y d a b => Sys2Proof.Machine.execVfms t e y d a b s
  | .vfnma t e y d a b => Sys2Proof.Machine.execVfnma t e y d a b s
  | .vmin t e y d a b => Sys2Proof.Machine.execVmin t e y d a b s
  | .vmax t e y d a b => Sys2Proof.Machine.execVmax t e y d a b s
  | .vabs t e y d a => Sys2Proof.Machine.execVabs t e y d a s
  | .vneg t e y d a => Sys2Proof.Machine.execVneg t e y d a s
  | .vrcp t e d a => Sys2Proof.Machine.execVrcp t e d a s
  | .vrsq t e d a => Sys2Proof.Machine.execVrsq t e d a s
  | .vex2 t e d a => Sys2Proof.Machine.execVex2 t e d a s
  | .vlg2 t e d a => Sys2Proof.Machine.execVlg2 t e d a s
  | .viadd t e y d a b f => Sys2Proof.Machine.execViadd t e y d a b f s
  | .visub t e y d a b f => Sys2Proof.Machine.execVisub t e y d a b f s
  | .vimul t e y d a b => Sys2Proof.Machine.execVimul t e y d a b s
  | .vimad t e y d a b => Sys2Proof.Machine.execVimad t e y d a b s
  | .vand t e y d a b => Sys2Proof.Machine.execVand t e y d a b s
  | .vor t e y d a b => Sys2Proof.Machine.execVor t e y d a b s
  | .vxor t e y d a b => Sys2Proof.Machine.execVxor t e y d a b s
  | .vshl t e y d a b => Sys2Proof.Machine.execVshl t e y d a b s
  | .vshr t e y d a b => Sys2Proof.Machine.execVshr t e y d a b s
  | .vsra t e y d a b => Sys2Proof.Machine.execVsra t e y d a b s
  | .vimin t e y d a b f => Sys2Proof.Machine.execVimin t e y d a b f s
  | .vimax t e y d a b f => Sys2Proof.Machine.execVimax t e y d a b f s
  | .vcmp t y c m a b f => Sys2Proof.Machine.execVcmp t y c m a b f s
  | .vsel t e k d a b => Sys2Proof.Machine.execVsel t e k d a b s
  | .vcqAny t m => Sys2Proof.Machine.execVcqAny t m s
  | .vcqAll t m => Sys2Proof.Machine.execVcqAll t m s
  | .vmskAnd t d a b => Sys2Proof.Machine.execVmskAnd t d a b s
  | .vmskOr t d a b => Sys2Proof.Machine.execVmskOr t d a b s
  | .vmskXor t d a b => Sys2Proof.Machine.execVmskXor t d a b s
  | .vmskAndn t d a b => Sys2Proof.Machine.execVmskAndn t d a b s
  | .vmskNot t d a => Sys2Proof.Machine.execVmskNot t d a s
  | .vmskSet t d => Sys2Proof.Machine.execVmskSet t d s
  | .vmskClr t d => Sys2Proof.Machine.execVmskClr t d s
  | .vmov t e d a => Sys2Proof.Machine.execVmov t e d a s
  | .vmovi t e w d imm => Sys2Proof.Machine.execVmovi t e w d imm s
  | .vwin t n => Sys2Proof.Machine.execVwin t n s
  | .vwait t m => Sys2Proof.Machine.execVwait t m s
  | .vsig t m => Sys2Proof.Machine.execVsig t m s
  | .vnop t => Sys2Proof.Machine.execVnop t s
  | .vcvt t e y d a v f => Sys2Proof.Machine.execVcvt t e y d a v f s
  | .vpack t e y d a f => Sys2Proof.Machine.execVpack t e y d a f s
  | .vunpk t e y d a f => Sys2Proof.Machine.execVunpk t e y d a f s
  | .vrsum t e y d a f => Sys2Proof.Machine.execVrsum t e y d a f s
  | .vrmax t e y d a f => Sys2Proof.Machine.execVrmax t e y d a f s
  | .vrmin t e y d a f => Sys2Proof.Machine.execVrmin t e y d a f s
  | .vperm t e d a imm => Sys2Proof.Machine.execVperm t e d a imm s
  | .vbcast t e w d a imm => Sys2Proof.Machine.execVbcast t e w d a imm s
  | .vslide t e d a n => Sys2Proof.Machine.execVslide t e d a n s
  | .viota t e w d => Sys2Proof.Machine.execViota t e w d s
  | .vsld t e d q r => Sys2Proof.Machine.execVsld t e d q r s
  | .vsst t e d q r => Sys2Proof.Machine.execVsst t e d q r s
  | .vgath t e d imm q => Sys2Proof.Machine.execVgath t e d imm q s
  | .vscat t e d imm q => Sys2Proof.Machine.execVscat t e d imm q s
  | .vpart t k d imm => Sys2Proof.Machine.execVpart t k d imm s
  | .vxs t w d a => Sys2Proof.Machine.execVxs t w d a s
  | .vxsPart t d => Sys2Proof.Machine.execVxsPart t d s
  | .vsx t e w d a => Sys2Proof.Machine.execVsx t e w d a s
  | .mma t c a b n m e src => Sys2Proof.Machine.execMma t c a b n m e src s
  | .mmasN4 t c a b n m e src => Sys2Proof.Machine.execMmasN4 t c a b n m e src s
  | .mmasN8 t c a b n m e src => Sys2Proof.Machine.execMmasN8 t c a b n m e src s
  | .mzero t c k => Sys2Proof.Machine.execMzero t c k s
  | .mload t c a => Sys2Proof.Machine.execMload t c a s
  | .mout t c a src y => Sys2Proof.Machine.execMout t c a src y s
  | .mcopy t c src y => Sys2Proof.Machine.execMcopy t c src y s
  | .madd t c src n u y => Sys2Proof.Machine.execMadd t c src n u y s
  | .mbias t c a n l u y => Sys2Proof.Machine.execMbias t c a n l u y s
  | .mscale t c a n l y => Sys2Proof.Machine.execMscale t c a n l y s
  | .mwait t k => Sys2Proof.Machine.execMwait t k s
  | .msig t k => Sys2Proof.Machine.execMsig t k s
  | .mnop t => Sys2Proof.Machine.execMnop t s
  | .xmov t src d q r c b g => Sys2Proof.Machine.execXmov t src d q r c b g s
  | .xgath t src d q r c b g imm => Sys2Proof.Machine.execXgath t src d q r c b g imm s
  | .xscat t src d q r c b g imm => Sys2Proof.Machine.execXscat t src d q r c b g imm s
  | .xset t src d q r c b g => Sys2Proof.Machine.execXset t src d q r c b g s
  | .xred t src d q r c b g o => Sys2Proof.Machine.execXred t src d q r c b g o s
  | .xfill t n q r c b g => Sys2Proof.Machine.execXfill t n q r c b g s
  | .xdrain t n q r c b g => Sys2Proof.Machine.execXdrain t n q r c b g s
  | .xsync t q r c => Sys2Proof.Machine.execXsync t q r c s
  | .xwait t k => Sys2Proof.Machine.execXwait t k s
  | .xsig t k => Sys2Proof.Machine.execXsig t k s
  | .xnop t => Sys2Proof.Machine.execXnop t s
  | .phaseComplete g => Sys2Proof.Machine.execPhaseComplete g s
  | .barrierRelease g => Sys2Proof.Machine.execBarrierRelease g s
  | .pathEntryPop e => Sys2Proof.Machine.execPathEntryPop e s
  | .watchdog e => Sys2Proof.Machine.execWatchdog e s
  | .restore rcb => Sys2Proof.Machine.execRestore rcb s
  | .dispatch rcb => Sys2Proof.Machine.execDispatch rcb s
  | .regionComplete rcb => Sys2Proof.Machine.execRegionComplete rcb s
  | .priorityPreemptWait rcb => Sys2Proof.Machine.execPriorityPreemptWait rcb s
  | .policyCheck slot => Sys2Proof.Machine.execPolicyCheck slot s
  | .join slot => Sys2Proof.Machine.execJoin slot s
  | .remoteWriteApply die => Sys2Proof.Machine.execRemoteWriteApply die s
  | .rillLinkDown link => Sys2Proof.Machine.execRillLinkDown link s
  | .dieIsolationStop die => Sys2Proof.Machine.execDieIsolationStop die s
  | .isolationConfirm die => Sys2Proof.Machine.execIsolationConfirm die s
  | .instructionFetch va => Sys2Proof.Machine.execInstructionFetch va s
  | .atomicopCompletion c answer => Sys2Proof.Machine.execAtomicopCompletion c answer s
  | .priResponse c page => Sys2Proof.Machine.execPriResponse c page s
  | .revocation pasid va => Sys2Proof.Machine.execRevocation pasid va s
  | .pageMoveRequest pasid va frame => Sys2Proof.Machine.execPageMoveRequest pasid va frame s
  | .start slot gate seq => Sys2Proof.Machine.execStart slot gate seq s
  | .abort slot seq => Sys2Proof.Machine.execAbort slot seq s
  | .signal slot seq => Sys2Proof.Machine.execSignal slot seq s
  | .ccbNoop slot seq => Sys2Proof.Machine.execCcbNoop slot seq s
  | .ccbReservedOp slot code seq => Sys2Proof.Machine.execCcbReservedOp slot code seq s
  | .query slot => Sys2Proof.Machine.execQuery slot s
  | .regccb seq a0 a1 a2 a3 => Sys2Proof.Machine.execRegccb seq a0 a1 a2 a3 s
  | .unregccb seq a0 a1 a2 a3 => Sys2Proof.Machine.execUnregccb seq a0 a1 a2 a3 s
  | .setsegtab seq a0 a1 a2 a3 => Sys2Proof.Machine.execSetsegtab seq a0 a1 a2 a3 s
  | .regseg seq a0 a1 a2 a3 => Sys2Proof.Machine.execRegseg seq a0 a1 a2 a3 s
  | .bumpgen seq a0 a1 a2 a3 => Sys2Proof.Machine.execBumpgen seq a0 a1 a2 a3 s
  | .declwin seq a0 a1 a2 a3 => Sys2Proof.Machine.execDeclwin seq a0 a1 a2 a3 s
  | .peerap seq a0 a1 a2 a3 => Sys2Proof.Machine.execPeerap seq a0 a1 a2 a3 s
  | .setplane seq a0 a1 a2 a3 => Sys2Proof.Machine.execSetplane seq a0 a1 a2 a3 s
  | .planealloc seq a0 a1 a2 a3 => Sys2Proof.Machine.execPlanealloc seq a0 a1 a2 a3 s
  | .planefree seq a0 a1 a2 a3 => Sys2Proof.Machine.execPlanefree seq a0 a1 a2 a3 s
  | .dcmdReservedOp code seq a0 a1 a2 a3 => Sys2Proof.Machine.execDcmdReservedOp code seq a0 a1 a2 a3 s
  | .hostMemoryWrite addr data => Sys2Proof.Machine.execHostMemoryWrite addr data s
  | .msixVectorUnmask vec => Sys2Proof.Machine.execMsixVectorUnmask vec s
  | .rillLinkRetraining link => Sys2Proof.Machine.execRillLinkRetraining link s
  | .rillLinkUp link => Sys2Proof.Machine.execRillLinkUp link s
  | .dieThrottle die begins => Sys2Proof.Machine.execDieThrottle die begins s
  | .semget port lease => Sys2Proof.Machine.execSemget port lease s
  | .semput port => Sys2Proof.Machine.execSemput port s
  | .debug port c => Sys2Proof.Machine.execDebug port c s
  | .reset port => Sys2Proof.Machine.execReset port s
  | .flitReceive link seq ackd crc packets => Sys2Proof.Machine.execFlitReceive link seq ackd crc packets s
  | .read req tag addr len => Sys2Proof.Machine.execRead req tag addr len s
  | .readdata tag data poison => Sys2Proof.Machine.execReaddata tag data poison s
  | .write req tag addr mask data scope => Sys2Proof.Machine.execWrite req tag addr mask data scope s
  | .op req tag addr operation wide x y acq rel => Sys2Proof.Machine.execOp req tag addr operation wide x y acq rel s
  | .opdata tag old status => Sys2Proof.Machine.execOpdata tag old status s
  | .ack tag status => Sys2Proof.Machine.execAck tag status s
  | .peerLinkFail link => Sys2Proof.Machine.execPeerLinkFail link s
  | .getenum port => Sys2Proof.Machine.execGetenum port s
  | .getcounters port => Sys2Proof.Machine.execGetcounters port s
  | .imagestage port offset data => Sys2Proof.Machine.execImagestage port offset data s
  | .imagecommit port kind => Sys2Proof.Machine.execImagecommit port kind s
  | .keyinstall port secured slot key => Sys2Proof.Machine.execKeyinstall port secured slot key s
  | .keydestroy port secured slot => Sys2Proof.Machine.execKeydestroy port secured slot s
  | .setpolicy port ranges undoMib => Sys2Proof.Machine.execSetpolicy port ranges undoMib s
  | .getMeasurements index => Sys2Proof.Machine.execGetMeasurements index s
  | .trainingComplete failedDies failedLinks => Sys2Proof.Machine.execTrainingComplete failedDies failedLinks s
  | .callkRetire => Sys2Proof.Machine.execCallkRetire s
  | .nestCycle => Sys2Proof.Machine.execNestCycle s
  | .nestExit => Sys2Proof.Machine.execNestExit s
  | .loadDataReturn => Sys2Proof.Machine.execLoadDataReturn s
  | .xlatRetire => Sys2Proof.Machine.execXlatRetire s
  | .fenceRetire => Sys2Proof.Machine.execFenceRetire s
  | .arrivalRegister => Sys2Proof.Machine.execArrivalRegister s
  | .planeStoreSettle => Sys2Proof.Machine.execPlaneStoreSettle s
  | .muldivResult => Sys2Proof.Machine.execMuldivResult s
  | .vResultLand => Sys2Proof.Machine.execVResultLand s
  | .conditionPushDeferred => Sys2Proof.Machine.execConditionPushDeferred s
  | .pendingTokenPush => Sys2Proof.Machine.execPendingTokenPush s
  | .mWordComplete => Sys2Proof.Machine.execMWordComplete s
  | .xChunk => Sys2Proof.Machine.execXChunk s
  | .xCommandComplete => Sys2Proof.Machine.execXCommandComplete s
  | .timer => Sys2Proof.Machine.execTimer s
  | .interruptTake => Sys2Proof.Machine.execInterruptTake s
  | .trapEntry => Sys2Proof.Machine.execTrapEntry s
  | .replayEntryLand => Sys2Proof.Machine.execReplayEntryLand s
  | .fatalError => Sys2Proof.Machine.execFatalError s
  | .pauseHoldEnd => Sys2Proof.Machine.execPauseHoldEnd s
  | .haltRetire => Sys2Proof.Machine.execHaltRetire s
  | .preemption => Sys2Proof.Machine.execPreemption s
  | .fairnessPeriod => Sys2Proof.Machine.execFairnessPeriod s
  | .atomicopRequest => Sys2Proof.Machine.execAtomicopRequest s
  | .lazyReleaseFlush => Sys2Proof.Machine.execLazyReleaseFlush s
  | .semaphoreLeaseExpiry => Sys2Proof.Machine.execSemaphoreLeaseExpiry s
  | .deviceReset => Sys2Proof.Machine.execDeviceReset s
  | .powerOn => Sys2Proof.Machine.execPowerOn s
  | .counterPersist => Sys2Proof.Machine.execCounterPersist s
  | .translationWalkComplete => Sys2Proof.Machine.execTranslationWalkComplete s
  | .cfenceRetire => Sys2Proof.Machine.execCfenceRetire s
  | .stlRetire => Sys2Proof.Machine.execStlRetire s
  | .sluiceOrHomeAnswer => Sys2Proof.Machine.execSluiceOrHomeAnswer s
  | .powerLoss => Sys2Proof.Machine.execPowerLoss s

end Sys2Proof.Machine
end

