-- ==== Sys2Proof/Machine/Turn.lean ====
section
/-! DEFINITION. What the next step is: which internal event is due, which word an engine takes up, and how the turn
passes from phase to phase, from core to core and to the device (spec/02 R15 to R22, spec/09 R181; log 1). -/
namespace Sys2Proof.Machine

/-- The next step: an instruction or event to execute, or a state that only passes the turn on. -/
inductive Action where
  | run (i : Instr) (s : State)
  | stay (s : State)

/-- An event, where it is due. -/
def due (b : Bool) (i : Instr) : Option Instr := if b then some i else none

/-- The first event that is due. -/
def firstDue : List (Option Instr) → Option Instr
  | [] => none
  | some i :: _ => some i
  | none :: xs => firstDue xs

/-! ### The landing phase of a core's cycle -/

/-- An S word in flight that falls due. -/
def SFlight.event (f : SFlight) (s : State) : Option Instr :=
  if f.remain ≠ 0 then none
  else
    match f.work with
    | .muldiv _ _ _ => if s.core.entry || s.core.restoring ≠ [] then none else some (if f.again then .replayEntryLand else .muldivResult)
    | .load _ _ _ _ => some .loadDataReturn
    | .lds _ _ => some .loadDataReturn
    | .xlat _ _ _ _ _ => due (f.sig != 0 || s.core.accepts f) .xlatRetire
    | .fence k => due (s.fenceOk k f.born) .fenceRetire
    | .cfence k _ _ => due (s.fenceOk k f.born && (f.sig != 0 || s.core.accepts f)) .cfenceRetire
    | .stl k => due (k.toNat < 2 || s.dev.allReached) .stlRetire
    | .peer _ _ _ _ _ => none

/-- What holds S ends; a HALT that waits counts as not issued once a trap is due (log 31). -/
def Core.holdEvent (c : Core) : Option Instr :=
  match c.scalar.hold with
  | .callk 0 _ _ _ => some .callkRetire
  | .pause 0 _ => some .pauseHoldEnd
  | .halt _ => due (c.drained && !c.stopped) .haltRetire
  | _ => none

/-- The first line of a nest body, of so many rows after the NEST at S's counter, that is not in the instruction
caches. -/
def State.missingBody (s : State) (rows : Nat) : Option Word :=
  (List.range (4 * rows)).findSome? (fun k =>
    let va := s.core.engS.pc + 4 + BitVec.ofNat 64 (4 * k)
    if (s.fetchWord va).isNone then some va else none)

/-- The test of a nest cycle, after the body has been read again where a TRET or a restore left it out. -/
def State.nestTest (s : State) : Option Instr :=
  match s.core.nest with
  | none => none
  | some n =>
    if n.checked || s.core.stopped || s.core.fails ≠ [] || s.core.returning || s.core.restoring ≠ [] then none
    else if n.body = [] then
      match s.missingBody n.rows with
      | some va => due (!s.core.fetchHeld) (.instructionFetch va)
      | none => some .nestCycle
    else some .nestCycle

/-- The exit of a nest, once the nest cycle has been tested and the results that are due have landed (R95). -/
def State.nestEnd (s : State) : Option Instr :=
  due (!s.core.stopped && s.core.nestOver && s.core.nest.any (·.checked)) .nestExit

/-- The V results that fall due, where they land: replay entries first. -/
def Core.landEvents (c : Core) (here : Bool) : List (Option Instr) :=
  let go := here && c.landsV
  [due (go && c.vec.flights.any (fun f => f.remain = 0 && f.again)) .replayEntryLand,
   due (go && c.vec.flights.any (fun f => f.remain = 0)) .vResultLand]

/-- What lands before the engines issue, and in a nest the test of the nest cycle before the V results that are due in it. -/
def State.landEvent (s : State) : Option Instr :=
  let c := s.core
  firstDue ([
    due c.fatal.isSome .fatalError,
    due (c.walk.any (fun w => w.remain = 0 && !w.asked)) .translationWalkComplete] ++
    c.landEvents c.nest.isNone ++ [
    c.scalar.flights.findSome? (fun f => f.event s),
    c.holdEvent,
    due (c.scalar.armed && c.scalar.timer = 0) .timer,
    s.nestTest] ++
    c.landEvents c.nest.isSome ++ [s.nestEnd])

/-! ### The draining phase -/

/-- Whether engine e has already recorded a fault in this cycle. -/
def Core.failed (c : Core) (e : Engine) : Bool := c.fails.any (fun f => f.engine = e)

/-- What X does with the head of its journal; it begins no chunk while a trap is being taken, but finishes one whose writes
are at peers (R187), and none while TRET retires or a restore waits for pages (R126, R198). -/
def State.journalEvent (s : State) : Option Instr :=
  let c := s.core
  match c.xfer.journal with
  | [] => none
  | e :: _ =>
    if e.wait ≠ 0 || c.failed .x || (c.entry && c.xfer.sent.isNone) || c.returning || c.restoring ≠ [] then none
    else if e.next < c.chunks e then due (s.chunkDue e) .xChunk
    else due (s.mayComplete e) .xCommandComplete

def State.drainEvent (s : State) : Option Instr :=
  let c := s.core
  firstDue [
    due (tagNums.any s.canRegister) .arrivalRegister,
    due (match c.mat.queue with
      | w :: _ => w.remain = 0
      | [] => false) .mWordComplete,
    s.journalEvent,
    due c.tokenReady .pendingTokenPush,
    due (c.lateReady || c.heldReady) .conditionPushDeferred,
    engines.findSome? (fun e => due (c.stalledOut e) (.watchdog e))]

/-! ### The close of a core's cycle (R181) -/

/-- The event at the boundary after this cycle: a fatal error, a trap, or an interrupt. A resumable cause waits for the end
of a walk or a barrier wait, and the frame for the S words in flight (R180, R182, R243, R255). A core that has met a fatal
error takes no other (R192). An interrupt that is pending when TRET restores the state is taken at the close of the cycle in which
TRET retires: the model's choice of the first boundary after resumption (R123; log 90). -/
def State.closeEvent (s : State) : Option Instr :=
  let c := s.core
  if c.fatal.isSome then none
  else
    match c.cause with
    | some f =>
      if f.isFatal || c.scalar.handler then some .fatalError
      else if !s.canStop then none
      else if c.handlerAt = 0 then some .fatalError
      else due s.settled .trapEntry
    | none => due (c.interrupt.isSome && s.canStop) .interruptTake

/-- With no event, the cycle ends; a trap that is due stops the engines, and at its boundary the core waits there. -/
def State.closeCycle (s : State) : State :=
  let s := s.onCore Core.advance
  let stop := s.core.cause.isSome
  let there := stop && s.canStop
  s.onCore (fun c => { c with stopped := stop, entry := there })

/-! ### The device's turn -/

/-- Dies of the device. -/
def Device.dieList (d : Device) : List Nat := List.range d.dies

/-- The event of a region that is due. -/
def State.regionEvent (s : State) : Option Instr :=
  firstDue [
    s.dev.regions.findSome? (fun r => due (s.completionDue r) (.regionComplete r.key)),
    s.dev.regions.findSome? (fun r => due (r.images ≠ [] && s.takes r ≠ []) (.restore r.key)),
    s.dev.regions.findSome? (fun r => due (r.images = [] && s.takes r ≠ []) (.dispatch r.key))]

def State.deviceEvent (s : State) : Option Instr :=
  let d := s.dev
  firstDue [
    d.dieList.findSome? (fun x => due (d.nextRemote x).isSome (.remoteWriteApply x)),
    due (d.settling ≠ []) .planeStoreSettle,
    tagNums.findSome? (fun g => due (d.phaseReady g) (.phaseComplete g)),
    tagNums.findSome? (fun g => due (d.released g ≠ []) (.barrierRelease g)),
    s.regionEvent,
    due (s.answerDue ≠ []) .sluiceOrHomeAnswer,
    d.joins.findSome? (fun k => (d.ccb? k).bind (fun c => due (d.ccbTerminal c) (.join k))),
    due (s.preemptable ≠ []) .preemption,
    d.regions.findSome? (fun r => due (s.preemptDue r) (.priorityPreemptWait r.key)),
    due (usUnits 50 * (d.period + 1) ≤ d.wall) .fairnessPeriod,
    d.ccbs.findSome? (fun c => due (c.check.any (fun t => t ≤ d.wall)) (.policyCheck c.slot)),
    due (d.lazy.any d.flushDue) .lazyReleaseFlush,
    due (d.glaes.holder.isSome && d.glaes.lease ≤ d.wall) .semaphoreLeaseExpiry,
    due (d.glaes.persistAt ≤ d.wall) .counterPersist,
    d.retrainAt.findSome? (fun x => due (x.2 + usUnits 2 ≤ d.wall) (.rillLinkDown x.1)),
    d.stopAt.findSome? (fun x => due (x.2 + usUnits 2 ≤ d.wall && s.cores.any (fun c => c.running && d.dieOf c.id = x.1))
      (.dieIsolationStop x.1)),
    d.stopAt.findSome? (fun x => due (x.2 + usUnits 10 ≤ d.wall) (.isolationConfirm x.1))]

/-! ### The turn passes on -/

/-- Makes a core the current one, the current one taking its place. -/
def State.focus (s : State) (id : Nat) : State :=
  match s.others.find? (fun c => c.id = id) with
  | none => s
  | some c => { s with core := c, others := s.others.map (fun x => if x.id = id then s.core else x) }

/-- The lowest core that has come to its first word, of those whose number is at least `from'`. -/
def State.runningFrom (s : State) (from' : Nat) : Option Nat :=
  s.cores.foldl (fun best c =>
    if s.dev.live c && decide (from' ≤ c.id) then
      match best with
      | none => some c.id
      | some b => some (Nat.min b c.id)
    else best) none

/-- The turn goes to the next running core, or after the last one to the device. -/
def State.nextCore (s : State) : State :=
  let id := s.core.id
  let s := s.onCore (fun c => { c with phase := .land })
  match s.runningFrom (id + 1) with
  | some k => s.focus k
  | none => { s with dev := { s.dev with turn := true } }

/-- The lines of deferred releases that are evicted in this cycle, or that a host thread reads: their flush falls due (R252, R316;
log 101). -/
def Device.evict (d : Device) : Device :=
  { d with lazy := d.lazy.map (fun z => if Config.evicted d.cycle z.line then { z with due := Nat.min z.due d.cycle } else z) }

/-- The core cycle ends for the device, and the first running core begins the next: time goes on, with the gaps of a
throttled clock, memory meets its errors, requests of peers that waited are served, and invalidations whose accesses are done are
acknowledged (R2, R215, R252, R325). -/
def State.endCycle (s : State) : State :=
  let units := cycleUnits s.dev.reduced + s.dev.gapUnits
  let s := (s.tickRegions units).settleInvals
  let d := { s.dev.upset.evict.serveHeld with cycle := s.dev.cycle + 1, wall := s.dev.wall + units }
  let s := ({ s with dev := d } : State).stopPreempted
  match s.runningFrom 0 with
  | some k =>
    let s := if s.core.id = k then s else s.focus k
    { s with dev := { s.dev with turn := false } }
  | none => s

/-! ### The word an engine takes up (R15 to R22) -/

/-- In a nest: the body word that is due, with its indices (R88). -/
def State.nestAction (s : State) (e : Engine) : Action :=
  let quiet := Action.stay (s.onCore (·.endTurn e))
  match s.core.nest with
  | none => quiet
  | some n =>
    if s.core.cleared then
      match s.core.dueWord n e with
      | none => quiet
      | some (_, w, i) =>
        match decodeWord w with
        | .ok k => .run k (s.onCore (fun c => { c with idx := i }))
        | .error _ => quiet
    else quiet

/-- The engine's own word: it is decoded and executed; a word that no row decodes raises ILLEGAL (R38). A NEST also
needs the lines of its body. -/
def State.ownWord (s : State) (e : Engine) (w : W32) : Action :=
  match decodeWord w with
  | .error _ => .stay (s.onCore (fun c => (c.addFail e 0x01 (w.setWidth 64)).endTurn e))
  | .ok (.nest t r i k) =>
    match (if s.core.nestReady = .go then s.missingBody (r.toNat + 1) else none) with
    | some va => .run (.instructionFetch va) s
    | none => .run (.nest t r i k) s
  | .ok i => .run i s

/-- Engine e at a word of another engine: it follows a path word, stops at NEST and HALT, and passes the rest. -/
def State.otherWord (s : State) (e : Engine) (w : W32) : Action :=
  if isNestWord w || isHaltWord w then .stay (s.onCore (fun c => c.stallTurn e (c.quietStall e)))
  else if !s.core.slipOk e then .stay (s.onCore (·.stallTurn e (some 4)))
  else if isPathWord w && e ≠ .s then .run (.pathEntryPop e) s
  else .stay (s.onCore (·.moveTo e ((s.core.eng e).pc + 4)))

/-- Engine e outside a nest, at its program counter. Only S takes a fetch fault; an engine ahead of it that meets such a
line waits there until S reaches the line, whatever other cores fetch meanwhile (R140, R190). While fetches are held S takes no
word up, and no line is fetched (R258). Refused pushes and a held bit go on counting (R22). -/
def State.textAction (s : State) (e : Engine) : Action :=
  let va := (s.core.eng e).pc
  let wait := Action.stay (s.onCore (fun c => c.stallTurn e (c.quietStall e)))
  if e ≠ .s ∧ s.core.unfetched.contains (lineVa va) then wait
  else
    match s.fetchWord va with
    | some w =>
      if e = .s ∧ s.core.fetchHeld then wait
      else
        let s := if e = .s then s.onCore (·.reachLine va) else s
        if wordEngine w = e then s.ownWord e w else s.otherWord e w
    | none =>
      if s.core.fetchHeld then wait
      else
        match e, s.fetchLine va with
        | .s, _ => .run (.instructionFetch va) s
        | _, .line _ => .run (.instructionFetch va) s
        | _, .fault _ _ => .stay (s.onCore (fun c => (c.missLine va).stallTurn e (c.quietStall e)))

/-- The turn of engine e in a cycle. While S is held, by a refused push, a late word, PAUSE, a barrier or a bubble, it passes no
words of other engines either, where the others go on passing words while they are held (R15; log 104). The freeze of a walk has
each engine's stall count begin again (R22, R213; log 105). Both are the model's choices. -/
def State.wordAction (s : State) (e : Engine) : Action :=
  let c := s.core
  if c.stopped || c.failed e || ((c.scalar.handler || c.returning) && e ≠ .s) then .stay (s.onCore (·.endTurn e))
  else if c.walk.isSome then .stay (s.onCore (·.stallTurn e none))
  else if c.nest.isSome then s.nestAction e
  else if e = .s then
    match c.sFree with
    | .wait code => .stay (s.onCore (·.stallTurn .s code))
    | _ => s.textAction .s
  else s.textAction e

/-! ### The next step -/

/-- An event that is due, or the turn passes to `t`. -/
def State.eventOr (s : State) (x : Option Instr) (t : State) : Action :=
  match x with
  | some i => .run i s
  | none => .stay t

/-- S's turn: once V, M and X have taken their tokens, its words that retire in this cycle have the effects that S sees in it
(R25, R121, R149). -/
def State.turnS (s : State) : Action := if s.core.earlyDue then .stay (s.onCore Core.early) else s.wordAction .s

/-- What the machine does next, with no event from outside. -/
def State.action (s : State) : Action :=
  if s.dev.turn then s.eventOr s.deviceEvent s.endCycle
  else if !s.dev.live s.core then .stay s.nextCore
  else
    match s.core.phase with
    | .land => s.eventOr s.landEvent (s.onCore (fun c => { c with phase := .issueX }))
    | .issueX => s.wordAction .x
    | .issueM => s.wordAction .m
    | .issueV => s.wordAction .v
    | .issueS => s.turnS
    | .drain => s.eventOr s.drainEvent (s.onCore (fun c => { c with phase := .close }))
    | .close => s.eventOr s.closeEvent s.closeCycle
    | .over => .stay s.nextCore

/-- An event from outside is taken first; without power, only power-on is (R339; log 17). -/
def State.outside (s : State) : Option (Instr × State) :=
  let box := if s.dev.powered then s.dev.inbox else s.dev.inbox.dropWhile (fun i => i ≠ .powerOn)
  match box with
  | [] => none
  | i :: rest => some (i, { s with dev := { s.dev with inbox := rest } })

/-- The next step of a machine with power, or with power-on to come; none without. -/
def State.nextAction (s : State) : Option Action :=
  match s.outside with
  | some (i, t) => some (.run i t)
  | none => if s.dev.powered then some s.action else none

/-! ### A word where it is fetched next (log 14) -/

/-- The page that maps S's, V's, M's or X's next word where none does: 4 KiB of CODE at frame 0. -/
def State.fetchPage (s : State) (va : Word) : Page :=
  ⟨s.pasid, va.toNat / 4096 * 4096, 12, .code, false, false, true, 0, 0, none, false⟩

/-- The phase in which an engine issues. -/
def issuePhase : Engine → Phase
  | .s => .issueS
  | .v => .issueV
  | .m => .issueM
  | .x => .issueX

/-- The core is running outside a nest and a walk, with nothing holding S and no word of S about to fault, at the turn of an
engine. -/
def Core.readyFor (c : Core) (e : Engine) : Core :=
  { c with running := true, phase := issuePhase e, scalar := { c.scalar with hold := .none, late := [] }, nest := none, walk := none,
           queues := { c.queues with pushes := c.queues.pushes.filter (fun p => match p.kind with
             | .retire w => !w.effect.early
             | _ => true) },
           job := { c.job with started := 0 }, fails := [], fatal := none, stopped := false, entry := false, unfetched := [], restoring := [] }

/-- Puts a word at va, mapped, in memory and in the instruction caches of the core's die. -/
def State.putWord (s : State) (va : Word) (w : W32) : State :=
  let p := match findPage s.dev.pages s.pasid va.toNat with
    | some p => if p.canExec then p else s.fetchPage va
    | none => s.fetchPage va
  let a := p.addr va.toNat
  let mem := s.dev.mem.write a (leBytes 4 w.toNat)
  let l : ILine := ⟨s.dev.dieOf s.core.id, a / 128, BitVec.ofNat 1024 (leNat (mem.bytes (a / 128 * 128) 128))⟩
  { s with dev := { s.dev with mem := mem, pages := p :: s.dev.pages, icache := l :: s.dev.icache } }

/-- The state in which the very next step takes up word w. -/
def State.withWord (s : State) (w : W32) : State :=
  let e := wordEngine w
  let s := s.onCore (·.readyFor e)
  let s := { s with dev := { s.dev with powered := true, inbox := [], turn := false } }
  s.putWord ((s.core.eng e).pc) w

end Sys2Proof.Machine
end

