-- ==== Sys2Proof/Machine/Step.lean ====
section
/-! DEFINITION. One step of the machine: an event from outside, an event that is due, or the word that an engine
takes up; and the placing of a word where it is fetched next. -/
namespace Sys2Proof.Machine

/-- One step. -/
def step (s : State) : Host.Outcome State Fault Refusal :=
  match s.nextAction with
  | some (.run i t) => exec i t
  | some (.stay t) => .next t
  | none => .fault .noPower

/-- The word of nbits bits stored where step fetches its next instruction (log 14). -/
def State.withFetchWord (s : State) (nbits w : Nat) : State := s.withWord (BitVec.ofNat 32 (w % 2 ^ nbits))

end Sys2Proof.Machine
end

