-- ==== Sys2Proof/Safety.lean ====
section
/-! DEFINITION. The terms of the claims: when a word can issue (spec/02 R19, R24; spec/07 R131; spec/08 R155;
spec/05 R98; spec/11 R222), what a step leaves unchanged, what its results are, and the invariants of the state. -/
namespace Sys2Proof.Machine

/-- Executing i answers a next state that satisfies P. -/
def Runs (i : Instr) (s : State) (P : State → Prop) : Prop := ∃ u, exec i s = .next u ∧ P u

/-! ### Invariants -/

/-- Device memory and every scratchpad are in their canonical form (log 3). -/
structure MemoryOk (s : State) : Prop where
  device  : s.dev.mem.wf = true
  current : s.core.store.spad.wf = true
  rest    : ∀ c ∈ s.others, c.store.spad.wf = true

/-! ### When a word can issue -/

/-- What every word of engine e needs: no walk freezes the core (R213), no refused push of the engine is pending
(R25), the slip window allows a step (R19), and the tokens that tok field t and wait mask m take are there (R24). -/
structure CanIssue (c : Core) (e : Engine) (t m : BitVec 3) : Prop where
  noWalk   : c.walk = none
  pushed   : c.pushPending e = false
  inWindow : c.slipOk e = true
  tokens   : c.tokensOk e t m = true

/-- An S word besides: nothing holds S, no word before it still waits to retire or is to be followed by a fault, and no S word
in flight will still write a register it reads or writes (R25, R131, R149). -/
structure SReady (c : Core) (t m : BitVec 3) (rs : List (BitVec 6)) : Prop where
  issue : CanIssue c .s t m
  free  : c.scalar.hold = .none
  done  : c.scalar.late = []
  calm  : c.faultComing = false
  clear : ∀ r ∈ rs, c.ready r = true

/-- A path word besides: room in the three path queues, except in a handler, where it pushes nothing (R20, R125). -/
structure PathReady (c : Core) (t : BitVec 3) (rs : List (BitVec 6)) : Prop where
  word : SReady c t 0 rs
  room : c.scalar.handler = true ∨ c.pathRoom = true

/-- A V word besides: the word before it has issued in full, and no condition bit of V is held (R27, R155). -/
structure VReady (c : Core) (t m : BitVec 3) : Prop where
  issue : CanIssue c .v t m
  idle  : c.vec.busy = 0
  noBit : c.queues.held = []

/-- A queued M word besides: fewer than 8 words are queued (R98). -/
structure MReady (c : Core) (t : BitVec 3) : Prop where
  issue : CanIssue c .m t 0
  room  : c.mat.queue.length < 8

/-- A copying command besides: room in the journal (R222). -/
structure XReady (c : Core) (t : BitVec 3) : Prop where
  issue : CanIssue c .x t 0
  room  : c.journalLoad < 32

/-! ### What stays unchanged -/

/-- The control, flag and trap registers of a core, the words that wait to retire, and its identity. -/
structure KeepsControl (c k : Core) : Prop where
  id      : k.id = c.id
  running : k.running = c.running
  slip    : k.scalar.slip = c.scalar.slip
  fpmode  : k.scalar.fpmode = c.scalar.fpmode
  fpflags : k.scalar.fpflags = c.scalar.fpflags
  tvec    : k.scalar.tvec = c.scalar.tvec
  tcause  : k.scalar.tcause = c.scalar.tcause
  tval    : k.scalar.tval = c.scalar.tval
  timer   : k.scalar.timer = c.scalar.timer
  armed   : k.scalar.armed = c.scalar.armed
  ien     : k.scalar.ien = c.scalar.ien
  ipend   : k.scalar.ipend = c.scalar.ipend
  handler : k.scalar.handler = c.scalar.handler
  late    : k.scalar.late = c.scalar.late
  stash   : k.scalar.stash = c.scalar.stash
  sentOut : k.scalar.sentOut = c.scalar.sentOut
  raised  : k.scalar.raised = c.scalar.raised
  fatal   : k.fatal = c.fatal

/-- Vector registers, masks, window, latch and the results in flight; accumulators and the words in M's queue; the
commands in X's journal; the configurations; the deque and the core's work. -/
structure KeepsUnits (c k : Core) : Prop where
  vector   : k.vec = c.vec
  accs     : k.mat.accs = c.mat.accs
  queued   : k.mat.queue.map (·.instr) = c.mat.queue.map (·.instr)
  commands : k.xfer.journal.map (·.word) = c.xfer.journal.map (·.word)
  active   : k.active = c.active
  shadow   : k.shadow = c.shadow
  deque    : k.deque = c.deque
  job      : k.job = c.job

/-- Every byte of memory and of the core's scratchpad, read one by one; the other cores are untouched. -/
structure KeepsMemory (s u : State) : Prop where
  memory  : ∀ a, u.dev.byteAt a = s.dev.byteAt a
  scratch : ∀ o, u.core.store.spad.get o = s.core.store.spad.get o
  others  : u.others = s.others

/-- The frame of a word that writes at most the registers of ds. -/
structure Frame (ds : List (BitVec 6)) (s u : State) : Prop where
  regs    : ∀ r, r ∉ ds → u.core.reg r = s.core.reg r
  control : KeepsControl s.core u.core
  units   : KeepsUnits s.core u.core
  store   : u.core.store = s.core.store
  memory  : KeepsMemory s u
  device  : u.dev = s.dev
  fails   : u.core.fails = s.core.fails

/-- The frame of a step of the device: the cores stay as they are. -/
structure CoresStay (s u : State) : Prop where
  core   : u.core = s.core
  others : u.others = s.others

/-! ### Results of S words -/

/-- Nothing in flight, held or queued changes but the pushes of the end of a cycle, which gain ps. -/
structure Pushes (s u : State) (ps : List Push) : Prop where
  pushes  : u.core.queues.pushes = s.core.queues.pushes ++ ps
  cond    : u.core.queues.cond = s.core.queues.cond
  held    : u.core.queues.held = s.core.queues.held
  pathV   : u.core.queues.pathV = s.core.queues.pathV
  pathM   : u.core.queues.pathM = s.core.queues.pathM
  pathX   : u.core.queues.pathX = s.core.queues.pathX

/-- The engine e has passed the word, outside a nest to the next word in address order (R15, R17). -/
def Passes (s u : State) (e : Engine) : Prop :=
  s.core.nest = none → (u.core.eng e).pc = (s.core.eng e).pc + 4 ∧ (u.core.eng e).walk = (s.core.eng e).walk + 1

/-- The tokens of the word's waits are taken, one for its tok field and one for each masked partner (R24). -/
def TakesTokens (s u : State) (e : Engine) (t m : BitVec 3) : Prop :=
  ∀ p : Fin 3, u.core.tokens e p = s.core.tokens e p - tokenNeed t m p

/-- The retirement of an S word with tok field t in `wait` cycles: its token, and its effect (R24, R25, R131). -/
def retires (wait : Nat) (t : BitVec 3) (e : SEffect) : List Push := retirePush wait 0 (sigMask t) e

/-- An S word that writes v to s[d], unless d is s0, and retires in the cycle after issue, when it signals
(R24, R128, R131). -/
structure WritesReg (s : State) (t : BitVec 3) (d : BitVec 6) (v : Word) (u : State) : Prop where
  value   : u.core.reg d = if d = 0 then 0 else v
  frame   : Frame [d] s u
  signal  : Pushes s u (retires 1 t .none)
  waits   : TakesTokens s u .s t 0
  flights : u.core.scalar.flights = s.core.scalar.flights
  hold    : u.core.scalar.hold = s.core.scalar.hold
  next    : Passes s u .s

/-- An S word that changes no register, and pushes ps at the end of a cycle. -/
structure OnlyPushes (s : State) (t m : BitVec 3) (ps : List Push) (u : State) : Prop where
  frame   : Frame [] s u
  pushes  : Pushes s u ps
  waits   : TakesTokens s u .s t m
  flights : u.core.scalar.flights = s.core.scalar.flights
  hold    : u.core.scalar.hold = s.core.scalar.hold
  next    : Passes s u .s

/-- An S word that stays in flight: in n cycles `work` is done, and then its token is pushed (R24, R131). -/
structure StartsWork (s : State) (t : BitVec 3) (n : Nat) (work : SWork) (h : Option (BitVec 4)) (u : State) : Prop where
  flights : ∃ f, u.core.scalar.flights = s.core.scalar.flights ++ [f] ∧ f.remain = n ∧ f.work = work ∧
              f.sig = sigMask t ∧ f.handle = h ∧ f.again = false ∧ f.born = s.dev.cycle
  frame   : Frame [] s u
  pushes  : Pushes s u []
  waits   : TakesTokens s u .s t 0
  hold    : u.core.scalar.hold = s.core.scalar.hold
  next    : Passes s u .s

/-- The frame of a word that writes at most the registers of ds, in pieces for the words that hold S or push more than
a token. -/
structure WordFrame (ds : List (BitVec 6)) (s u : State) : Prop where
  frame   : Frame ds s u
  flights : u.core.scalar.flights = s.core.scalar.flights
  held    : u.core.queues.held = s.core.queues.held
  pathV   : u.core.queues.pathV = s.core.queues.pathV
  pathM   : u.core.queues.pathM = s.core.queues.pathM
  pathX   : u.core.queues.pathX = s.core.queues.pathX

/-- A path word of S with tok field t: PC.S goes to the target, with a cycle in which S issues nothing, or to the next
word; when it retires its token is pushed, and its entry goes to the three path queues, but not in a handler (R20, R24,
R25, R125, R131). It writes at most the registers of ds. -/
structure TakesPath (s : State) (t : BitVec 3) (ds : List (BitVec 6)) (taken : Bool) (target : Word) (u : State) : Prop where
  pc     : u.core.engS.pc = if taken then target else s.core.engS.pc + 4
  walk   : u.core.engS.walk = s.core.engS.walk + 1
  hold   : u.core.scalar.hold = if taken then .bubble 1 else .none
  pushes : u.core.queues.pushes = s.core.queues.pushes ++
             retires 1 t (if s.core.scalar.handler then .none else .path taken target)
  waits  : TakesTokens s u .s t 0
  frame  : WordFrame ds s u

/-- An S word that holds S as `hold` says, and changes nothing else. -/
structure Holds (s : State) (t m : BitVec 3) (hold : Hold) (u : State) : Prop where
  hold   : u.core.scalar.hold = hold
  pushes : u.core.queues.pushes = s.core.queues.pushes
  cond   : u.core.queues.cond = s.core.queues.cond
  waits  : TakesTokens s u .s t m
  frame  : WordFrame [] s u

/-! ### Memory words (spec/11) -/

/-- An access of `size` bytes at offset o of handle h that passes the checks of R218 apart from its right, all in page p: no
fence and no acquire of a peer is in flight, no release that another core has deferred holds its line (R252), the handle is
VALID, the offset is aligned and within it, and its 64-byte lines lie in p as well. -/
structure Reaches (s : State) (h : BitVec 4) (o size : Nat) (p : Page) : Prop where
  unfenced : s.core.fenced = false
  settled  : s.core.handleReady h = true
  unheld   : s.heldAt h o = false
  valid    : (s.core.handle h).state = .valid
  aligned  : o % size = 0
  inside   : o + size ≤ (s.core.handle h).len.toNat
  page     : s.core.handlePage h o = some p
  whole    : size ≤ s.core.pageRoom h o p
  lines    : ∀ l ∈ linesOf ((s.core.handle h).va.toNat + o) size, s.core.pageOf h (64 * l) = some p
  placed   : p.va % 64 = 0 ∧ p.frame % 64 = 0

/-- The state in which the current core has asked the homes for the lines of n bytes at machine address a: a release of
another core that is deferred on one of them falls due in this cycle, and no core of another die owns one dirty any more
(R252, R334). -/
def State.asks (s : State) (a n : Nat) : State :=
  { s with dev := { s.dev with
      lazy := s.dev.lazy.map (fun z =>
        if z.core ≠ s.core.id ∧ z.line ∈ linesOf a n then { z with due := s.dev.cycle } else z)
      owned := s.dev.owned.filter (fun x => s.dev.dieOf x.2 = s.dev.dieOf s.core.id ∨ x.1 ∉ linesOf a n) } }

/-- A release at a scope may be performed: the loads from peers have returned, and from DEVICE scope on every write to a peer
that has been made is acknowledged, every die that may share a line is reached, and no write of the core was lost (R245,
R249, R312, R313, R334; logs 83, 102). -/
structure Released (s : State) (scope : BitVec 2) : Prop where
  loads  : ∀ f ∈ s.core.scalar.flights, ∀ d id size sext acq, f.work ≠ .peer d id size sext acq
  stores : 2 ≤ scope.toNat → ∀ r ∈ s.dev.peerReqs, r.isWrite = false
  reach  : 2 ≤ scope.toNat → s.dev.allReached = true
  lost   : 2 ≤ scope.toNat → ∀ x ∈ s.dev.lostLines, x.1 ≠ s.core.id

/-- The tokens of a mask of S, whose words before have all retired, find room at its partners (R25). -/
structure Accepts (c : Core) (g : BitVec 3) : Prop where
  done   : c.scalar.late = []
  pushed : c.pushPending .s = false
  room   : ∀ p : Fin 3, g.getLsbD p.val = true → c.tokens (Engine.s.partner p) 0 < 15

/-- A memory word of S, with its tok field, handle, offset, size, the least fn that gives it its right, and the registers
it reads and writes (R218 to R221, R242). -/
inductive MemoryWord (s : State) : Instr → BitVec 3 → BitVec 4 → Nat → Nat → Nat → List (BitVec 6) → Prop where
  | ldb  (t d a h i) : MemoryWord s (.ldb t d a h i) t h (s.core.reg a + BitVec.ofNat 64 (i.toNat * 1)).toNat 1 0 [a, d]
  | ldbu (t d a h i) : MemoryWord s (.ldbu t d a h i) t h (s.core.reg a + BitVec.ofNat 64 (i.toNat * 1)).toNat 1 0 [a, d]
  | ldh  (t d a h i) : MemoryWord s (.ldh t d a h i) t h (s.core.reg a + BitVec.ofNat 64 (i.toNat * 2)).toNat 2 0 [a, d]
  | ldhu (t d a h i) : MemoryWord s (.ldhu t d a h i) t h (s.core.reg a + BitVec.ofNat 64 (i.toNat * 2)).toNat 2 0 [a, d]
  | ldw  (t d a h i) : MemoryWord s (.ldw t d a h i) t h (s.core.reg a + BitVec.ofNat 64 (i.toNat * 4)).toNat 4 0 [a, d]
  | ldwu (t d a h i) : MemoryWord s (.ldwu t d a h i) t h (s.core.reg a + BitVec.ofNat 64 (i.toNat * 4)).toNat 4 0 [a, d]
  | ldd  (t d a h i) : MemoryWord s (.ldd t d a h i) t h (s.core.reg a + BitVec.ofNat 64 (i.toNat * 8)).toNat 8 0 [a, d]
  | stb  (t d a h i) : MemoryWord s (.stb t d a h i) t h (s.core.reg a + BitVec.ofNat 64 (i.toNat * 1)).toNat 1 1 [a, d]
  | sth  (t d a h i) : MemoryWord s (.sth t d a h i) t h (s.core.reg a + BitVec.ofNat 64 (i.toNat * 2)).toNat 2 1 [a, d]
  | stw  (t d a h i) : MemoryWord s (.stw t d a h i) t h (s.core.reg a + BitVec.ofNat 64 (i.toNat * 4)).toNat 4 1 [a, d]
  | std  (t d a h i) : MemoryWord s (.std t d a h i) t h (s.core.reg a + BitVec.ofNat 64 (i.toNat * 8)).toNat 8 1 [a, d]
  | stwp (t k a h i) : MemoryWord s (.stwp t k a h i) t h (s.core.reg a + BitVec.ofNat 64 (i.toNat * 4)).toNat 4 1
      [a, pairEven k, pairOdd k]
  | lda (t d a h w c q) : MemoryWord s (.lda t d a h w c q) t h (s.core.reg a).toNat (if w = 1 then 8 else 4) 0 [a, d]
  | stl (t d a h w c q) : MemoryWord s (.stl t d a h w c q) t h (s.core.reg a).toNat (if w = 1 then 8 else 4) 1 [a, d]
  | amoadd (t d a h w o c) : MemoryWord s (.amoadd t d a h w o c) t (BitVec.setWidth 4 h) (s.core.reg a).toNat
      (if w = 1 then 8 else 4) 2 [a, d]
  | amoswp (t d a h w o c) : MemoryWord s (.amoswp t d a h w o c) t (BitVec.setWidth 4 h) (s.core.reg a).toNat
      (if w = 1 then 8 else 4) 2 [a, d]
  | amocas (t k a h w o c) : MemoryWord s (.amocas t k a h w o c) t (BitVec.setWidth 4 h) (s.core.reg a).toNat
      (if w = 1 then 8 else 4) 2 [a, pairEven k, pairOdd k]
  | amomin (t d a h w o c) : MemoryWord s (.amomin t d a h w o c) t (BitVec.setWidth 4 h) (s.core.reg a).toNat
      (if w = 1 then 8 else 4) 2 [a, d]
  | amomax (t d a h w o c) : MemoryWord s (.amomax t d a h w o c) t (BitVec.setWidth 4 h) (s.core.reg a).toNat
      (if w = 1 then 8 else 4) 2 [a, d]
  | amominu (t d a h w o c) : MemoryWord s (.amominu t d a h w o c) t (BitVec.setWidth 4 h) (s.core.reg a).toNat
      (if w = 1 then 8 else 4) 2 [a, d]
  | amomaxu (t d a h w o c) : MemoryWord s (.amomaxu t d a h w o c) t (BitVec.setWidth 4 h) (s.core.reg a).toNat
      (if w = 1 then 8 else 4) 2 [a, d]
  | amoand (t d a h w o c) : MemoryWord s (.amoand t d a h w o c) t (BitVec.setWidth 4 h) (s.core.reg a).toNat
      (if w = 1 then 8 else 4) 2 [a, d]
  | amoor (t d a h w o c) : MemoryWord s (.amoor t d a h w o c) t (BitVec.setWidth 4 h) (s.core.reg a).toNat
      (if w = 1 then 8 else 4) 2 [a, d]
  | amoxor (t d a h w o c) : MemoryWord s (.amoxor t d a h w o c) t (BitVec.setWidth 4 h) (s.core.reg a).toNat
      (if w = 1 then 8 else 4) 2 [a, d]

/-- n bytes at va under a PASID lie in the one page p, in DEVICE memory that can be read, written and reached (R211,
R308). -/
structure OnePage (d : Device) (pasid : BitVec 20) (va n : Nat) (p : Page) : Prop where
  found  : ∀ x, va ≤ x → x < va + n → findPage d.pages pasid x = some p
  kind   : p.kind = .device
  read   : p.canRead = true
  write  : p.canWrite = true
  whole  : ∀ x, va ≤ x → x < va + n → d.reachable .device (p.addr x) p.dieLocal = true
  apart  : p.va ≤ va ∧ p.addr va + n ≤ enumPage

/-- Byte x of virtual memory in page p. -/
def Device.vaByte (d : Device) (p : Page) (x : Nat) : Byte := d.byteAt (p.addr x)

/-- The machine address of offset o of handle h in page p (R211). -/
def State.homeOf (s : State) (h : BitVec 4) (o : Nat) (p : Page) : Nat := p.addr ((s.core.handle h).va.toNat + o)

/-- The bytes bs stand at address a, and every other byte is as it was. -/
def Stored (s u : State) (a : Nat) (bs : List Byte) : Prop :=
  ∀ x, u.dev.byteAt x = if a ≤ x ∧ x < a + bs.length then (bs[x - a]?).getD 0 else s.dev.byteAt x

/-- What a store leaves unchanged besides memory: every register, flag, unit and scratchpad byte of the core, the other
cores, and of the device its mappings, barriers, planes, segment table and continuations. -/
structure StoreFrame (s u : State) : Prop where
  regs    : ∀ r, u.core.reg r = s.core.reg r
  control : KeepsControl s.core u.core
  units   : KeepsUnits s.core u.core
  store   : u.core.store = s.core.store
  fails   : u.core.fails = s.core.fails
  others  : u.others = s.others
  pages   : u.dev.pages = s.dev.pages
  tags    : u.dev.tags = s.dev.tags
  planes  : u.dev.planes = s.dev.planes
  ccbs    : u.dev.ccbs = s.dev.ccbs
  segtab  : u.dev.segtab = s.dev.segtab
  cycle   : u.dev.cycle = s.dev.cycle

/-! ### Results of V words -/

/-- The frame of a V word at issue: the vector registers, masks, window and latch stay until results land (R155). -/
structure VFrame (s u : State) : Prop where
  regs     : ∀ r, u.core.reg r = s.core.reg r
  control  : KeepsControl s.core u.core
  vregs    : u.core.vec.regs = s.core.vec.regs
  masks    : u.core.vec.masks = s.core.vec.masks
  latch    : u.core.vec.latch = s.core.vec.latch
  replay   : u.core.vec.replay = s.core.vec.replay
  mat      : u.core.mat = s.core.mat
  xfer     : u.core.xfer = s.core.xfer
  active   : u.core.active = s.core.active
  shadow   : u.core.shadow = s.core.shadow
  store    : u.core.store = s.core.store
  memory   : KeepsMemory s u
  device   : u.dev = s.dev
  fails    : u.core.fails = s.core.fails
  next     : Passes s u .v

/-- A V word that occupies V for `occ` cycles, whose results fs are in flight, the last one carrying its token
(R155, R157). -/
structure Flies (s : State) (t : BitVec 3) (occ : Nat) (fs : List Flight) (u : State) : Prop where
  flights : u.core.vec.flights = s.core.vec.flights ++ tokenOnLast (sigMask t) fs
  busy    : u.core.vec.busy = occ
  window  : u.core.vec.window = s.core.vec.window
  waits   : TakesTokens s u .v t 0
  pushes  : Pushes s u []
  frame   : VFrame s u

/-- The flags of n elements together. -/
def allFlags (n : Nat) (g : Nat → Flags) : Flags := (List.range n).foldl (fun a i => a ||| g i) 0

/-- The state in which a word that has put results in flight reads on: with them behind those in flight before (R155). -/
def State.after (s : State) (fs : List Flight) : State := s.onCore (·.withFlights fs)

/-- A V word over a block: register k of the block based at d lands k + lat cycles after issue, whole, and element i
of w bits of it is el k i, whose flags land with it; `tile` is the tile that the word keeps READY (R48, R154, R155,
R157). What el reads for register k it reads with the word's own results for the registers before k in flight (R155). -/
def WritesBlock (s : State) (t e : BitVec 3) (d : BitVec 5) (lat w : Nat) (el : State → Nat → Nat → Nat × Flags) (u : State)
    (tile : Option (BitVec 6) := none) : Prop :=
  ∃ fs, Flies s t (extSize e) fs u ∧ fs.length = extSize e ∧
    ∀ k < extSize e, ∃ v,
      let r := s.after (fs.take k)
      fs[k]? = some { flight (k + lat) (.vreg (s.core.phys (blockReg e d k)) v 0 1024)
        (allFlags (8192 / w) (fun i => (el r k i).2)) with tile := tile } ∧
      ∀ i < 8192 / w, bitsAt v w i = (el r k i).1 % 2 ^ w

/-- Element i of w bits of register k of the block based at n, as the word reads it k cycles after issue (R155). -/
def elemAt (s : State) (e : BitVec 3) (n : BitVec 5) (w k i : Nat) : Nat := bitsAt (s.core.vregAt (blockReg e n k) k) w i

/-- Element n of a run of elements of w bits in consecutive registers from `base`, as read k cycles after issue (R169). -/
def runAt (s : State) (base : BitVec 5) (w k n : Nat) : Nat :=
  bitsAt (s.core.vregAt (runReg base (n * w / 8192)) k) w (n % (8192 / w))

/-- A nest body of R30, for an initiation interval: each slot holds a word of its engine that decodes, those of S no path
word, NEST, TRET, HALT or PAUSE, and no engine has two words in rows congruent modulo it. -/
structure BodyOk (body : List W32) (ii : Nat) : Prop where
  engine : ∀ (k : Nat) (w : W32), body[k]? = some w → wordEngine w = slotEngine k
  words  : ∀ (k : Nat) (w : W32), body[k]? = some w → ∃ i, decodeWord w = .ok i
  plain  : ∀ (k : Nat) (w : W32), body[k]? = some w → k % 4 = 0 → isPathWord w = false ∧ isNestWord w = false ∧
             (wordOp w = 0x1A → fld w 0 3 ≠ 1 ∧ fld w 0 3 ≠ 2 ∧ fld w 0 3 ≠ 3)
  modulo : ∀ (j k : Nat) (v w : W32), body[j]? = some v → body[k]? = some w → j < k → j % 4 = k % 4 → (k / 4 - j / 4) % ii = 0 →
             isNop v = true ∨ isNop w = true

/-! ### Streams at use (spec/04 R79, R80; spec/11 R208, R218) -/

/-- Stream n passes the checks of R79, given what the word asks of its format, kind and shape, with the link of its
metadata stream, and for a stream that is read that stream itself. -/
structure StreamFits (c : Core) (n : BitVec 4) (fmtOk kindOk shapeOk : Prop) (reads : Bool)
    (metaOk : Stream → Prop := fun _ => True) : Prop where
  format  : (c.stream n).fmt ≠ 15 ∧ fmtOk
  kind    : kindOk
  shape   : (c.stream n).geomOk = true ∧ shapeOk
  aligned : (c.stream n).aligned = true
  named   : (c.stream n).men = true → (c.stream n).mq ≠ n
  marked  : (c.stream n).men = true → (c.stream (c.stream n).mq).fmt = 9 ∧ (c.stream (c.stream n).mq).kind ≤ 1
  sized   : reads = true → (c.stream n).men = true → (c.stream (c.stream n).mq).geomOk = true ∧ metaOk (c.stream (c.stream n).mq)
  even    : reads = true → (c.stream n).men = true → (c.stream (c.stream n).mq).aligned = true

/-- A TILE stream names a tile in use that is READY (R208). -/
def TileReady (c : Core) (q : Stream) : Prop :=
  q.kind = 1 → (c.tile q.tile).used = true ∧ (c.tile q.tile).state = .ready

/-- Bytes of one element at its offset. -/
def Stream.elemSize (q : Stream) : Nat := if q.width < 8 then 1 else q.width / 8

/-- Every valid element of a SPAD or TILE stream in rows rlo to rhi − 1 and columns lo to hi − 1 lies below its limit,
and with recs its scale record (R80). -/
def InSpad (c : Core) (q : Stream) (i : Idx) (rlo rhi lo hi : Nat) (recs : Bool) : Prop :=
  q.kind ≤ 1 → ∀ r k, rlo ≤ r → r < rhi → r < q.vrows → lo ≤ k → k < hi → k < q.vcols →
    q.elemOff i r k + q.elemSize ≤ c.spadLimit q ∧
    (recs = true → fmtScaled q.fmt = true → q.recOff i r k + 2 ≤ c.spadLimit q)

/-- The accumulators of the columns below hi of an ACCV stream with a valid row are present, and an FP64 pair starts at an
even one (R77, R80, R109). -/
def InAccs (c : Core) (q : Stream) (i : Idx) (hi : Nat) : Prop :=
  q.kind = 3 → 0 < q.vrows → ∀ k < hi, k < q.vcols →
    if q.fmt = 3 then q.accNum i k % 2 = 0 ∧ q.accNum i k + 1 < c.store.accs else q.accNum i k < c.store.accs

/-- The handle of a GLOBAL stream with a valid element in the first rows and columns is VALID, gives the right that is
asked, and holds every one of them (R80, R218). -/
structure InHandle (c : Core) (q : Stream) (i : Idx) (rows cols : Nat) (write : Bool) : Prop where
  valid  : q.kind = 2 → 0 < Nat.min rows q.vrows → 0 < Nat.min cols q.vcols → (c.handle q.handle).state = .valid
  right  : q.kind = 2 → 0 < Nat.min rows q.vrows → 0 < Nat.min cols q.vcols → write = true → (c.handle q.handle).fn ≠ 0
  inside : q.kind = 2 → ∀ r k, r < rows → r < q.vrows → k < cols → k < q.vcols →
    q.elemOff i r k + q.elemSize ≤ (c.handle q.handle).len.toNat

/-- A TILE stream names a tile that is unused or EMPTY (R208). -/
def TileAbsent (c : Core) (q : Stream) : Prop :=
  q.kind = 1 ∧ ((c.tile q.tile).used = false ∨ (c.tile q.tile).state = .empty)

/-- The even accumulators at which the FP64 pairs of an ACCV stream start, below column hi (R109). -/
def PairsEven (q : Stream) (i : Idx) (hi : Nat) : Prop :=
  q.kind = 3 → q.fmt = 3 → 0 < q.vrows → ∀ k < hi, k < q.vcols → q.accNum i k % 2 = 0

/-- The first check of R79 that stream n, or its metadata stream, fails, as the TVAL of its MATFMT: the number of the
stream and the reason (R79, R189). -/
inductive StreamFails (c : Core) (n : BitVec 4) (fmtOk kindOk shapeOk : Prop) (reads : Bool)
    (metaOk : Stream → Prop := fun _ => True) : Nat → Prop where
  | format (f : (c.stream n).fmt = 15 ∨ ¬fmtOk) : StreamFails c n fmtOk kindOk shapeOk reads metaOk (n.toNat + 256 * 1)
  | kind (f : (c.stream n).fmt ≠ 15 ∧ fmtOk) (k : ¬kindOk) :
      StreamFails c n fmtOk kindOk shapeOk reads metaOk (n.toNat + 256 * 2)
  | shape (f : (c.stream n).fmt ≠ 15 ∧ fmtOk) (k : kindOk) (g : ¬((c.stream n).geomOk = true ∧ shapeOk)) :
      StreamFails c n fmtOk kindOk shapeOk reads metaOk (n.toNat + 256 * 3)
  | aligned (f : (c.stream n).fmt ≠ 15 ∧ fmtOk) (k : kindOk) (g : (c.stream n).geomOk = true ∧ shapeOk)
      (a : (c.stream n).aligned = false) : StreamFails c n fmtOk kindOk shapeOk reads metaOk (n.toNat + 256 * 4)
  | link (f : (c.stream n).fmt ≠ 15 ∧ fmtOk) (k : kindOk) (g : (c.stream n).geomOk = true ∧ shapeOk)
      (a : (c.stream n).aligned = true) (b : (c.stream n).men = true)
      (l : (c.stream n).mq = n ∨ (c.stream (c.stream n).mq).fmt ≠ 9 ∨ 1 < (c.stream (c.stream n).mq).kind) :
      StreamFails c n fmtOk kindOk shapeOk reads metaOk (n.toNat + 256 * 5)
  | metaShape (h : StreamFits c n fmtOk kindOk shapeOk false) (r : reads = true) (b : (c.stream n).men = true)
      (g : ¬((c.stream (c.stream n).mq).geomOk = true ∧ metaOk (c.stream (c.stream n).mq))) :
      StreamFails c n fmtOk kindOk shapeOk reads metaOk ((c.stream n).mq.toNat + 256 * 3)
  | metaAligned (h : StreamFits c n fmtOk kindOk shapeOk false) (r : reads = true) (b : (c.stream n).men = true)
      (g : (c.stream (c.stream n).mq).geomOk = true ∧ metaOk (c.stream (c.stream n).mq))
      (a : (c.stream (c.stream n).mq).aligned = false) :
      StreamFails c n fmtOk kindOk shapeOk reads metaOk ((c.stream n).mq.toNat + 256 * 4)

/-- o is the offset of a valid element of a SPAD or TILE stream, among those that a word touches, past the limit of its
bytes (R80, R189). -/
def PastSpad (c : Core) (q : Stream) (i : Idx) (rlo rhi lo hi o : Nat) : Prop :=
  q.kind ≤ 1 ∧ ∃ r k, rlo ≤ r ∧ r < rhi ∧ r < q.vrows ∧ lo ≤ k ∧ k < hi ∧ k < q.vcols ∧
    o = q.elemOff i r k ∧ c.spadLimit q < o + q.elemSize

/-- v is an accumulator of an ACCV stream's columns below hi that is absent (R80, R109, R189). -/
def PastAccs (c : Core) (q : Stream) (i : Idx) (hi v : Nat) : Prop :=
  q.kind = 3 ∧ 0 < q.vrows ∧ c.store.accs ≤ v ∧
    ∃ k < hi, k < q.vcols ∧ (v = q.accNum i k ∨ q.fmt = 3 ∧ v = q.accNum i k + 1)

/-- The word of engine e is not issued: its fault is recorded, and nothing else of the machine changes (R181). -/
structure Faults (s u : State) (e : Engine) (cause : BitVec 8) (tval : Word) : Prop where
  fails   : u.core.fails = s.core.fails ++ [⟨e, cause, tval, s.core.wordAddr e⟩]
  scalar  : u.core.scalar = s.core.scalar
  vector  : u.core.vec = s.core.vec
  matrix  : u.core.mat = s.core.mat
  xfer    : u.core.xfer = s.core.xfer
  engines : ∀ f, u.core.eng f = s.core.eng f
  queues  : u.core.queues = s.core.queues
  shadow  : u.core.shadow = s.core.shadow ∧ u.core.active = s.core.active
  store   : u.core.store = s.core.store
  device  : u.dev = s.dev ∧ u.others = s.others

/-- Where P holds of some TVAL, the word i of engine e takes the fault with that cause and such a TVAL. -/
def Refuses (i : Instr) (s : State) (e : Engine) (cause : BitVec 8) (P : Nat → Prop) : Prop :=
  (∃ v, P v) → Runs i s (fun u => ∃ v, P v ∧ Faults s u e cause (BitVec.ofNat 64 v))

/-! ### Results of M and X words -/

/-- The frame of an M or X word at issue: no register, byte, accumulator or flag changes. -/
structure IssueFrame (s u : State) : Prop where
  regs     : ∀ r, u.core.reg r = s.core.reg r
  control  : KeepsControl s.core u.core
  vector   : u.core.vec = s.core.vec
  accs     : u.core.mat.accs = s.core.mat.accs
  active   : u.core.active = s.core.active
  shadow   : u.core.shadow = s.core.shadow
  handles  : u.core.store.handles = s.core.store.handles
  memory   : KeepsMemory s u
  device   : u.dev = s.dev
  fails    : u.core.fails = s.core.fails

/-- An M word enters the queue behind the words there, with its streams and indices and its occupancy (R98, R99). -/
structure Enqueues (s : State) (t : BitVec 3) (w : MWord) (u : State) : Prop where
  queue : u.core.mat.queue = s.core.mat.queue ++ [w]
  waits : TakesTokens s u .m t 0
  pushes : Pushes s u []
  store : u.core.store = s.core.store
  frame : IssueFrame s u
  next  : Passes s u .m

/-- A command enters the journal behind the commands there (R222). -/
structure Journals (s : State) (t : BitVec 3) (e : JEntry) (u : State) : Prop where
  journal : u.core.xfer.journal = s.core.xfer.journal ++ [e]
  waits   : TakesTokens s u .x t 0
  pushes  : Pushes s u []
  frame   : IssueFrame s u
  next    : Passes s u .x

/-- The handle bytes of the cells of a stream lie in page p of this device's own memory: each line of them is found in p, is
reachable, and is none of the management enumeration; p is no page of a plane or of a peer. -/
structure InPage (s : State) (q : Stream) (i : Idx) (p : Page) (cell : Nat → Nat → Prop) : Prop where
  kind   : q.kind = 2 → p.kind ≠ .plane ∧ p.kind ≠ .peer
  found  : q.kind = 2 → ∀ r k, cell r k → s.core.handlePage q.handle (q.elemOff i r k) = some p ∧
             q.elemSize ≤ s.core.pageRoom q.handle (q.elemOff i r k) p
  lines  : q.kind = 2 → ∀ r k, cell r k → ∀ l ∈ linesOf ((s.core.handle q.handle).va.toNat + q.elemOff i r k) q.elemSize,
             s.core.pageOf q.handle (64 * l) = some p ∧ p.addr (64 * l) + 64 ≤ enumPage ∧
             ∀ x < 64, s.dev.reachable p.kind (p.addr (64 * l) + x) p.dieLocal = true

/-- No line of the cells of a stream in page p is poisoned (R191). -/
def CleanIn (s : State) (q : Stream) (i : Idx) (p : Page) (cell : Nat → Nat → Prop) : Prop :=
  q.kind = 2 → ∀ r k, cell r k → (s.dev.readPage p ((s.core.handle q.handle).va.toNat + q.elemOff i r k) q.elemSize).2 = none

/-- The bits of element (r, c) of a SPAD, TILE or GLOBAL stream whose handle bytes lie in page p: zero where it is invalid
(R52, R76). -/
def State.elemIn (s : State) (q : Stream) (i : Idx) (p : Page) (r c : Nat) : Nat :=
  if q.valid r c = false then 0
  else if q.kind = 2 then
    let v := leNat (s.dev.bytesAt (p.addr ((s.core.handle q.handle).va.toNat + q.elemOff i r c)) q.elemSize)
    if q.width = 4 then v / (if q.upper c then 16 else 1) % 16 else v
  else s.core.elemBits s.core.store.spad q i r c

/-- No two valid elements of a stream share a bit of it (R77). -/
def Stream.Apart (q : Stream) (i : Idx) : Prop :=
  ∀ r k r' k', q.valid r k = true → q.valid r' k' = true → (r, k) ≠ (r', k') →
    q.elemOff i r k + q.elemSize ≤ q.elemOff i r' k' ∨ q.elemOff i r' k' + q.elemSize ≤ q.elemOff i r k ∨
    (q.width = 4 ∧ q.elemOff i r k = q.elemOff i r' k' ∧ q.upper k ≠ q.upper k')

/-! ### Traps (spec/09 R180 to R192) -/

/-- A core that comes to rest keeps every register that no M or X word in flight writes; its handles where no XLAT retires
with it, and the device where no CFENCE does and no release of X completes. -/
structure RestKeeps (s u : State) : Prop where
  regs    : ∀ r, u.core.reg r = s.core.reg r
  vregs   : u.core.vec.regs = s.core.vec.regs
  masks   : u.core.vec.masks = s.core.vec.masks
  window  : u.core.vec.window = s.core.vec.window
  latch   : u.core.vec.latch = s.core.vec.latch
  active  : u.core.active = s.core.active
  shadow  : u.core.shadow = s.core.shadow
  handles : (∀ f ∈ s.core.scalar.flights, ∀ h va len fn ps, f.work ≠ .xlat h va len fn ps) →
              u.core.store.handles = s.core.store.handles
  device  : (∀ f ∈ s.core.scalar.flights, ∀ k va len, f.work ≠ .cfence k va len) →
              (∀ e es, s.core.xfer.journal = e :: es → fld e.word 11 1 = 0) → u.dev = s.dev
  others  : u.others = s.others

/-- The doublewords of the trap frame that say why, where and with what, for the cause f of a core at rest as c (R183). -/
structure FrameHolds (c : Core) (f : Fail) (rd : Nat → Nat → Nat) : Prop where
  cause   : rd 0x00 8 = f.cause.toNat + f.engine.num * 2 ^ 8 + (if c.nest.isSome then 1 else 0) * 2 ^ 10
  tval    : rd 0x08 8 = f.tval.toNat
  pcs     : ∀ e : Engine, rd (0x10 + 8 * e.num) 8 = (c.eng e).pc.toNat
  walks   : ∀ e : Engine, rd (0x30 + 8 * e.num) 8 = (c.eng e).walk % 2 ^ 64
  nest    : ∀ n, c.nest = some n → rd 0x50 8 = (n.rows - 1 + (n.ii - 1) * 2 ^ 6) % 2 ^ 64 ∧ rd 0x58 8 = n.cycle % 2 ^ 64
  window  : rd 0x98 8 = c.vec.window.toNat
  latch   : rd 0xA0 8 = c.vec.latch.toNat
  replays : rd 0xA8 8 = c.replayBuffer.1.length % 2 ^ 64
  entries : rd 0xB0 8 = c.xfer.journal.length % 2 ^ 64

/-- The lists that a frame holds have the lengths it has room for (R20, R182 to R184). -/
structure FrameFits (c : Core) : Prop where
  pathV   : c.queues.pathV.length ≤ 32
  pathM   : c.queues.pathM.length ≤ 32
  pathX   : c.queues.pathX.length ≤ 32
  replays : c.replayBuffer.1.length ≤ 96
  entries : c.xfer.journal.length ≤ 32

/-- The handler starts for the cause f on a core that has come to rest as r: the frame is written into the trap save
area and nowhere else, the queues and what is in flight are cleared, TCAUSE and TVAL set, and PC.S takes TVEC
(R121, R124, R183). -/
structure EntersTrap (r : State) (f : Fail) (u : State) : Prop where
  tcause  : u.core.scalar.tcause = f.cause
  tval    : u.core.scalar.tval = f.tval
  handler : u.core.scalar.handler = true
  pc      : u.core.engS.pc = r.core.scalar.tvec
  stands  : ∀ e, e ≠ .s → (u.core.eng e).pc = (r.core.eng e).pc
  walks   : ∀ e, (u.core.eng e).walk = (r.core.eng e).walk
  queues  : u.core.queues = .reset
  free    : u.core.scalar.hold = .none ∧ u.core.scalar.flights = [] ∧ u.core.vec.flights = [] ∧ u.core.xfer.journal = []
  noNest  : u.core.nest = none ∧ u.core.idx = .zero
  control : u.core.scalar.slip = r.core.scalar.slip ∧ u.core.scalar.fpmode = r.core.scalar.fpmode ∧
              u.core.scalar.fpflags = r.core.scalar.fpflags ∧ u.core.scalar.tvec = r.core.scalar.tvec ∧
              u.core.scalar.timer = r.core.scalar.timer ∧ u.core.scalar.ien = r.core.scalar.ien ∧
              u.core.scalar.ipend = r.core.scalar.ipend
  accs    : u.core.mat = r.core.mat
  tiles   : u.core.store.tiles = r.core.store.tiles ∧ u.core.store.part = r.core.store.part
  frame   : FrameHolds r.core f u.core.saveArea
  apart   : FrameFits r.core → ∀ o, o < r.core.store.tsave ∨ r.core.store.tsave + 0x1A00 ≤ o →
              u.core.store.spad.get o = r.core.store.spad.get o

/-- The interrupt that is taken: pending, enabled, and of the lowest cause code, outside a handler; one that became pending
during a walk waits for its XLAT to retire, and each for a COLLISION that is still to be raised (R147, R180, R243). -/
structure InterruptDue (c : Core) (k : Nat) : Prop where
  outside : c.scalar.handler = false
  number  : k < 3
  pending : c.scalar.ipend.getLsbD k = true
  enabled : c.scalar.ien.getLsbD k = true
  waited  : c.scalar.deferred.getLsbD k = false
  calm    : c.collisionComing = false
  lowest  : ∀ j < k, ¬(c.scalar.ipend.getLsbD j = true ∧ c.scalar.ien.getLsbD j = true ∧ c.scalar.deferred.getLsbD j = false)

end Sys2Proof.Machine
end

