-- ==== Sys2Proof/Certificates/Slice0/Obligations.lean ====
section
/-! DEFINITION. The statements: what the numbered rules of spec/ say each instruction, each event and the machine do. -/
open Sys2Proof Sys2Proof.Machine

/-! ### Scalar words that compute (spec/07) -/

/-- R134: the register forms write the value of their operation on the operands as they stand, and nothing else; s0
discards it (R128). R135, R136: the immediate forms and the constants; LSH reads the register it writes, and ADDPC the
address of its own word. R135: the words that stand for the immediate forms, and the shifts that are ILLEGAL. -/
def Obligations.ComputingForms : Prop :=
  (
   ∀ (s : State) (t : BitVec 3) (d a b : BitVec 6), SReady s.core t 0 [a, b, d] →
     let x := s.core.reg a
     let y := s.core.reg b
     let n := y.toNat % 64
     Runs (.add t d a b) s (WritesReg s t d (x + y)) ∧
     Runs (.sub t d a b) s (WritesReg s t d (x - y)) ∧
     Runs (.and t d a b) s (WritesReg s t d (x &&& y)) ∧
     Runs (.or t d a b) s (WritesReg s t d (x ||| y)) ∧
     Runs (.xor t d a b) s (WritesReg s t d (x ^^^ y)) ∧
     Runs (.shl t d a b) s (WritesReg s t d (x <<< n)) ∧
     Runs (.shr t d a b) s (WritesReg s t d (x >>> n)) ∧
     Runs (.sra t d a b) s (WritesReg s t d (x.sshiftRight n)) ∧
     Runs (.min t d a b) s (WritesReg s t d (if x.toInt ≤ y.toInt then x else y)) ∧
     Runs (.max t d a b) s (WritesReg s t d (if y.toInt ≤ x.toInt then x else y)) ∧
     Runs (.minu t d a b) s (WritesReg s t d (if x.toNat ≤ y.toNat then x else y)) ∧
     Runs (.maxu t d a b) s (WritesReg s t d (if y.toNat ≤ x.toNat then x else y)) ∧
     Runs (.slt t d a b) s (WritesReg s t d (if x.toInt < y.toInt then 1 else 0)) ∧
     Runs (.sltu t d a b) s (WritesReg s t d (if x.toNat < y.toNat then 1 else 0))) ∧
  (
   ∀ (s : State) (t : BitVec 3) (d a : BitVec 6) (i : BitVec 9) (n : BitVec 6) (k : BitVec 15),
     (SReady s.core t 0 [a, d] →
       let x := s.core.reg a
       Runs (.addi t d a i) s (WritesReg s t d (x + i.signExtend 64)) ∧
       Runs (.andi t d a i) s (WritesReg s t d (x &&& i.signExtend 64)) ∧
       Runs (.ori t d a i) s (WritesReg s t d (x ||| i.signExtend 64)) ∧
       Runs (.xori t d a i) s (WritesReg s t d (x ^^^ i.signExtend 64)) ∧
       Runs (.shli t d a n) s (WritesReg s t d (x <<< n.toNat)) ∧
       Runs (.shri t d a n) s (WritesReg s t d (x >>> n.toNat)) ∧
       Runs (.srai t d a n) s (WritesReg s t d (x.sshiftRight n.toNat))) ∧
     (SReady s.core t 0 [d] →
       Runs (.lui t d k) s (WritesReg s t d (k.signExtend 64 <<< 9)) ∧
       Runs (.lsh t d k) s (WritesReg s t d (s.core.reg d <<< 15 ||| k.setWidth 64)) ∧
       (s.core.nest = none →
         Runs (.addpc t d k) s (WritesReg s t d (s.core.engS.pc + k.signExtend 64 * 4))))) ∧
  (
   ∀ (w : W32), w.extractLsb' 30 2 = 0 → w.extractLsb' 27 3 ≠ 4 →
     let t := w.extractLsb' 27 3
     let op := w.extractLsb' 21 6
     let d := w.extractLsb' 15 6
     let a := w.extractLsb' 9 6
     let i := w.extractLsb' 0 9
     let n := w.extractLsb' 0 6
     (op = 0x05 → decodeWord w = .ok (.addi t d a i)) ∧ (op = 0x06 → decodeWord w = .ok (.andi t d a i)) ∧
     (op = 0x07 → decodeWord w = .ok (.ori t d a i)) ∧ (op = 0x08 → decodeWord w = .ok (.xori t d a i)) ∧
     (w.extractLsb' 6 3 = 0 →
       (op = 0x09 → decodeWord w = .ok (.shli t d a n)) ∧ (op = 0x0A → decodeWord w = .ok (.shri t d a n)) ∧
       (op = 0x0B → decodeWord w = .ok (.srai t d a n))) ∧
     (w.extractLsb' 6 3 ≠ 0 → op = 0x09 ∨ op = 0x0A ∨ op = 0x0B → ∃ e, decodeWord w = .error e))

/-- R131, R134: a multiply is written three cycles after issue and a divide, which waits for the one before it,
eighteen. High halves are bits [127:64] of the full product; division by zero gives all ones and the dividend; the
quotient truncates toward zero and −2^63 ÷ −1 wraps. -/
def Obligations.MultiplyDivide : Prop :=
  ∀ (s : State) (t : BitVec 3) (d a b : BitVec 6), SReady s.core t 0 [a, b, d] →
    let x := s.core.reg a
    let y := s.core.reg b
    Runs (.mul t d a b) s (StartsWork s t 3 (.muldiv d (x * y) false) none) ∧
    Runs (.mulh t d a b) s
      (StartsWork s t 3 (.muldiv d ((x.signExtend 128 * y.signExtend 128).extractLsb' 64 64) false) none) ∧
    Runs (.mulhu t d a b) s
      (StartsWork s t 3 (.muldiv d ((x.setWidth 128 * y.setWidth 128).extractLsb' 64 64) false) none) ∧
    (s.core.dividing = false →
      Runs (.div t d a b) s
        (StartsWork s t 18 (.muldiv d (if y = 0 then BitVec.allOnes 64 else x.sdiv y) true) none) ∧
      Runs (.divu t d a b) s
        (StartsWork s t 18 (.muldiv d (if y = 0 then BitVec.allOnes 64 else x.udiv y) true) none) ∧
      Runs (.rem t d a b) s (StartsWork s t 18 (.muldiv d (if y = 0 then x else x.srem y) true) none) ∧
      Runs (.remu t d a b) s (StartsWork s t 18 (.muldiv d (if y = 0 then x else x.umod y) true) none))

/-- R137: a compare pushes its condition bit, and then its token, when it retires in the cycle after issue; it writes
no register. R137: the words that stand for the compares, and those that are ILLEGAL. R20, R138: BCQ and BCQN pop the
head of the condition queue; the target is the word's address plus four times the offset. -/
def Obligations.ComparesAndBranches : Prop :=
  (
   ∀ (s : State) (t : BitVec 3) (a b : BitVec 6) (i : BitVec 9),
     let x := s.core.reg a
     let y := s.core.reg b
     let z : Word := i.signExtend 64
     let pushes := fun (c : Bool) => OnlyPushes s t 0 (retires 1 t (.cond c))
     (SReady s.core t 0 [a, b] →
       Runs (.ceq t a b) s (pushes (decide (x = y))) ∧
       Runs (.cne t a b) s (pushes (decide (x ≠ y))) ∧
       Runs (.clt t a b) s (pushes (decide (x.toInt < y.toInt))) ∧
       Runs (.cge t a b) s (pushes (decide (y.toInt ≤ x.toInt))) ∧
       Runs (.cltu t a b) s (pushes (decide (x.toNat < y.toNat))) ∧
       Runs (.cgeu t a b) s (pushes (decide (y.toNat ≤ x.toNat)))) ∧
     (SReady s.core t 0 [a] →
       Runs (.ceqi t a i) s (pushes (decide (x = z))) ∧
       Runs (.clti t a i) s (pushes (decide (x.toInt < z.toInt))))) ∧
  (
   ∀ (w : W32), w.extractLsb' 30 2 = 0 → w.extractLsb' 27 3 ≠ 4 →
     let t := w.extractLsb' 27 3
     let op := w.extractLsb' 21 6
     let a := w.extractLsb' 9 6
     let b := w.extractLsb' 3 6
     let i := w.extractLsb' 0 9
     let fn := w.extractLsb' 0 3
     (w.extractLsb' 15 6 = 0 →
       (op = 0x04 →
         (fn = 0 → decodeWord w = .ok (.ceq t a b)) ∧ (fn = 1 → decodeWord w = .ok (.cne t a b)) ∧
         (fn = 2 → decodeWord w = .ok (.clt t a b)) ∧ (fn = 3 → decodeWord w = .ok (.cge t a b)) ∧
         (fn = 4 → decodeWord w = .ok (.cltu t a b)) ∧ (fn = 5 → decodeWord w = .ok (.cgeu t a b)) ∧
         (6 ≤ fn.toNat → ∃ e, decodeWord w = .error e)) ∧
       (op = 0x0C → decodeWord w = .ok (.ceqi t a i)) ∧ (op = 0x0D → decodeWord w = .ok (.clti t a i))) ∧
     (w.extractLsb' 15 6 ≠ 0 → op = 0x04 ∨ op = 0x0C ∨ op = 0x0D → ∃ e, decodeWord w = .error e)) ∧
  (
   ∀ (s : State) (t : BitVec 3) (o : BitVec 21) (b : Bool) (rest : List Bool), PathReady s.core t [] →
     s.core.queues.cond = b :: rest →
     Runs (.bcq t o) s (fun u =>
       TakesPath s t [] b (s.core.engS.pc + o.signExtend 64 * 4) u ∧ u.core.queues.cond = rest) ∧
     Runs (.bcqn t o) s (fun u =>
       TakesPath s t [] (!b) (s.core.engS.pc + o.signExtend 64 * 4) u ∧ u.core.queues.cond = rest))

/-! ### Scalar words that decide what runs next (spec/02, spec/07) -/

/-- R138, R139: JMP, CALL, JR and CALLR are taken; the calls write the address of the next word into s62, and a target
register is read before that, its bits [1:0] dropped. -/
def Obligations.JumpsAndCalls : Prop :=
  ∀ (s : State) (t : BitVec 3) (o : BitVec 21) (a : BitVec 6),
    let near := s.core.engS.pc + o.signExtend 64 * 4
    let far := s.core.reg a &&& ~~~3
    let link := s.core.engS.pc + 4
    let same := fun (u : State) => u.core.queues.cond = s.core.queues.cond
    (PathReady s.core t [] → Runs (.jmp t o) s (fun u => TakesPath s t [] true near u ∧ same u)) ∧
    (PathReady s.core t [62] →
      Runs (.call t o) s (fun u => TakesPath s t [62] true near u ∧ u.core.reg 62 = link ∧ same u)) ∧
    (PathReady s.core t [a] → Runs (.jr t a) s (fun u => TakesPath s t [] true far u ∧ same u)) ∧
    (PathReady s.core t [a, 62] →
      Runs (.callr t a) s (fun u => TakesPath s t [62] true far u ∧ u.core.reg 62 = link ∧ same u))

/-- R143: a CALLK whose handle passes every check holds S for 8 cycles with its target; when it retires, s62 takes the
address of the word after it, its entry goes to the path queues, and PC.S goes to the target. R143, R20: the
retirement of a CALLK, and an engine that stands at a path word and follows the head of its queue. The segment table, and
the entry list that a descriptor points at, are read at device physical addresses (the model's choice, log 7); what the fills of
both add to the error counters is noted at the word (R325; the model's choice that each read is a fill, log 85). -/
def Obligations.CallsThroughHandles : Prop :=
  (
   ∀ (s : State) (t : BitVec 3) (a : BitVec 5) (b : BitVec 6) (g : Segment) (bs : List Byte),
     PathReady s.core t [pairEven a, pairOdd a, b, 62] →
     let lo := s.core.reg (pairEven a)
     let seg := (lo.extractLsb' 0 24).toNat
     let idx := (s.core.reg b).toNat
     s.core.reg (pairOdd a) = sealTag s.dev.bootKey lo → lo.getLsbD 40 = true → seg < s.dev.segcnt →
     s.dev.segment seg = some g → g.valid = true → g.gen = lo.extractLsb' 24 16 → idx < g.entries →
     s.dev.readPhys (g.elist + 4 * idx) 4 = some bs → 4 * leNat bs < g.length →
     let target := g.base + BitVec.ofNat 64 (4 * leNat bs)
     let noted := (s.dev.notePhys (s.dev.segtab.toNat + 32 * seg) 32).notePhys (g.elist + 4 * idx) 4
     Runs (.callk t a b) s (fun u => Holds { s with dev := noted } t 0 (.callk 8 target (s.core.engS.pc + 4) (sigMask t)) u ∧
       u.core.engS.pc = s.core.engS.pc ∧ u.core.engS.walk = s.core.engS.walk)) ∧
  (
   (∀ (s : State) (n : Nat) (target link : Word) (g : BitVec 3), s.core.scalar.hold = .callk n target link g →
     Runs .callkRetire s (fun u =>
       u.core.engS.pc = target ∧ u.core.engS.walk = s.core.engS.walk + 1 ∧ u.core.reg 62 = link ∧
       (∀ r, r ≠ 62 → u.core.reg r = s.core.reg r) ∧ u.core.scalar.hold = .bubble 0 ∧
       u.core.queues.pushes = s.core.queues.pushes ++
         retirePush 0 0 g (if s.core.scalar.handler then .none else .path true target) ∧
       KeepsControl s.core u.core ∧ KeepsUnits s.core u.core ∧ u.core.store = s.core.store ∧ KeepsMemory s u ∧
       u.dev = s.dev)) ∧
   (∀ (s : State) (e : Engine) (x : PathEntry) (xs : List PathEntry), e ≠ .s → s.core.path e = x :: xs →
     Runs (.pathEntryPop e) s (fun u =>
       u.core.path e = xs ∧ (u.core.eng e).pc = (if x.taken then x.target else (s.core.eng e).pc + 4) ∧
       (u.core.eng e).walk = (s.core.eng e).walk + 1 ∧ (∀ f, f ≠ e → u.core.path f = s.core.path f ∧ u.core.eng f = s.core.eng f) ∧
       u.core.scalar = s.core.scalar ∧ u.core.vec = s.core.vec ∧ u.core.mat = s.core.mat ∧ u.core.xfer = s.core.xfer ∧
       u.core.store = s.core.store ∧ u.core.queues.cond = s.core.queues.cond ∧ KeepsMemory s u ∧ u.dev = s.dev)))

/-- R145, R146: CRR reads a control register into s[d]; a CRW takes effect as the next cycle begins, in which it retires and
signals; where its token may be refused, it takes effect when it retires, behind its token (R25).
R19, R46, R47, R121, R122, R146: what a control write leaves: SLIP clamped to 16 and 1,024; FPMODE and IEN three bits;
FPFLAGS six; TVEC a word address; TIMER its low 32 bits, which discard a pending TIMER interrupt; each of them and
nothing else. A write of FPFLAGS keeps the flags that were set in its own cycle. -/
def Obligations.ControlRegisters : Prop :=
  (
   ∀ (s : State) (t : BitVec 3) (d a : BitVec 6) (n : BitVec 9),
     (SReady s.core t 0 [d] → Runs (.crr t d n) s (WritesReg s t d (s.readControl n.toNat))) ∧
     (SReady s.core t 0 [a] →
       let sets := fun (k : Nat) => OnlyPushes s t 0 (if s.core.sigRoom (sigMask t)
         then ⟨0, .retire ⟨0, 0, .control k (s.core.reg a)⟩⟩ :: retires 1 t .none
         else [⟨1, .retire ⟨0, sigMask t, .control k (s.core.reg a)⟩⟩])
       Runs (.crw t a n) s (sets n.toNat) ∧ Runs (.crwTimer t a) s (sets 0x0C) ∧ Runs (.crwSlip t a) s (sets 0x04) ∧
       Runs (.crwFpflags t a) s (sets 0x06) ∧ Runs (.crwIen t a) s (sets 0x10))) ∧
  (
   ∀ (c : Core) (v : Word),
     let z := c.scalar
     let n := (v.extractLsb' 0 11).toNat
     c.writeControl 0x04 v = { c with scalar := { z with slip := BitVec.ofNat 11 (max 16 (min 1024 n)) } } ∧
     c.writeControl 0x05 v = { c with scalar := { z with fpmode := v.setWidth 3 } } ∧
     c.writeControl 0x06 v = { c with scalar := { z with fpflags := v.setWidth 6 ||| z.raised } } ∧
     c.writeControl 0x08 v = { c with scalar := { z with tvec := v &&& ~~~3 } } ∧
     c.writeControl 0x0C v = { c with scalar := { z with
       timer := v.setWidth 32, armed := decide (v.setWidth 32 ≠ (0 : W32)), ipend := z.ipend &&& 6 } } ∧
     c.writeControl 0x10 v = { c with scalar := { z with ien := v.setWidth 3 } })

/-- R18, R144, R148, R149, R150: NOP signals; TWAIT takes a token of each masked partner at once and TSIG gives one to
each; PAUSE and HALT hold S; TRAP retires and records BREAK with its immediate, at once where its token will be accepted
and otherwise when it retires (R25). HALT waits until V, M and X stand at it, but in a handler, and no BARA of the core is
unreleased. -/
def Obligations.WaitsAndTraps : Prop :=
  ∀ (s : State) (t m : BitVec 3) (i : BitVec 9),
    (SReady s.core t 0 [] →
      Runs (.nop t) s (OnlyPushes s t 0 (retires 1 t .none)) ∧
      Runs (.tsig t m) s (OnlyPushes s t 0 (retirePush 1 m (sigMask t) .none)) ∧
      Runs (.pause t) s (Holds s t 0 (.pause 65 (sigMask t))) ∧
      Runs (.trap t i) s (fun u =>
        (if s.core.sigRoom (sigMask t)
         then u.core.fails = s.core.fails ++ [⟨.s, 0x20, i.setWidth 64, s.core.wordAddr .s⟩] ∧ Pushes s u (retires 1 t .none)
         else u.core.fails = s.core.fails ∧ Pushes s u (retires 1 t (.fault 0x20 (i.setWidth 64) (s.core.wordAddr .s)))) ∧
        Passes s u .s ∧ TakesTokens s u .s t 0 ∧
        (∀ r, u.core.reg r = s.core.reg r) ∧ KeepsControl s.core u.core ∧ KeepsUnits s.core u.core ∧
        u.core.store = s.core.store ∧ KeepsMemory s u ∧ u.dev = s.dev)) ∧
    (SReady s.core t m [] → Runs (.twait t m) s (OnlyPushes s t m (retires 1 t .none))) ∧
    (SReady s.core t 0 [] → s.baraOpen = false → s.collision = none →
      (s.core.scalar.handler = true ∨
        (s.core.engV.pc = s.core.engS.pc ∧ s.core.engM.pc = s.core.engS.pc ∧ s.core.engX.pc = s.core.engS.pc)) →
      Runs (.halt t) s (fun u => Holds s t 0 (.halt t.toNat) u ∧ u.core.engS.pc = s.core.engS.pc ∧
        u.core.engS.walk = s.core.engS.walk))

/-- R82, R83, R84: the words that write the shadow configuration; the active one and every other field stay. Their
encodings, and the words that are ILLEGAL. -/
def Obligations.ShadowConfiguration : Prop :=
  (
   ∀ (w : W32), w.extractLsb' 30 2 = 0 → w.extractLsb' 27 3 ≠ 4 →
     let t := w.extractLsb' 27 3
     let op := w.extractLsb' 21 6
     let a := w.extractLsb' 9 6
     let l := w.extractLsb' 6 3
     let f := w.extractLsb' 0 9
     let six := w.extractLsb' 0 6
     let high := w.extractLsb' 15 6
     (op = 0x1C →
       (w.extractLsb' 19 2 = 0 ∧ f.toNat < 18 → decodeWord w = .ok (.scfg t (w.extractLsb' 15 4) a f)) ∧
       (w.extractLsb' 19 2 ≠ 0 ∨ 18 ≤ f.toNat → ∃ e, decodeWord w = .error e)) ∧
     (op = 0x1D →
       (high = 0 ∧ six = 0 ∧ l.toNat < 6 → decodeWord w = .ok (.ncfg t a l)) ∧
       (high ≠ 0 ∨ six ≠ 0 ∨ 6 ≤ l.toNat → ∃ e, decodeWord w = .error e)) ∧
     (op = 0x1E →
       (high = 0 ∧ six = 0 ∧ l.toNat < 6 → decodeWord w = .ok (.nmaskFirst t a l)) ∧
       (high = 0 ∧ six = 1 ∧ l.toNat < 6 → decodeWord w = .ok (.nmaskLast t a l)) ∧
       (high ≠ 0 ∨ 2 ≤ six.toNat ∨ 6 ≤ l.toNat → ∃ e, decodeWord w = .error e))) ∧
  ∀ (s : State) (t : BitVec 3) (q : BitVec 4) (a : BitVec 6) (f : BitVec 9) (l : BitVec 3), SReady s.core t 0 [a] →
    let x := s.core.reg a
    let level := fun (u : State) (k : Nat) => (u.core.shadow.levels[k]?).getD .reset
    let old := (s.core.shadow.levels[l.toNat]?).getD .reset
    let keeps := fun (u : State) =>
      (∀ r, u.core.reg r = s.core.reg r) ∧ KeepsControl s.core u.core ∧ u.core.vec = s.core.vec ∧
      u.core.mat.accs = s.core.mat.accs ∧ u.core.active = s.core.active ∧ u.core.store = s.core.store ∧
      KeepsMemory s u ∧ u.dev = s.dev ∧ Pushes s u (retires 1 t .none) ∧ Passes s u .s
    let levels := fun (u : State) => u.core.shadow.streams = s.core.shadow.streams ∧
      ∀ k, k ≠ l.toNat → level u k = level s k
    (f.toNat < 18 → Runs (.scfg t q a f) s (fun u =>
      (∀ (r : BitVec 4) (g : Nat), ((u.core.shadow.streams[r.toNat]'r.isLt)[g]?).getD 0 =
        if r = q ∧ g = f.toNat then x else ((s.core.shadow.streams[r.toNat]'r.isLt)[g]?).getD 0) ∧
      u.core.shadow.levels = s.core.shadow.levels ∧ keeps u)) ∧
    (l.toNat < 6 →
      Runs (.ncfg t a l) s (fun u => level u l.toNat = { old with trip := x.setWidth 32 } ∧ levels u ∧ keeps u) ∧
      Runs (.nmaskFirst t a l) s (fun u => level u l.toNat = { old with first := x } ∧ levels u ∧ keeps u) ∧
      Runs (.nmaskLast t a l) s (fun u => level u l.toNat = { old with last := x } ∧ levels u ∧ keeps u))

/-! ### Memory words (spec/11) -/

/-- R219, R220: a load reads its little-endian bytes at the address its handle and offset name and puts them in flight
for s[d], sign- or zero-extended; a poisoned line among them goes with them, by its virtual address (R191; log 84), and so
does what the fill adds to the error counters (R325). LDA adds no offset and zero-extends a word; with SLOT = 1 it waits
for the core's slot (R253). Holds for every page but those of a peer. The model's choices: every read counts as a fill of its
line (log 85), and a read ends the ownership that a core of another die has of its lines (log 94). -/
def Obligations.Loads : Prop :=
  ∀ (s : State) (t : BitVec 3) (d a : BitVec 6) (h : BitVec 4) (i : BitVec 5) (w : BitVec 1) (c : BitVec 2) (q : BitVec 1)
    (p : Page), SReady s.core t 0 [a, d] → p.kind ≠ .peer →
    let ofs := fun (size : Nat) => (s.core.reg a + BitVec.ofNat 64 (i.toNat * size)).toNat
    let raw := fun (o size : Nat) => leNat (s.dev.bytesAt (s.homeOf h o p) size)
    let loads := fun (o size : Nat) (v : Word) (u : State) =>
      let va := (s.core.handle h).va.toNat + o
      ∃ n, StartsWork (s.asks (s.homeOf h o p) size) t n
        (.load d v (s.dev.readPage p va size).2 (s.dev.fillNotes p va size)) (some h) u
    (Reaches s h (ofs 1) 1 p →
      Runs (.ldb t d a h i) s (loads (ofs 1) 1 ((BitVec.ofNat 8 (raw (ofs 1) 1)).signExtend 64)) ∧
      Runs (.ldbu t d a h i) s (loads (ofs 1) 1 (BitVec.ofNat 64 (raw (ofs 1) 1)))) ∧
    (Reaches s h (ofs 2) 2 p →
      Runs (.ldh t d a h i) s (loads (ofs 2) 2 ((BitVec.ofNat 16 (raw (ofs 2) 2)).signExtend 64)) ∧
      Runs (.ldhu t d a h i) s (loads (ofs 2) 2 (BitVec.ofNat 64 (raw (ofs 2) 2)))) ∧
    (Reaches s h (ofs 4) 4 p →
      Runs (.ldw t d a h i) s (loads (ofs 4) 4 ((BitVec.ofNat 32 (raw (ofs 4) 4)).signExtend 64)) ∧
      Runs (.ldwu t d a h i) s (loads (ofs 4) 4 (BitVec.ofNat 64 (raw (ofs 4) 4)))) ∧
    (Reaches s h (ofs 8) 8 p → Runs (.ldd t d a h i) s (loads (ofs 8) 8 (BitVec.ofNat 64 (raw (ofs 8) 8)))) ∧
    (let o := (s.core.reg a).toNat
     let size := if w = 1 then 8 else 4
     Reaches s h o size p → (q = 0 ∨ s.dev.cycle % 256 = s.core.id % 256) →
      Runs (.lda t d a h w c q) s (loads o size (BitVec.ofNat 64 (raw o size))))

/-- R218: the checks of an access come in their order: an INVALID handle is NOHANDLE, a REVOKED one REVOKED, a
misaligned or outlying offset HANDLEBOUNDS, and a right that is missing HANDLEPERM. TVAL is the handle's number; the
word is not issued and changes no register. Of every load and store, and of every atomic of which no AtomicOp is out. R237: a barrier word on a tag of which the
core is no member is ILLEGAL, with the word as TVAL, and does nothing else. -/
def Obligations.WordsRefused : Prop :=
  (
   ∀ (s : State) (j : Instr) (t : BitVec 3) (h : BitVec 4) (o size right : Nat) (rs : List (BitVec 6)),
     MemoryWord s j t h o size right rs → SReady s.core t 0 rs → s.core.scalar.sent = none →
     s.core.cleared = false → s.core.fenced = false → s.core.handleReady h = true →
     let x := s.core.handle h
     let out := o % size ≠ 0 ∨ x.len.toNat < o + size
     let cause : Option (BitVec 8) :=
       if x.state = .invalid then some 0x82 else if x.state = .revoked then some 0x0A else if out then some 0x80
       else if x.fn.toNat < right then some 0x81 else none
     ∀ k, cause = some k → Runs j s (fun u =>
       u.core.fails = s.core.fails ++ [⟨.s, k, h.setWidth 64, s.core.wordAddr .s⟩] ∧ u.core.engS = s.core.engS ∧
       (∀ r, u.core.reg r = s.core.reg r) ∧ KeepsControl s.core u.core ∧ u.core.queues = s.core.queues ∧
       u.core.store = s.core.store ∧ u.dev = s.dev ∧ u.others = s.others)) ∧
  (
   ∀ (s : State) (t g : BitVec 3) (a : BitVec 6) (d : BitVec 5), s.core.cleared = false → s.core.fenced = false →
     s.member g = none →
     let illegal := fun (w : W32) (u : State) =>
       u.core.fails = s.core.fails ++ [⟨.s, 0x01, w.setWidth 64, s.core.wordAddr .s⟩] ∧ u.core.engS = s.core.engS ∧
       u.core.scalar = s.core.scalar ∧ u.core.queues = s.core.queues ∧ u.core.store = s.core.store ∧ u.dev = s.dev
     ∀ w, (SReady s.core t 0 [] →
         (encode (.bar t g) = some w → Runs (.bar t g) s (illegal w)) ∧
         (encode (.step t g) = some w → Runs (.step t g) s (illegal w)) ∧
         (encode (.barw t g) = some w → Runs (.barw t g) s (illegal w))) ∧
       (SReady s.core t 0 [a] → encode (.bara t a g) = some w → Runs (.bara t a g) s (illegal w)) ∧
       (SReady s.core t 0 [pairEven d, pairOdd d] → encode (.barq t d g) = some w → Runs (.barq t d g) s (illegal w)))

/-- R219, R242: a store writes the low bytes of s[d], little-endian, at the address its handle and offset name, and every
other byte of memory is as it was; STWP writes the low word of the even register. Here to memory that is not a bound
plane region and not a peer's. -/
def Obligations.Stores : Prop :=
  ∀ (s : State) (t : BitVec 3) (d a : BitVec 6) (k : BitVec 5) (h : BitVec 4) (i : BitVec 5) (p : Page),
    MemoryOk s → (s.core.handle h).fn ≠ 0 → p.kind ≠ .peer →
    let ofs := fun (size : Nat) => (s.core.reg a + BitVec.ofNat 64 (i.toNat * size)).toNat
    let plain := fun (size : Nat) => Reaches s h (ofs size) size p ∧
      s.dev.boundAt p ((s.core.handle h).va + BitVec.ofNat 64 (ofs size)).toNat = none ∧
      (s.core.handle h).va.toNat + ofs size < 2 ^ 64 ∧ s.homeOf h (ofs size) p + size ≤ enumPage ∧
      s.dev.reachable p.kind (s.homeOf h (ofs size) p) p.dieLocal = true
    let stores := fun (size : Nat) (v : Word) (u : State) =>
      Stored s u (s.homeOf h (ofs size) p) (leBytes size v.toNat) ∧ StoreFrame s u ∧
      Pushes s u (retires 1 t .none) ∧ TakesTokens s u .s t 0 ∧ Passes s u .s ∧
      u.core.scalar.flights = s.core.scalar.flights ∧ u.core.scalar.hold = s.core.scalar.hold
    (SReady s.core t 0 [a, d] →
      (plain 1 → Runs (.stb t d a h i) s (stores 1 (s.core.reg d))) ∧
      (plain 2 → Runs (.sth t d a h i) s (stores 2 (s.core.reg d))) ∧
      (plain 4 → Runs (.stw t d a h i) s (stores 4 (s.core.reg d))) ∧
      (plain 8 → Runs (.std t d a h i) s (stores 8 (s.core.reg d)))) ∧
    (SReady s.core t 0 [a, pairEven k, pairOdd k] → plain 4 →
      Runs (.stwp t k a h i) s (stores 4 (s.core.reg (pairEven k))))

/-- R234, R235, R242: a store to a bound plane region by a member sets out for the next plane, one word store for each
32 bits, with STWP's priority from bits [7:0] of the odd register and 0 for the others, and clean data; no byte of memory changes. A
narrower store, or one by a core that is no member, is HANDLEPERM. -/
def Obligations.PlaneStores : Prop :=
  ∀ (s : State) (t : BitVec 3) (d a : BitVec 6) (k : BitVec 5) (h : BitVec 4) (i : BitVec 5) (p : Page) (pl : Plane),
    (s.core.handle h).fn ≠ 0 → p.kind = .plane → s.core.cleared = false →
    let va := (s.core.handle h).va
    let ofs := fun (size : Nat) => (s.core.reg a + BitVec.ofNat 64 (i.toNat * size)).toNat
    let plane := fun (size : Nat) => Reaches s h (ofs size) size p ∧ va.toNat + ofs size < 2 ^ 64 ∧
      s.dev.planeAt (s.homeOf h (ofs size) p) = some pl ∧ pl.bound ≠ none
    let sets := fun (size : Nat) (prio : BitVec 8) (v : Word) (u : State) =>
      u.dev.settling = s.dev.settling ++ (List.range (size / 4)).map (fun j =>
        ⟨s.homeOf h (ofs size) p + 4 * j, va + BitVec.ofNat 64 (ofs size) + BitVec.ofNat 64 (4 * j), s.core.id, prio,
          v.extractLsb' (32 * j) 32, false⟩) ∧
      KeepsMemory s u ∧ StoreFrame s u ∧ Pushes s u (retires 1 t .none) ∧ Passes s u .s
    let refused := fun (u : State) =>
      u.core.fails = s.core.fails ++ [⟨.s, 0x81, h.setWidth 64, s.core.wordAddr .s⟩] ∧ u.core.engS = s.core.engS ∧
      u.dev = s.dev
    (s.dev.isMember pl s.core.id = true →
      (SReady s.core t 0 [a, d] →
        (plane 4 → Runs (.stw t d a h i) s (sets 4 0 (s.core.reg d))) ∧
        (plane 8 → Runs (.std t d a h i) s (sets 8 0 (s.core.reg d))) ∧
        (plane 2 → Runs (.sth t d a h i) s refused) ∧ (plane 1 → Runs (.stb t d a h i) s refused)) ∧
      (SReady s.core t 0 [a, pairEven k, pairOdd k] → plane 4 →
        Runs (.stwp t k a h i) s (sets 4 ((s.core.reg (pairOdd k)).setWidth 8) (s.core.reg (pairEven k))))) ∧
    (s.dev.isMember pl s.core.id = false → SReady s.core t 0 [a, d] → plane 8 → Runs (.std t d a h i) s refused)

/-- R220, R252: STL writes its word or doubleword at its home; at CORE scope it then retires like a store, and at a wider
scope it stays in flight until its release retires. Where the flush of what it releases is deferred, it leaves that flush, of
the lines that the core owns and the writes to peers that are out, to fall due within 2^16 cycles of its retirement; where it is
not (R316), it issues once what it releases has been performed (the model's choice, log 83). That the lines stand as owned is log
94. -/
def Obligations.ReleaseStores : Prop :=
  ∀ (s : State) (t : BitVec 3) (d a : BitVec 6) (h : BitVec 4) (w : BitVec 1) (c : BitVec 2) (q : BitVec 1) (p : Page),
    MemoryOk s → SReady s.core t 0 [a, d] → (s.core.handle h).fn ≠ 0 → p.kind ≠ .peer → p.kind ≠ .plane →
    (q = 0 ∨ s.dev.cycle % 256 = s.core.id % 256) →
    (∀ f ∈ s.core.scalar.flights, ∀ d id size sext acq, f.work ≠ .peer d id size sext acq) →
    (2 ≤ c.toNat → ∀ x ∈ s.dev.lostLines, x.1 ≠ s.core.id) →
    let o := (s.core.reg a).toNat
    let size := if w = 1 then 8 else 4
    let home := s.homeOf h o p
    let defers := s.dev.defers c (lineOf home) = true
    (¬defers → Released s c) →
    Reaches s h o size p → (s.core.handle h).va.toNat + o < 2 ^ 64 → home + size ≤ enumPage →
    s.dev.reachable p.kind home p.dieLocal = true →
    Runs (.stl t d a h w c q) s (fun u =>
      Stored s u home (leBytes size (s.core.reg d).toNat) ∧ StoreFrame s u ∧ TakesTokens s u .s t 0 ∧ Passes s u .s ∧
      (if c = 0 then Pushes s u (retires 1 t .none) ∧ u.core.scalar.flights = s.core.scalar.flights
       else Pushes s u [] ∧ (∃ f, u.core.scalar.flights = s.core.scalar.flights ++ [f] ∧ f.work = .stl c ∧ f.sig = sigMask t) ∧
         (defers → ⟨lineOf home, s.core.id, s.dev.cycle + Config.fenceLatency + 65536, s.dev.peerNext,
           (s.dev.owned.filter (fun x => x.2 = s.core.id)).map (·.1)⟩ ∈ u.dev.lazy)))

/-- R205: LDS reads the doubleword at its scratchpad offset, written three cycles after issue; STS writes one, and every
other byte of the scratchpad and all of memory stay. Past the scratchpad or misaligned, both are SPADBOUNDS with the
offset. -/
def Obligations.ScratchpadWords : Prop :=
  ∀ (s : State) (t : BitVec 3) (d a : BitVec 6) (i : BitVec 9), MemoryOk s → SReady s.core t 0 [a, d] → s.core.cleared = false →
    let o := (s.core.reg a + i.signExtend 64 * 8).toNat
    let m := s.core.store.spad
    (o % 8 = 0 → o < s.core.store.spadBytes →
      Runs (.lds t d a i) s (StartsWork s t 3 (.lds d (BitVec.ofNat 64 (m.load o 8))) none) ∧
      Runs (.sts t d a i) s (fun u =>
        (∀ x, u.core.store.spad.get x =
          if o ≤ x ∧ x < o + 8 then (s.core.reg d).extractLsb' (8 * (x - o)) 8 else m.get x) ∧
        (∀ r, u.core.reg r = s.core.reg r) ∧ KeepsControl s.core u.core ∧ KeepsUnits s.core u.core ∧
        u.core.store.tiles = s.core.store.tiles ∧ u.core.store.handles = s.core.store.handles ∧ u.dev = s.dev ∧
        u.others = s.others ∧ Pushes s u (retires 1 t .none) ∧ Passes s u .s)) ∧
    (o % 8 ≠ 0 ∨ s.core.store.spadBytes ≤ o →
      let faults := fun (u : State) =>
        u.core.fails = s.core.fails ++ [⟨.s, 0x84, BitVec.ofNat 64 o, s.core.wordAddr .s⟩] ∧
        u.core.engS = s.core.engS ∧ (∀ r, u.core.reg r = s.core.reg r) ∧ u.core.store = s.core.store ∧ u.dev = s.dev
      Runs (.lds t d a i) s faults ∧ Runs (.sts t d a i) s faults)

/-- R221: an atomic on n bits puts the old value in flight for its destination and writes the new one at its home:
the sum, the new value, the least or greatest, or the bitwise result; a compare that fails writes nothing. On every page
but those of a peer and of host memory that only an AtomicOp reaches. That the read counts as a fill of its lines is the model's
choice (log 85). -/
def Obligations.Atomics : Prop :=
  ∀ (s : State) (t : BitVec 3) (d a : BitVec 6) (k : BitVec 5) (h : BitVec 3) (w o : BitVec 1) (c : BitVec 2) (p : Page), MemoryOk s →
    let hd : BitVec 4 := h.setWidth 4
    let n := if w = 1 then 64 else 32
    let size := n / 8
    let ofs := (s.core.reg a).toNat
    let home := s.homeOf hd ofs p
    let oldN := leNat (s.dev.bytesAt home size)
    let old := BitVec.ofNat n oldN
    let bad := (s.dev.readPage p ((s.core.handle hd).va.toNat + ofs) size).2
    let ready := fun (op : AmoOp) => Reaches s hd ofs size p ∧ (s.core.handle hd).fn = 2 ∧
      (o = 0 ∨ Released s c) ∧ p.kind ≠ .peer ∧ p.kind ≠ .plane ∧ s.core.scalar.sent = none ∧
      (p.kind = .host → s.dev.route (p.addr ((s.core.handle hd).va + BitVec.ofNat 64 ofs).toNat) op c = .cache) ∧
      (s.core.handle hd).va.toNat + ofs < 2 ^ 64 ∧ home + size ≤ enumPage ∧
      s.dev.reachable p.kind home p.dieLocal = true
    let does := fun (dst : BitVec 6) (new : Option (BitVec n)) (u : State) =>
      (match new with
       | some v => Stored s u home (leBytes size v.toNat)
       | none => ∀ x, u.dev.byteAt x = s.dev.byteAt x) ∧
      StoreFrame s u ∧ Pushes s u [] ∧ TakesTokens s u .s t 0 ∧ Passes s u .s ∧
      ∃ f, u.core.scalar.flights = s.core.scalar.flights ++ [f] ∧ f.work = .load dst (BitVec.ofNat 64 oldN) bad (s.dev.fillNotes p ((s.core.handle hd).va.toNat + ofs) size) ∧
        f.sig = sigMask t ∧ f.handle = some hd
    (SReady s.core t 0 [a, d] →
      let x : BitVec n := (s.core.reg d).setWidth n
      (ready .add → Runs (.amoadd t d a h w o c) s (does d (some (old + x)))) ∧
      (ready .swap → Runs (.amoswp t d a h w o c) s (does d (some x))) ∧
      (ready .min → Runs (.amomin t d a h w o c) s (does d (some (if x.toInt < old.toInt then x else old)))) ∧
      (ready .max → Runs (.amomax t d a h w o c) s (does d (some (if old.toInt < x.toInt then x else old)))) ∧
      (ready .minu → Runs (.amominu t d a h w o c) s (does d (some (if x.toNat < old.toNat then x else old)))) ∧
      (ready .maxu → Runs (.amomaxu t d a h w o c) s (does d (some (if old.toNat < x.toNat then x else old)))) ∧
      (ready .and → Runs (.amoand t d a h w o c) s (does d (some (old &&& x)))) ∧
      (ready .or → Runs (.amoor t d a h w o c) s (does d (some (old ||| x)))) ∧
      (ready .xor → Runs (.amoxor t d a h w o c) s (does d (some (old ^^^ x))))) ∧
    (SReady s.core t 0 [a, pairEven k, pairOdd k] → ready .cas →
      let x : BitVec n := (s.core.reg (pairEven k)).setWidth n
      Runs (.amocas t k a h w o c) s
        (does (pairEven k) (if old = x then some ((s.core.reg (pairOdd k)).setWidth n) else none)))

/-! ### Handles and tiles (spec/11 R206 to R215) -/

/-- R212: an XLAT whose range is 1 to 2^26 bytes below 2^57, all of whose pages are cached and grant its right, and
whose entries fit the table, leaves its handle INVALID and retires 40 cycles later. A range that is empty, too long or too
high is XLATFAULT, and so are pages for which the table has no room; a page without the right is XLATPERM: the handle is
then INVALID and the word unissued. R211, R212, R215: the XLAT that falls due retires once its token is accepted, with its
handle VALID over its pages, or REVOKED where one of them is no longer mapped; nothing else changes. That an INVALID handle keeps
its base, length and fn is the model's choice (log 26). -/
def Obligations.Translations : Prop :=
  (
   ∀ (s : State) (t : BitVec 3) (h : BitVec 4) (a b : BitVec 6) (ps : List Page), SReady s.core t 0 [a, b] →
     s.core.fenced = false → s.core.handleReady h = true → s.core.handleInUse h = false →
     let va := s.core.reg a
     let len := s.core.reg b
     let v := va.toNat
     let n := len.toNat
     let ranged := n ≠ 0 ∧ n ≤ 2 ^ 26 ∧ v + n ≤ 2 ^ 57
     let found := fun (fn : BitVec 2) => xlatPages s.cachedPages s.pasid fn v (v + n) 16385 v []
     let fits := fun (fn : BitVec 2) => ranged ∧ found fn = .hit ps ∧ ps.length + s.core.tableUsed h ≤ 4096
     let emptied := fun (u : State) =>
       (∀ k, u.core.handle k = if k = h then { s.core.handle h with state := .invalid, pages := [] } else s.core.handle k) ∧
       (∀ r, u.core.reg r = s.core.reg r) ∧ KeepsControl s.core u.core ∧ KeepsUnits s.core u.core ∧
       u.core.store.tiles = s.core.store.tiles ∧ KeepsMemory s u ∧ u.dev = s.dev
     let starts := fun (fn : BitVec 2) (u : State) =>
       (∃ f, u.core.scalar.flights = s.core.scalar.flights ++ [f] ∧ f.remain = 40 ∧ f.work = .xlat h va len fn ps ∧
         f.sig = sigMask t ∧ f.handle = some h) ∧ emptied u ∧ Passes s u .s
     let faults := fun (k : BitVec 8) (tval : Nat) (u : State) => emptied u ∧ u.core.engS = s.core.engS ∧
       u.core.fails = s.core.fails ++ [⟨.s, k, BitVec.ofNat 64 tval, s.core.wordAddr .s⟩]
     let word := fun (i : Instr) (fn : BitVec 2) =>
       (fits fn → Runs i s (starts fn)) ∧
       (s.core.cleared = false →
         (¬ranged → Runs i s (faults 0x08 (v / 4096 * 4096 + 2))) ∧
         (ranged → ∀ k x, found fn = .fault k x → Runs i s (faults k x)) ∧
         (ranged → found fn = .hit ps → 4096 < ps.length + s.core.tableUsed h → ∀ p,
           ps[4096 - s.core.tableUsed h]? = some p → Runs i s (faults 0x08 (pageTval v p.va + 1))))
     word (.xlatR t h a b) 0 ∧ word (.xlatRw t h a b) 1 ∧ word (.xlatRwa t h a b) 2) ∧
  (
   ∀ (s : State) (f : SFlight) (pre post : List SFlight) (h : BitVec 4) (va len : Word) (fn : BitVec 2) (ps : List Page),
     s.core.scalar.flights = pre ++ f :: post → f.remain = 0 → f.work = .xlat h va len fn ps →
     (∀ g ∈ pre ++ post, g.remain = 0 → ∀ k va len fn ps, g.work ≠ .xlat k va len fn ps) →
     let here := ps.all (fun p => s.dev.pages.contains p)
     let rest : Core := { s.core with scalar := { s.core.scalar with flights := pre ++ post } }
     let keeps := fun (e : SEffect) (u : State) => Pushes s u (retirePush 0 0 f.sig e) ∧ (∀ r, u.core.reg r = s.core.reg r) ∧
       KeepsControl s.core u.core ∧ KeepsUnits s.core u.core ∧ u.core.store.tiles = s.core.store.tiles ∧ KeepsMemory s u ∧
       u.dev = s.dev
     (rest.accepts f = true → Runs .xlatRetire s (fun u =>
       u.core.scalar.flights = pre ++ post ∧
       (∀ k, u.core.handle k = if k = h then ⟨va, len, fn, if here then .valid else .revoked, if here then ps else []⟩
         else s.core.handle k) ∧ u.core.scalar.deferred = 0 ∧ keeps .none u)) ∧
     (rest.accepts f = false → Runs .xlatRetire s (fun u =>
       u.core.scalar.flights = { f with remain := 1, sig := 0 } :: (pre ++ post) ∧
       (∀ k, u.core.handle k = s.core.handle k) ∧ keeps (.release f.born) u)))

/-- R214: HREL makes its handle INVALID once no word in flight names it; HQRY writes the base into the even register
and length, fn and state into the odd one. R210: TREL takes one pin away, if there is one; TSTAT reads the first
doubleword of the table entry, 0 for an unused index; TCLEAN and TDIRTY write the DIRTY bit; TREL of an unused index, and
TCLEAN and TDIRTY of an unused or EMPTY tile, are SPADBOUNDS with the index. Every other tile stays. That HREL leaves base, length
and fn is the model's choice (log 26). -/
def Obligations.HandleAndTileWords : Prop :=
  (
   ∀ (s : State) (t : BitVec 3) (h : BitVec 4) (d : BitVec 5), s.core.handleReady h = true →
     let x := s.core.handle h
     let keeps := fun (u : State) => KeepsControl s.core u.core ∧ KeepsUnits s.core u.core ∧ KeepsMemory s u ∧ u.dev = s.dev ∧
       Pushes s u (retires 1 t .none) ∧ Passes s u .s ∧ u.core.store.tiles = s.core.store.tiles
     (SReady s.core t 0 [] → s.core.handleInUse h = false →
       Runs (.hrel t h) s (fun u =>
         (∀ k, u.core.handle k = if k = h then { x with state := .invalid, pages := [] } else s.core.handle k) ∧
         (∀ r, u.core.reg r = s.core.reg r) ∧ keeps u)) ∧
     (SReady s.core t 0 [pairEven d, pairOdd d] →
       Runs (.hqry t d h) s (fun u =>
         u.core.reg (pairEven d) = (if pairEven d = 0 then 0 else x.va) ∧
         u.core.reg (pairOdd d) = BitVec.ofNat 64 (x.len.toNat % 2 ^ 27 + x.fn.toNat * 2 ^ 32 +
           (match x.state with | .invalid => 0 | .valid => 1 | .revoked => 2) * 2 ^ 40) ∧
         (∀ r, r ≠ pairEven d → r ≠ pairOdd d → u.core.reg r = s.core.reg r) ∧
         u.core.store = s.core.store ∧ keeps u))) ∧
  (
   ∀ (s : State) (t : BitVec 3) (d a : BitVec 6),
     let i : BitVec 6 := (s.core.reg a).setWidth 6
     let x := s.core.tile i
     let tiles := fun (u : State) (y : Tile) => ∀ k, u.core.tile k = if k = i then y else s.core.tile k
     let keeps := fun (u : State) => (∀ r, u.core.reg r = s.core.reg r) ∧ KeepsControl s.core u.core ∧
       KeepsUnits s.core u.core ∧ u.core.store.handles = s.core.store.handles ∧ KeepsMemory s u ∧ u.dev = s.dev ∧
       Pushes s u (retires 1 t .none) ∧ Passes s u .s
     (SReady s.core t 0 [d, a] →
       Runs (.tstat t d a) s (WritesReg s t d (if x.used then
         BitVec.ofNat 64 (x.baseg.toNat + x.lenm1.toNat * 2 ^ 9 + 2 ^ 15 +
           (match x.state with | .empty => 0 | .filling => 1 | .ready => 2 | .draining => 3) * 2 ^ 16 +
           x.cls.toNat * 2 ^ 18 + (if x.dirty then 1 else 0) * 2 ^ 21 + x.pin.toNat * 2 ^ 22 + x.rank.toNat * 2 ^ 26)
         else 0))) ∧
     (SReady s.core t 0 [a] → x.used = true →
       (s.core.tileInUse i = false →
         Runs (.trel t a) s (fun u => tiles u { x with pin := if x.pin = 0 then 0 else x.pin - 1 } ∧ keeps u)) ∧
       (x.state = .ready →
         Runs (.tclean t a) s (fun u => tiles u { x with dirty := false } ∧ keeps u) ∧
         Runs (.tdirty t a) s (fun u => tiles u { x with dirty := true } ∧ keeps u))) ∧
     (SReady s.core t 0 [a] → s.core.cleared = false →
       let absent := fun (u : State) =>
         u.core.fails = s.core.fails ++ [⟨.s, 0x84, i.setWidth 64, s.core.wordAddr .s⟩] ∧ u.core.engS = s.core.engS ∧
         u.core.scalar = s.core.scalar ∧ u.core.queues = s.core.queues ∧ u.core.store = s.core.store ∧ u.dev = s.dev
       (x.used = false → Runs (.trel t a) s absent) ∧
       (x.used = false ∨ x.state = .empty → Runs (.tclean t a) s absent ∧ Runs (.tdirty t a) s absent)))

/-- R209, R208: PROBE on a hit pins the tile, makes it the most recent and falls through with its index; on a miss it is
taken: with a victim, the lowest EMPTY tile or the READY one of highest rank, the tile gets the new tag, one pin and
FILLING, or DRAINING where it was dirty, and its drain and fill enter the journal; without one, nothing is claimed. A hit with
PIN at 15 is SPADBOUNDS. That the block number is cut to the 60 bits of a tag is the model's choice (log 27). -/
def Obligations.TileProbes : Prop :=
  ∀ (s : State) (t : BitVec 3) (d a o : BitVec 6) (cls : BitVec 3), PathReady s.core t [d, a] →
    let c := s.core
    let b : BitVec 60 := (c.reg a).setWidth 60
    let target := c.engS.pc + o.signExtend 64 * 4
    let entries := fun (u : State) (es : List JEntry) => u.core.queues.pushes = c.queues.pushes ++
      retires 1 t (if c.scalar.handler then .none else .path (c.probeHit cls b).isNone target) ++
      es.map (fun e => ⟨1, .retire ⟨0, 0, .journal e⟩⟩)
    let keeps := fun (u : State) => (∀ r, r ≠ d → u.core.reg r = c.reg r) ∧ KeepsControl c u.core ∧ KeepsUnits c u.core ∧
      u.core.store.handles = c.store.handles ∧ KeepsMemory s u ∧ u.dev = s.dev
    (∀ e, c.probeHit cls b = some e → (c.tile e).pin ≠ 15 →
      Runs (.probe t d a o cls) s (fun u =>
        u.core.reg d = (if d = 0 then 0 else e.setWidth 64) ∧ u.core.engS.pc = c.engS.pc + 4 ∧
        (u.core.tile e).pin = (c.tile e).pin + 1 ∧ (u.core.tile e).rank = 0 ∧ (u.core.tile e).state = (c.tile e).state ∧
        (u.core.tile e).block = (c.tile e).block ∧ entries u [] ∧ keeps u)) ∧
    (∀ e, c.probeHit cls b = some e → (c.tile e).pin = 15 → c.cleared = false →
      Runs (.probe t d a o cls) s (fun u =>
        u.core.fails = c.fails ++ [⟨.s, 0x84, e.setWidth 64, c.wordAddr .s⟩] ∧ u.core.engS = c.engS ∧
        u.core.scalar = c.scalar ∧ u.core.queues = c.queues ∧ u.core.store = c.store ∧ u.dev = s.dev)) ∧
    (c.probeHit cls b = none → c.probeVictim cls = none →
      Runs (.probe t d a o cls) s (fun u =>
        u.core.reg d = (if d = 0 then 0 else BitVec.ofNat 64 (2 ^ 62)) ∧ u.core.engS.pc = target ∧
        u.core.store = c.store ∧ entries u [] ∧ keeps u)) ∧
    (∀ e, c.probeHit cls b = none → c.probeVictim cls = some e → c.tileInUse e = false →
      c.journalLoad + c.probeEntries e ≤ 32 →
      let x := c.tile e
      let drains : Bool := x.state == .ready && x.dirty
      Runs (.probe t d a o cls) s (fun u =>
        u.core.reg d = (if d = 0 then 0 else BitVec.ofNat 64 (2 ^ 63 + e.toNat)) ∧ u.core.engS.pc = target ∧
        (u.core.tile e).state = (if drains then .draining else .filling) ∧ (u.core.tile e).pin = 1 ∧
        (u.core.tile e).rank = 0 ∧ (u.core.tile e).block = b ∧
        (u.core.tile e).handle = (c.store.classes[cls.toNat]'cls.isLt).handle ∧
        entries u ((if drains then [queuedEntry 7 e (tagWord x.handle x.block)] else []) ++ [queuedEntry 6 e 0]) ∧ keeps u))

/-! ### Fences and loads in flight (spec/07 R131, spec/13 R252 to R257) -/

/-- R255, R257: FENCE and CFENCE stay in flight until they retire, CFENCE with the range of its registers; a write of
this core that was lost is POISON at either (R313). R252, R255, R257: a fence whose earlier loads, atomics and release
stores have returned, and whose stores to peers are, from DEVICE scope on, acknowledged, leaves the words in flight and
pushes its token; a CFENCE, once its token is accepted, has then cleared the publication marks of the lines of its range on
its dies, as far as the core maps them with W or X, not both, to CODE frames, has removed those lines from the instruction
caches of the dies, and clears no other mark; a range beyond 2^26 bytes or 2^57 is cut there. An STL retires, from DEVICE scope on
once every die is reached. A deferred flush that falls due is performed once the writes to peers that it covers are
acknowledged. What `owned` lines a fence and a flush clean is the model's choice (log 94). -/
def Obligations.Fences : Prop :=
  (
   ∀ (s : State) (t : BitVec 3) (a b : BitVec 6) (c : BitVec 2), s.lostGate c = .go →
     (SReady s.core t 0 [] → Runs (.fence t c) s (fun u => ∃ n, StartsWork s t n (.fence c) none u)) ∧
     (SReady s.core t 0 [a, b] →
       Runs (.cfence t a b c) s (fun u => ∃ n, StartsWork s t n (.cfence c (s.core.reg a) (s.core.reg b)) none u))) ∧
  (
   ∀ (s : State) (t : BitVec 3) (a b : BitVec 6) (c : BitVec 2) (va : Nat) (more : List (Nat × Nat)), 2 ≤ c.toNat →
     s.dev.lostLines = (s.core.id, va) :: more → s.core.cleared = false →
     let lost := fun (u : State) =>
       u.core.fails = s.core.fails ++ [⟨.s, 0x83, BitVec.ofNat 64 va, s.core.wordAddr .s⟩] ∧ u.core.engS = s.core.engS ∧
       u.core.scalar = s.core.scalar ∧ u.core.queues = s.core.queues ∧ u.core.store = s.core.store ∧ u.dev = s.dev
     (SReady s.core t 0 [] → Runs (.fence t c) s lost) ∧ (SReady s.core t 0 [a, b] → Runs (.cfence t a b c) s lost)) ∧
  (
   (∀ (s : State) (f : SFlight) (pre post : List SFlight), s.core.scalar.flights = pre ++ f :: post → f.remain = 0 →
     (∀ g ∈ pre ++ post, g.remain ≠ 0) →
     let rest : Core := { s.core with scalar := { s.core.scalar with flights := pre ++ post } }
     let keeps := fun (e : SEffect) (u : State) => Pushes s u (retirePush 0 0 f.sig e) ∧
       (∀ r, u.core.reg r = s.core.reg r) ∧ KeepsControl s.core u.core ∧ KeepsUnits s.core u.core ∧
       u.core.store = s.core.store ∧ KeepsMemory s u
     let gone := fun (u : State) => u.core.scalar.flights = pre ++ post ∧ keeps .none u
     let clean := fun (c : BitVec 2) => if 2 ≤ c.toNat then s.dev.owned.filter (fun x => x.2 ≠ s.core.id) else s.dev.owned
     (∀ c, f.work = .fence c → s.fenceOk c f.born = true → s.lostGate c = .go →
       Runs .fenceRetire s (fun u => gone u ∧ u.dev = { s.dev with owned := clean c } ∧ u.core.fails = s.core.fails)) ∧
     (∀ c va len, f.work = .cfence c va len → s.fenceOk c f.born = true → s.lostGate c = .go →
       let covers := fun (line : Nat) => ∃ x p, va.toNat / 128 ≤ x ∧ len ≠ 0 ∧
         128 * x < min (va.toNat + min len.toNat (2 ^ 26)) (2 ^ 57) ∧
         findPage s.dev.pages s.pasid (128 * x) = some p ∧ p.w ≠ p.x ∧ s.dev.isCode (p.addr (128 * x)) = true ∧
         line = p.addr (128 * x) / 128
       (rest.accepts f = true → Runs .cfenceRetire s (fun u => gone u ∧
         (∀ m : Nat × Nat, m ∈ u.dev.marks ↔ m ∈ s.dev.marks ∧ ¬(m.1 ∈ s.fenceDies c ∧ covers m.2)) ∧
         (∀ l, l ∈ u.dev.icache ↔ l ∈ s.dev.icache ∧ ¬(l.die ∈ s.fenceDies c ∧ covers l.addr)))) ∧
       (rest.accepts f = false → Runs .cfenceRetire s (fun u => keeps (.release f.born) u ∧ u.dev = s.dev ∧
         u.core.scalar.flights = { f with remain := 1, sig := 0 } :: (pre ++ post)))) ∧
     (∀ k : BitVec 2, f.work = .stl k →
       (k.toNat < 2 ∨ s.dev.allReached = true → Runs .stlRetire s (fun u => gone u ∧ u.dev = s.dev)) ∧
       (2 ≤ k.toNat → s.dev.allReached = false → Runs .stlRetire s (fun u => u = s)))) ∧
   (∀ (s : State),
     let performed := fun (z : Lazy) => z.due ≤ s.dev.cycle ∧ ∀ r ∈ s.dev.peerReqs, r.isWrite = true → z.upto ≤ r.id
     Runs .lazyReleaseFlush s (fun u => CoresStay s u ∧
     (∀ z, z ∈ u.dev.lazy ↔ z ∈ s.dev.lazy ∧ ¬performed z) ∧
     (∀ x, x ∈ u.dev.owned ↔ x ∈ s.dev.owned ∧ ∀ z ∈ s.dev.lazy, performed z → ¬(z.core = x.2 ∧ x.1 ∈ z.owned)) ∧
     u.dev = { s.dev with lazy := u.dev.lazy, owned := u.dev.owned })))

/-- R131, R191, R219: the data of every load, atomic and LDS that falls due is written, and its token pushed; a load
that arrives poisoned faults at S and writes nothing. Multiplies and divides that fall due write theirs. Where no two of
them write one register, which the interlock of R131 sees to. -/
def Obligations.ResultsReturn : Prop :=
  ∀ (s : State), (s.core.scalar.flights.filter (fun f => f.remain = 0)).Pairwise (fun f g => f.dest ≠ g.dest ∨ f.dest = none) →
    let due := s.core.scalar.flights.filter (fun f => f.remain = 0)
    let keeps := fun (u : State) => KeepsControl s.core u.core ∧ KeepsUnits s.core u.core ∧ u.core.store = s.core.store ∧
      KeepsMemory s u ∧ u.core.queues.cond = s.core.queues.cond ∧ u.core.scalar.hold = s.core.scalar.hold
    Runs .loadDataReturn s (fun u =>
      (∀ f ∈ due, ∀ d v n, (f.work = .load d v none n ∨ f.work = .lds d v) → d ≠ 0 → u.core.reg d = v) ∧
      (∀ r, (∀ f ∈ due, ∀ v n, f.work ≠ .load r v none n ∧ f.work ≠ .lds r v) → u.core.reg r = s.core.reg r) ∧
      (∀ f ∈ due, ∀ d v a n, f.work = .load d v (some a) n → ∃ x ∈ u.core.fails, x.engine = .s ∧ x.cause = 0x83 ∧ x.tval = a) ∧
      keeps u) ∧
    Runs .muldivResult s (fun u =>
      (∀ f ∈ due, ∀ d v b, f.work = .muldiv d v b → f.again = false → d ≠ 0 → u.core.reg d = v) ∧
      (∀ r, (∀ f ∈ due, ∀ v b, f.again = false → f.work ≠ .muldiv r v b) → u.core.reg r = s.core.reg r) ∧
      u.core.fails = s.core.fails ∧ u.dev = s.dev ∧ keeps u) ∧
    ((∀ f ∈ s.core.vec.flights, f.remain = 0 → f.again = false) → Runs .replayEntryLand s (fun u =>
      (∀ f ∈ due, ∀ d v b, f.work = .muldiv d v b → f.again = true → d ≠ 0 → u.core.reg d = v) ∧
      (∀ r, (∀ f ∈ due, ∀ v b, f.again = true → f.work ≠ .muldiv r v b) → u.core.reg r = s.core.reg r) ∧
      u.core.fails = s.core.fails ∧ u.dev = s.dev ∧ keeps u))

/-! ### Barriers and planes (spec/12) -/

/-- R200, R238, R241: an arrival by a member whose previous phase is complete adds its count, 0 for BAR and STEP, and has still
to register; BAR and STEP then wait for the release, BARA goes on. STEP issues once every load before it has returned, and
is unissued until then. BARW waits while the phase of the latest arrival is
unreleased and retires otherwise, a COLLISION that is due following it (R236); that it waits also between the completion of the
phase and its release is the model's choice (log 28). BARQ reads the phase, the member's arrival, the scope and the number of
members, and its pending bytes. -/
def Obligations.BarrierWords : Prop :=
  ∀ (s : State) (t g : BitVec 3) (a : BitVec 6) (d : BitVec 5) (m : Member), s.member g = some m → s.core.fenced = false →
    (s.dev.tag g).members.filter (fun x => x.core = s.core.id) = [m] →
    let waiting := Hold.barrier g (sigMask t)
    let joined := fun (n : Nat) (step bara : Bool) (u : State) =>
      u.member g = some { m with count := m.count + n, arriving := true, steps := step, issued := s.dev.cycle,
                                 unreleased := true, due := none, bara := bara } ∧
      (∀ x, x.core ≠ s.core.id → (x ∈ (u.dev.tag g).members ↔ x ∈ (s.dev.tag g).members)) ∧
      (∀ k, k ≠ g → u.dev.tag k = s.dev.tag k) ∧ (u.dev.tag g).phase = (s.dev.tag g).phase
    let keeps := fun (ds : List (BitVec 6)) (u : State) => (∀ r, r ∉ ds → u.core.reg r = s.core.reg r) ∧
      KeepsControl s.core u.core ∧ KeepsUnits s.core u.core ∧ u.core.store = s.core.store ∧ KeepsMemory s u ∧
      u.core.queues.cond = s.core.queues.cond ∧ Passes s u .s ∧ TakesTokens s u .s t 0
    let loads := ∃ f ∈ s.core.scalar.flights, (∃ d v p n, f.work = .load d v p n) ∨ ∃ d id n b c, f.work = .peer d id n b c
    let can := m.arrived = false ∧ m.arriving = false ∧ s.lostGate (if (s.dev.tag g).device then 2 else 1) = .go
    (SReady s.core t 0 [] → can → m.count < 2 ^ 36 →
      Runs (.bar t g) s (fun u => joined 0 false false u ∧ u.core.scalar.hold = waiting ∧ keeps [] u) ∧
      (¬loads → Runs (.step t g) s (fun u => joined 0 true false u ∧ u.core.scalar.hold = waiting ∧ keeps [] u)) ∧
      (loads → Runs (.step t g) s (fun u => u.core.engS.pc = s.core.engS.pc ∧ u.core.scalar = s.core.scalar ∧
        u.core.queues = s.core.queues ∧ u.core.store = s.core.store ∧ u.core.fails = s.core.fails ∧ u.dev = s.dev))) ∧
    (SReady s.core t 0 [a] → can → m.collided = none → (s.core.reg a).toNat < 2 ^ 36 →
      m.count + (s.core.reg a).toNat < 2 ^ 36 →
      Runs (.bara t a g) s (fun u => joined (s.core.reg a).toNat false true u ∧ u.core.scalar.hold = .none ∧
        Pushes s u (retires 1 t .none) ∧ keeps [] u)) ∧
    (SReady s.core t 0 [] →
      (m.unreleased = true → Runs (.barw t g) s (fun u => u.dev = s.dev ∧ u.core.scalar.hold = waiting ∧ keeps [] u)) ∧
      (m.unreleased = false → m.collided = none → Runs (.barw t g) s (fun u => u.dev = s.dev ∧
        u.core.scalar.hold = .none ∧ Pushes s u (retires 1 t .none) ∧ keeps [] u)) ∧
      (∀ va, m.unreleased = false → m.collided = some va → s.core.nest = none → s.core.sigRoom (sigMask t) = true →
        Runs (.barw t g) s (fun u => u.member g = some { m with collided := none } ∧
          u.core.fails = s.core.fails ++ [⟨.s, 0x0E, va, s.core.engS.pc + 4⟩] ∧ u.core.scalar.hold = .none ∧
          Pushes s u (retires 1 t .none) ∧ keeps [] u))) ∧
    (SReady s.core t 0 [pairEven d, pairOdd d] →
      Runs (.barq t d g) s (fun u => u.dev = s.dev ∧
        u.core.reg (pairEven d) = (if pairEven d = 0 then 0 else BitVec.ofNat 64 ((s.dev.tag g).phase.toNat +
          (if m.arrived then 1 else 0) * 2 ^ 32 + (if (s.dev.tag g).device then 1 else 0) * 2 ^ 33 +
          (s.dev.tag g).members.length * 2 ^ 40)) ∧
        u.core.reg (pairOdd d) = BitVec.ofInt 64 m.count ∧ Pushes s u (retires 1 t .none) ∧
        keeps [pairEven d, pairOdd d] u))

/-- R239: a phase whose members have all arrived, with every pending-byte counter 0 and, after a STEP, every plane
store settled, completes: PHASE goes up by one, the arrivals are cleared, and every member's release falls due 40
cycles later, 160 for a tag of DEVICE scope (R230). Any other phase stays open. A phase without a STEP moves no byte; after a STEP
every word of a bound plane region that was stored to takes the value of its rule, every other byte stays, and under FAULT a
member that stored to a collided word learns the lowest such address (R236). Here, for the values, with one region bound to the
tag, whose words do not overlap; the order of SUM.F32 is that of arrival (log 2).
R239: when the release of a phase falls due, the word of this core that waits on the tag retires and pushes its token;
a member without a wait goes on as it was. Here for the current core as the one member released. -/
def Obligations.PhasesAndReleases : Prop :=
  (
   ∀ (s : State) (g : BitVec 3),
     let x := s.dev.tag g
     let n := if x.device then 160 else 40
     (s.dev.phaseReady g = false → Runs (.phaseComplete g) s (fun u => u = s)) ∧
     (s.dev.phaseReady g = true → x.stepped = false →
       Runs (.phaseComplete g) s (fun u => CoresStay s u ∧ (∀ a, u.dev.byteAt a = s.dev.byteAt a) ∧
         u.dev.tag g = { x with phase := x.phase + 1, stepped := false, members := x.members.map (fun m =>
           { m with arrived := false, due := some (s.dev.cycle + n) }) } ∧
         (∀ k, k ≠ g → u.dev.tag k = s.dev.tag k) ∧ u.dev.planes = s.dev.planes)) ∧
     (s.dev.phaseReady g = true → x.stepped = true →
       Runs (.phaseComplete g) s (fun u => CoresStay s u ∧ (u.dev.tag g).phase = x.phase + 1 ∧
         (u.dev.tag g).stepped = false ∧ (∀ m ∈ (u.dev.tag g).members, m.arrived = false ∧ m.due = some (s.dev.cycle + n)) ∧
         (∀ p ∈ u.dev.planes, (∃ i, p.bound = some (g, i)) → p.next = []))) ∧
     (∀ p : Plane, MemoryOk s → s.dev.phaseReady g = true → x.stepped = true → s.dev.boundTo g = [p] →
       (∀ y ∈ p.next, y.addr + 4 ≤ enumPage ∧ ∀ z ∈ p.next, y.addr = z.addr ∨ y.addr + 4 ≤ z.addr ∨ z.addr + 4 ≤ y.addr) →
       let F := Fmt.f32.value
       let canonical := fun (v : Nat) => if F v = .nan then Fmt.f32.nanCode else v
       let plus := fun (v : Nat) (y : PlaneStore) => (Fmt.f32.round .rne (FVal.add .rne (F v) (F y.value.toNat)).1).1
       let loses := fun (y z : PlaneStore) (n : Nat) => y.prio < z.prio ∨ (y.prio = z.prio ∧ z.core < y.core + n)
       let mine := fun (m : Member) => p.next.filter (fun y =>
         y.core = m.core && decide (p.rule = .fault) && decide (1 < (p.next.filter (fun z => z.addr = y.addr)).length))
       Runs (.phaseComplete g) s (fun u =>
         (∀ w y ys, p.next.filter (fun z => z.addr = w) = y :: ys →
           let v := leNat (u.dev.bytesAt w 4)
           (p.rule = .priority → ∃ pre z post, y :: ys = pre ++ z :: post ∧ v = z.value.toNat ∧
             (∀ q ∈ pre, loses q z 1) ∧ ∀ q ∈ post, loses q z 0) ∧
           (p.rule = .sumI32 → v = ((y :: ys).map (fun z => z.value.toNat)).sum % 2 ^ 32) ∧
           (p.rule = .sumF32 → v = ys.foldl plus (canonical y.value.toNat)) ∧
           (p.rule = .fault → v = y.value.toNat)) ∧
         (∀ a, (∀ y ∈ p.next, a < y.addr ∨ y.addr + 4 ≤ a) → u.dev.byteAt a = s.dev.byteAt a) ∧
         ((∀ y ∈ p.next, y.bad = false) → u.dev.poison = s.dev.poison) ∧
         ∀ m ∈ x.members, ∃ k ∈ (u.dev.tag g).members, k.core = m.core ∧ (mine m = [] → k.collided = m.collided) ∧
           (m.collided = none → mine m ≠ [] → ∃ y ∈ mine m, k.collided = some y.va ∧
             ∀ z ∈ mine m, y.va.toNat ≤ z.va.toNat)))) ∧
  (
   ∀ (s : State) (g sig : BitVec 3) (m : Member), s.dev.released g = [m] → m.core = s.core.id → m.collided = none →
     (s.dev.tag g).members.filter (fun x => x.core = s.core.id) = [m] → s.core.scalar.hold = .barrier g sig →
     Runs (.barrierRelease g) s (fun u =>
       u.core.scalar.hold = .bubble 0 ∧ Pushes s u (retirePush 0 0 sig .none) ∧
       u.member g = some { m with unreleased := false, due := none } ∧ (∀ r, u.core.reg r = s.core.reg r) ∧
       KeepsControl s.core u.core ∧ KeepsUnits s.core u.core ∧ u.core.store = s.core.store ∧ KeepsMemory s u))

/-- R235: the plane stores that have set out reach their homes in order: each joins the stores of the region it lies
in, and no byte that is loaded changes. R238: an arrival registers once the earlier loads of the core have returned
and, at a tag of DEVICE scope, the writes to peers before it are acknowledged, and marks the step where the word was a STEP; an
arrival that must still wait stays, and so does every other member. One that covers a write of the core that was lost meanwhile
meets POISON and does not register (the model's choice of the point, log 111). -/
def Obligations.ArrivalsAndSettlement : Prop :=
  (
   ∀ (s : State), Runs .planeStoreSettle s (fun u => CoresStay s u ∧ u.dev.settling = [] ∧
     (∀ a, u.dev.byteAt a = s.dev.byteAt a) ∧
     u.dev.planes = s.dev.planes.map (fun p =>
       { p with next := p.next ++ s.dev.settling.filter (fun x => p.base ≤ x.addr ∧ x.addr < p.base + p.len) }) ∧
     u.dev.tags = s.dev.tags)) ∧
  (
   ∀ (s : State),
     let same := fun (g : BitVec 3) (u : State) =>
       (u.dev.tag g).phase = (s.dev.tag g).phase ∧ (u.dev.tag g).owner = (s.dev.tag g).owner
     ((∀ g, s.canRegister g = true → s.lostGate (if (s.dev.tag g).device then 2 else 1) = .go) →
       Runs .arrivalRegister s (fun u => u.core = s.core ∧ u.others = s.others ∧
         (∀ (g : BitVec 3), same g u ∧ (u.dev.tag g).members = (s.dev.tag g).members.map (fun m =>
           if m.core = s.core.id ∧ s.canRegister g = true then { m with arrived := true, arriving := false } else m)) ∧
         (∀ a, u.dev.byteAt a = s.dev.byteAt a))) ∧
     (∀ (g : BitVec 3) (va : Nat) (more : List (Nat × Nat)), s.canRegister g = true → (∀ k, k ≠ g → s.canRegister k = false) →
       (s.dev.tag g).device = true → s.dev.lostLines = (s.core.id, va) :: more →
       Runs .arrivalRegister s (fun u => u.others = s.others ∧
         u.core = { s.core with fails := s.core.fails ++ [⟨.s, 0x83, BitVec.ofNat 64 va, s.core.engS.pc⟩] } ∧
         (∀ k, same k u ∧ (u.dev.tag k).members = (s.dev.tag k).members.map (fun m =>
           if m.core = s.core.id ∧ k = g then { m with arriving := false } else m)) ∧
         (∀ a, u.dev.byteAt a = s.dev.byteAt a))))

/-! ### Task queues, WNEXT, RSPAWN and TSYNC (spec/14, spec/15) -/

/-- R265, R284: a Q word, WNEXT and RSPAWN hold S until their answer comes; that a word acts on its own deque at issue is the
model's choice (log 8). R266: a push goes to the tail of the bank while
the Spillway is empty and the bank below 32, and to the Spillway's tail after that; a push that fills the bank spills its 8
newest records. QPOP takes the newest record of the deque, from the Spillway before the bank, or none of an empty one, and
a bank below 8 is refilled with the oldest records of the Spillway; QLEN reads both counts. A push that finds neither room
in the bank nor in the Spillway ring is QUEUE, with the region control block as TVAL; the word is unissued and the deque as
it was; where there is no ring the bank fills up to 32. Which entry of the ring the first record takes is the model's choice
(log 110). Here with the slot's ring in one DEVICE page. -/
def Obligations.QueueWords : Prop :=
  (
   ∀ (s : State) (t : BitVec 3) (d a : BitVec 6),
     let q := s.core.deque
     let o := (s.core.reg a).toNat
     let spad := o % 64 = 0 ∧ o + 64 ≤ s.core.store.tsave
     let waits := fun (i : Instr) (v : Word) (r : BitVec 512) (off : Nat) (u : State) =>
       ∃ n, u.core.scalar.hold = .answer n i v r off
     let frame := fun (i : Instr) (v : Word) (off : Nat) (u : State) =>
       ∃ n, Holds s t 0 (.answer n i v 0 off) u ∧ Passes s u .s
     let keeps := fun (u : State) => (∀ r, u.core.reg r = s.core.reg r) ∧ KeepsControl s.core u.core ∧
       u.core.vec = s.core.vec ∧ u.core.mat.accs = s.core.mat.accs ∧ u.core.store = s.core.store ∧
       u.core.queues.pushes = s.core.queues.pushes ∧ Passes s u .s
     let deque := fun (bank : List (BitVec 512)) (u : State) => u.core.deque = { q with bank := bank } ∧ u.dev = s.dev ∧
       KeepsMemory s u ∧ keeps u
     let rec' := BitVec.ofNat 512 (s.core.store.spad.load o 64)
     let pushed := Released s 1 ∧ SReady s.core t 0 [a] ∧ spad
     (pushed → q.spill = 0 → q.bank.length < 31 →
       Runs (.qpush t a) s (fun u => waits (.qpush t a) 0 0 0 u ∧ deque (q.bank ++ [rec']) u)) ∧
     (pushed → q.spill = 0 → q.bank.length = 31 → s.spillSize = 0 →
       Runs (.qpush t a) s (fun u => waits (.qpush t a) 0 0 0 u ∧ deque (q.bank ++ [rec']) u)) ∧
     (SReady s.core t 0 [a, d] → spad → q.spill = 0 →
       (∀ bank r, q.bank = bank ++ [r] → q.bank.length ≤ 32 →
         Runs (.qpop t d a) s (fun u => waits (.qpop t d a) (BitVec.ofNat 64 (s.core.id + 1)) r o u ∧ deque bank u)) ∧
       (q.bank = [] → Runs (.qpop t d a) s (frame (.qpop t d a) 0 o))) ∧
     (SReady s.core t 0 [a, d] → spad → Runs (.qsteal t d a) s (frame (.qsteal t d a) 0 o)) ∧
     (SReady s.core t 0 [d] →
       Runs (.qlen t d) s (frame (.qlen t d) (BitVec.ofNat 64 (q.bank.length + 2 ^ 32 * q.spill)) 0)) ∧
     (SReady s.core t 0 [1, 2, 3, 4, d] → Runs (.wnext t d) s (frame (.wnext t d) 0 0)) ∧
     (SReady s.core t 0 [a, d] → Released s 2 → Runs (.rspawn t d a) s (frame (.rspawn t d a) (s.core.reg a) 0)) ∧
     (∀ (g : Region) (p : Page), MemoryOk s → s.dev.regionOf s.core = some g → 8 ≤ g.spillSize →
       let ring := g.spillBase.toNat + 64 * g.spillSize * s.core.job.slot
       let entry := fun (k : Nat) => ring + 64 * (k % g.spillSize)
       OnePage s.dev g.pasid ring (64 * g.spillSize) p →
       let holds := fun (u : State) (k : Nat) (r : BitVec 512) =>
         ∀ j < 64, u.dev.vaByte p (entry k + j) = r.extractLsb' (8 * j) 8
       let spills := fun (ks : List Nat) (u : State) => keeps u ∧ u.others = s.others ∧
         ∀ x, (∀ k ∈ ks, x < p.addr (entry k) ∨ p.addr (entry k) + 64 ≤ x) → u.dev.byteAt x = s.dev.byteAt x
       (pushed → q.spill = 0 → q.bank.length = 31 → Runs (.qpush t a) s (fun u => waits (.qpush t a) 0 0 0 u ∧
         u.core.deque = { q with bank := q.bank.take 24, spill := 8 } ∧
         (∀ j < 8, ∀ r, (q.bank ++ [rec'])[24 + j]? = some r → holds u (q.spillPos + j) r) ∧
         spills ((List.range 8).map (q.spillPos + ·)) u)) ∧
       (pushed → 0 < q.spill → q.spill < g.spillSize → 8 ≤ q.bank.length →
         Runs (.qpush t a) s (fun u => waits (.qpush t a) 0 0 0 u ∧ u.core.deque = { q with spill := q.spill + 1 } ∧
           holds u (q.spillPos + q.spill) rec' ∧ spills [q.spillPos + q.spill] u)) ∧
       (SReady s.core t 0 [a, d] → spad → 0 < q.spill →
         ∀ bs, s.dev.readVa g.pasid (entry (q.spillPos + q.spill - 1)) 64 = some bs →
         let m := if q.bank.length < 8 then min 8 (q.spill - 1) else 0
         Runs (.qpop t d a) s (fun u =>
           waits (.qpop t d a) (BitVec.ofNat 64 (s.core.id + 1)) (BitVec.ofNat 512 (leNat bs)) o u ∧ u.dev = s.dev ∧
           (∃ rs : List (BitVec 512), rs.length = m ∧ u.core.deque = { q with
               bank := q.bank ++ rs, spillPos := q.spillPos + m, spill := q.spill - 1 - m } ∧
             ∀ j < m, ∀ bs, s.dev.readVa g.pasid (entry (q.spillPos + j)) 64 = some bs →
               rs[j]? = some (BitVec.ofNat 512 (leNat bs))) ∧ keeps u)))) ∧
  (
   ∀ (s : State) (t : BitVec 3) (a : BitVec 6), SReady s.core t 0 [a] → s.core.cleared = false → Released s 1 →
     (s.core.reg a).toNat % 64 = 0 → (s.core.reg a).toNat + 64 ≤ s.core.store.tsave →
     (s.core.deque.spill = 0 ∧ 32 ≤ s.core.deque.bank.length) ∨
       (0 < s.core.deque.spill ∧ s.spillSize ≤ s.core.deque.spill) →
     Runs (.qpush t a) s (fun u =>
       u.core.fails = s.core.fails ++ [⟨.s, 0x11, s.rcbVa, s.core.wordAddr .s⟩] ∧ u.core.deque = s.core.deque ∧
       u.core.engS = s.core.engS ∧ u.core.scalar = s.core.scalar ∧ u.core.store = s.core.store ∧ u.dev = s.dev))

/-- R287, R288: TSYNC.JOIN writes the FRAME, and where COUNT is not 0 sets WAITING; TSYNC.ARRIVE takes one from COUNT, and
where that leaves 0 with WAITING set it clears WAITING and pushes RECORD. Both answer with what they found. That they act at issue is
the model's choice (log 8). Here on a join block within one DEVICE page, whose lines are not poisoned. -/
def Obligations.TaskJoins : Prop :=
  ∀ (s : State) (t h : BitVec 3) (a b : BitVec 6) (p : Page), MemoryOk s →
    let h4 : BitVec 4 := h.setWidth 4
    let o := (s.core.reg a).toNat
    let base := s.homeOf h4 o p
    let word := fun (k : Nat) => leNat (s.dev.bytesAt (base + k) 8)
    let block := s.core.fenced = false ∧ s.core.handleReady h4 = true ∧ (s.core.handle h4).state = .valid ∧
      (s.core.handle h4).fn = 2 ∧ o % 64 = 0 ∧ o + 640 ≤ (s.core.handle h4).len.toNat ∧
      (∀ k < 640, s.core.handlePage h4 (o + k) = some p ∧ k < s.core.pageRoom h4 o p) ∧ p.kind = .device ∧
      p.va ≤ (s.core.handle h4).va.toNat + o ∧
      (s.core.handle h4).va.toNat + o + 640 < 2 ^ 64 ∧ base + 640 ≤ enumPage ∧ Released s 2 ∧
      (∀ k < 640, s.dev.reachable .device (base + k) p.dieLocal = true) ∧ (s.readHandle h4 o 16).2 = none
    let slot := fun (j : Nat) => if j = 0 ∨ j = 63 ∨ (j = b.toNat ∧ j ≠ 62) then (0 : Word)
      else if j = 62 then s.core.wordAddr .s + 4 else s.core.reg (BitVec.ofNat 6 j)
    let at' := fun (u : State) (k : Nat) => u.dev.byteAt (base + k)
    let answers := fun (i : Instr) (v : Word) (u : State) => (∃ n, u.core.scalar.hold = .answer n i v 0 0) ∧
      (∀ r, u.core.reg r = s.core.reg r) ∧ KeepsControl s.core u.core ∧ u.core.store = s.core.store ∧
      u.core.fails = s.core.fails ∧ u.others = s.others ∧
      (∀ x, x < base ∨ base + 640 ≤ x → u.dev.byteAt x = s.dev.byteAt x) ∧ Passes s u .s
    (SReady s.core t 0 (a :: b :: allRegs) → block →
      Runs (.tsyncJoin t h a b) s (fun u =>
        (∀ j < 64, ∀ k < 8, at' u (128 + 8 * j + k) = (slot j).extractLsb' (8 * k) 8) ∧
        (∀ k < 128, k < 8 ∨ 16 ≤ k → at' u k = at' s k) ∧
        (if word 0 = 0 then leNat (u.dev.bytesAt (base + 8) 8) = word 8 else leNat (u.dev.bytesAt (base + 8) 8) = 1) ∧
        u.core.deque = s.core.deque ∧ answers (.tsyncJoin t h a b) (if word 0 = 0 then 0 else 1) u)) ∧
    (SReady s.core t 0 [a, b] → block →
      (¬(word 0 = 1 ∧ word 8 % 2 = 1) →
        Runs (.tsyncArrive t h a b) s (fun u =>
          leNat (u.dev.bytesAt base 8) = (word 0 + (2 ^ 64 - 1)) % 2 ^ 64 ∧ (∀ k < 640, 8 ≤ k → at' u k = at' s k) ∧
          u.core.deque = s.core.deque ∧ answers (.tsyncArrive t h a b) 0 u)) ∧
      (word 0 = 1 → word 8 % 2 = 1 → s.core.deque.spill = 0 → s.core.deque.bank.length < 31 →
        Runs (.tsyncArrive t h a b) s (fun u =>
          leNat (u.dev.bytesAt base 16) = 0 ∧ (∀ k < 640, 16 ≤ k → at' u k = at' s k) ∧
          u.core.deque = { s.core.deque with bank := s.core.deque.bank ++
            [BitVec.ofNat 512 (leNat (s.dev.bytesAt (base + 64) 64))] } ∧ answers (.tsyncArrive t h a b) 1 u)))

/-- R265, R284, R285, R286: the answer frees S and pushes the word's token: a popped record goes to the scratchpad before
s[d] takes the core's number plus 1; WNEXT writes the indices into s1 to s3 and the linear index into s4 and then 1 into
s[d], while the region has indices left, which it counts in DISPATCHED, and 0 after the last; a QSTEAL that finds no record
answers 0, and one that does takes the oldest of its victim's bank and answers the victim's number plus 1; an RSPAWN
launches its control block as a child of the region and answers 0, or the error value of the reason. That a steal is taken when
it retires, and WNEXT and RSPAWN act at their answer, is the model's choice (log 8). Here with the current core's as the one
answer due. -/
def Obligations.AnswersArrive : Prop :=
  ∀ (s : State) (t : BitVec 3) (d a : BitVec 6) (i : Instr) (v : Word) (r : BitVec 512) (off : Nat),
    MemoryOk s → s.answerDue = [s.core.id] → s.core.scalar.hold = .answer 0 i v r off → Accepts s.core (sigMask t) →
    let free := fun (u : State) => u.core.scalar.hold = .none ∧
      u.core.queues = (s.core.pushTokens .s (sigMask t)).queues ∧
      KeepsControl s.core u.core ∧ u.core.vec = s.core.vec ∧ u.core.mat = s.core.mat
    let set := fun (v : Word) (u : State) => u.core.reg d = (if d = 0 then 0 else v) ∧ (∀ k, k ≠ d → u.core.reg k = s.core.reg k)
    let wrote := fun (v : Word) (u : State) => set v u ∧ KeepsMemory s u ∧ u.dev = s.dev
    let record := fun (r : BitVec 512) (u : State) => ∀ x, u.core.store.spad.get x =
      if off ≤ x ∧ x < off + 64 then r.extractLsb' (8 * (x - off)) 8 else s.core.store.spad.get x
    let answers := Runs .sluiceOrHomeAnswer s
    (i = .qpush t a → answers (fun u => free u ∧ (∀ k, u.core.reg k = s.core.reg k) ∧ u.dev = s.dev ∧ KeepsMemory s u)) ∧
    (i = .qlen t d → answers (fun u => free u ∧ wrote v u)) ∧
    (∀ h b, (i = .tsyncJoin t h a d ∨ i = .tsyncArrive t h b d) → answers (fun u => free u ∧ wrote v u)) ∧
    (i = .qpop t d a → v = 0 → answers (fun u => free u ∧ wrote 0 u)) ∧
    (i = .qpop t d a → v ≠ 0 → answers (fun u => free u ∧ set v u ∧ u.dev = s.dev ∧ record r u)) ∧
    (i = .qsteal t d a → (∀ id ∈ s.victims, ∀ c ∈ s.cores, c.id = id → c.deque.bank = []) →
      answers (fun u => free u ∧ wrote 0 u)) ∧
    (i = .qsteal t d a → ∀ (x : Core) (rs : List (BitVec 512)) (r : BitVec 512), x.id ≠ s.core.id →
      s.victims.findSome? (fun id => s.cores.find? (fun c => c.id = id && c.deque.bank ≠ [])) = some x →
      x.deque.bank = r :: rs → x.deque.spill = 0 → x.deque.bank.length ≤ 32 → x.running = true →
      (∀ c ∈ s.others, c.id = x.id → c = x) →
      answers (fun u => free u ∧ set (BitVec.ofNat 64 (x.id + 1)) u ∧ u.dev = s.dev ∧ record r u ∧
        u.core.deque.bank = s.core.deque.bank ∧ u.core.deque.spill = s.core.deque.spill ∧
        u.others = s.others.map (fun c => if c.id = x.id then { c with deque := { c.deque with bank := rs } } else c))) ∧
    (∀ g, i = .wnext t d → s.dev.regionOf s.core = some g → g.kind = 0 →
      let p := indexPoint g.order g.counts g.dispatched
      (g.total ≤ g.dispatched → answers (fun u => free u ∧ wrote 0 u)) ∧
      (g.dispatched < g.total → answers (fun u => free u ∧ u.core.reg d = (if d = 0 then 0 else 1) ∧
        (∀ k : Nat, ∀ x, [(1, p.1), (2, p.2.1), (3, p.2.2), (4, g.dispatched)][k]? = some x →
          BitVec.ofNat 6 x.1 ≠ d → u.core.reg (BitVec.ofNat 6 x.1) = BitVec.ofNat 64 x.2) ∧
        (∀ k, k ∉ [1, 2, 3, 4, d] → u.core.reg k = s.core.reg k) ∧
        u.dev.region? g.key = some { g with dispatched := g.dispatched + 1 } ∧
        (∀ b, OnePage s.dev g.pasid g.rcb.toNat 256 b → ∀ j < 8,
          u.dev.vaByte b (g.rcb.toNat + 0xF0 + j) = BitVec.ofNat 8 ((g.dispatched + 1) / 2 ^ (8 * j)))))) ∧
    (∀ g, i = .rspawn t d a → s.dev.regionOf s.core = some g →
      let error := fun (n : Nat) => errorValue .rejected n
      let launched := (s.dev.rcbPut g.pasid v 0 8 g.rcb.toNat).launch g.pasid v (some g.key) g.ccb
      (v = 0 → answers (fun u => free u ∧ wrote (error 6) u)) ∧
      (v ≠ 0 → s.dev.rcbOk g.pasid v = false → answers (fun u => free u ∧ set (error 6) u ∧
        u.dev = s.dev.noteVa g.pasid v.toNat 256 ∧ u.core.store = s.core.store ∧ u.others = s.others)) ∧
      (v ≠ 0 → s.dev.rcbOk g.pasid v = true → (s.dev.region? (regionKey g.pasid v)).isSome = true →
        answers (fun u => free u ∧ wrote (error 7) u)) ∧
      (v ≠ 0 → s.dev.rcbOk g.pasid v = true → s.dev.region? (regionKey g.pasid v) = none →
        (launched.2 ≠ 0 → answers (fun u => free u ∧ set (error launched.2) u ∧ u.dev.regions = s.dev.regions ∧
          u.dev.region? (regionKey g.pasid v) = none)) ∧
        (launched.2 = 0 → answers (fun u => free u ∧ set 0 u ∧
          (∃ x, u.dev.region? (regionKey g.pasid v) = some x ∧ x.parent = some g.key ∧ x.rcb = v ∧ x.pasid = g.pasid ∧
            (x.state = .pending ∨ x.state = .joining)) ∧
          u.dev.region? g.key = some { g with children := g.children + 1 }))))

/-! ### Vector words (spec/03, spec/08) -/

/-- R46, R161, R70, R71: element by element over a block, the words on floating-point numbers. The sums, differences,
products and fused forms, whose third operand is the destination's own block, are exact and then rounded once, by RM,
with their flags; VMIN and VMAX pick an operand and set no flag; VABS and VNEG change the sign only, of a NaN to the
canonical one; the four special functions are of FP32. R70: a finite result of VRCP at x lies within one unit in the last
place of 1/x, and one of VRSQ within one of 1/√x; one of VEX2 and VLG2 within one of the value that the model computes for 2^x
and log2 x, which is exact to one part in 2^70. Which of the codes within that bound is the result is a free value (log 12). FTZ
flushes a subnormal operand and result. -/
def Obligations.VectorFloats : Prop :=
  (∀ (s : State) (t e : BitVec 3) (y : BitVec 2) (d a b : BitVec 5), VReady s.core t 0 →
    let F := typFmt y.toNat
    let w := typWidth y.toNat
    let lat := if y = 3 then 6 else 4
    let ftz := s.core.scalar.ftz
    let rm := s.core.scalar.rm
    let x := fun (rd : State) k i => F.operand ftz (elemAt rd e a w k i)
    let z := fun (rd : State) k i => F.operand ftz (elemAt rd e b w k i)
    let o := fun (rd : State) k i => F.operand ftz (elemAt rd e d w k i)
    let rounds := fun (v : State → Nat → Nat → FVal × Bool) => WritesBlock s t e d lat w (fun rd k i =>
      ((F.roundFtz rm ftz (v rd k i).1).1, (F.roundFtz rm ftz (v rd k i).1).2 ||| Flags.when (v rd k i).2 .invalid))
    let picks := fun (v : State → Nat → Nat → FVal) => WritesBlock s t e d lat w (fun rd k i => ((F.round .rne (v rd k i)).1, 0))
    let signs := fun (v : Nat → Nat) => WritesBlock s t e d lat w (fun rd k i =>
      let c := elemAt rd e a w k i
      (if F.value c = .nan then F.nanCode else v c, 0))
    let special := fun (n : Nat) => WritesBlock s t e d 8 32 (fun rd k i =>
      specialFn n ftz (BitVec.ofNat 32 (elemAt rd e a 32 k i)))
    let top := 2 ^ (w - 1)
    Runs (.vadd t e y d a b) s (rounds (fun rd k i => FVal.add rm (x rd k i) (z rd k i))) ∧
    Runs (.vsub t e y d a b) s (rounds (fun rd k i => FVal.add rm (x rd k i) (z rd k i).neg)) ∧
    Runs (.vmul t e y d a b) s (rounds (fun rd k i => FVal.mul (x rd k i) (z rd k i))) ∧
    Runs (.vfma t e y d a b) s (rounds (fun rd k i => FVal.fma rm (x rd k i) (z rd k i) (o rd k i))) ∧
    Runs (.vfms t e y d a b) s (rounds (fun rd k i => FVal.fma rm (x rd k i) (z rd k i) (o rd k i).neg)) ∧
    Runs (.vfnma t e y d a b) s (rounds (fun rd k i => FVal.fma rm (x rd k i).neg (z rd k i) (o rd k i))) ∧
    Runs (.vmin t e y d a b) s (picks (fun rd k i => FVal.min (x rd k i) (z rd k i))) ∧
    Runs (.vmax t e y d a b) s (picks (fun rd k i => FVal.max (x rd k i) (z rd k i))) ∧
    Runs (.vabs t e y d a) s (signs (fun c => c % top)) ∧
    Runs (.vneg t e y d a) s (signs (fun c => if top ≤ c then c - top else c + top)) ∧
    Runs (.vrcp t e d a) s (special 0) ∧ Runs (.vrsq t e d a) s (special 1) ∧
    Runs (.vex2 t e d a) s (special 2) ∧ Runs (.vlg2 t e d a) s (special 3)) ∧
  (∀ (x : W32) (g : Bool) (m : Nat) (e : Int), Fmt.f32.value x.toNat = .fin g m e → m ≠ 0 →
    let T := topExp m e
    let res := fun (k : Nat) => Fmt.f32.value (specialFn k false x).1
    let near := fun (k : Nat) (y : FVal) => ∀ h n f h' n' f', res k = .fin h n f → y = .fin h' n' f' →
      let u := max (topExp n' f' - 23) (-149)
      let q := min f (min f' u)
      h = h' ∧ (scaleTo h n f q - scaleTo h' n' f' q).natAbs ≤ 2 ^ (u - q).toNat
    (∀ h n f, res 0 = .fin h n f →
      let u := max (-T - 24) (-149)
      let q := min (f + e) (min 0 (e + u))
      h = g ∧ ((n : Int) * m * 2 ^ (f + e - q).toNat - 2 ^ (-q).toNat).natAbs ≤ m * 2 ^ (e + u - q).toNat) ∧
    (g = false → ∀ h n f, res 1 = .fin h n f →
      let u := -(T / 2) - 24
      let q := min f u
      let w := 2 * q + e
      let hi := (n : Int) * 2 ^ (f - q).toNat + 2 ^ (u - q).toNat
      let lo := (n : Int) * 2 ^ (f - q).toNat - 2 ^ (u - q).toNat
      h = false ∧ 2 ^ (-w).toNat ≤ hi * hi * m * 2 ^ w.toNat ∧ (0 < lo → lo * lo * m * 2 ^ w.toNat ≤ 2 ^ (-w).toNat)) ∧
    (T < 8 → -64 ≤ T → e < 0 → m % 2 ^ (-e).toNat ≠ 0 → near 2 (specialApprox 2 g m e)) ∧
    (g = false → pow2? m e = none → near 3 (specialApprox 3 g m e))) ∧
  ∀ (k : Nat) (x : W32),
    let flush := fun (r : Nat) => if r % 2 ^ 31 < 2 ^ 23 then r - r % 2 ^ 31 else r
    (specialFn k true x).1 = flush (specialFn k false (BitVec.ofNat 32 (flush x.toNat))).1

/-- R162: the words on integers of 8, 16, 32 or 64 bits. With f = 1, VIADD and VISUB clamp to the range of the element
and set SATURATE where they did; everything else wraps. A shift takes its count modulo the width; VIMAD's third operand
is the destination's own block. -/
def Obligations.VectorIntegers : Prop :=
  ∀ (s : State) (t e : BitVec 3) (y : BitVec 2) (d a b : BitVec 5) (f : BitVec 1), VReady s.core t 0 →
    let w := intWidth y.toNat
    let x := fun (rd : State) => elemAt rd e a w
    let z := fun (rd : State) => elemAt rd e b w
    let o := fun (rd : State) => elemAt rd e d w
    let clamp := fun (p : Int) => max (-(2 ^ (w - 1) : Int)) (min (2 ^ (w - 1) - 1) p)
    let places := fun (v : State → Nat → Nat → Int) => WritesBlock s t e d 2 w (fun rd k i =>
      (wrapTo w (if f = 1 then clamp (v rd k i) else v rd k i), Flags.when (decide (f = 1 ∧ clamp (v rd k i) ≠ v rd k i)) .saturate))
    let wraps := fun (v : State → Nat → Nat → Nat) => WritesBlock s t e d 2 w (fun rd k i => (v rd k i, 0))
    let lt := fun (rd : State) k i => if f = 1 then decide (x rd k i < z rd k i) else decide (signed w (x rd k i) < signed w (z rd k i))
    Runs (.viadd t e y d a b f) s (places (fun rd k i => signed w (x rd k i) + signed w (z rd k i))) ∧
    Runs (.visub t e y d a b f) s (places (fun rd k i => signed w (x rd k i) - signed w (z rd k i))) ∧
    Runs (.vimul t e y d a b) s (wraps (fun rd k i => x rd k i * z rd k i)) ∧
    Runs (.vimad t e y d a b) s (wraps (fun rd k i => x rd k i * z rd k i + o rd k i)) ∧
    Runs (.vand t e y d a b) s (wraps (fun rd k i => x rd k i &&& z rd k i)) ∧
    Runs (.vor t e y d a b) s (wraps (fun rd k i => x rd k i ||| z rd k i)) ∧
    Runs (.vxor t e y d a b) s (wraps (fun rd k i => x rd k i ^^^ z rd k i)) ∧
    Runs (.vshl t e y d a b) s (wraps (fun rd k i => x rd k i * 2 ^ (z rd k i % w))) ∧
    Runs (.vshr t e y d a b) s (wraps (fun rd k i => x rd k i / 2 ^ (z rd k i % w))) ∧
    Runs (.vsra t e y d a b) s (wraps (fun rd k i => wrapTo w (signed w (x rd k i) / 2 ^ (z rd k i % w)))) ∧
    Runs (.vimin t e y d a b f) s (wraps (fun rd k i => if lt rd k i then x rd k i else z rd k i)) ∧
    Runs (.vimax t e y d a b f) s (wraps (fun rd k i => if lt rd k i then z rd k i else x rd k i))

/-- R163 to R166: VCMP writes a mask whose lane is set where the compare holds of every element in it, a 64-bit element
setting both its lanes; VSEL takes lane i from va where the mask holds and from vb elsewhere; VCQ pushes a condition bit,
and the VMSK words combine masks. -/
def Obligations.VectorMasks : Prop :=
  ∀ (s : State) (t e c : BitVec 3) (y m p q : BitVec 2) (d a b : BitVec 5) (f : BitVec 1), VReady s.core t 0 →
    let w := if f = 1 then intWidth y.toNat else typWidth y.toNat
    let holds := fun (i : Nat) =>
      let x := bitsAt (s.core.vregAt a 0) w i
      let z := bitsAt (s.core.vregAt b 0) w i
      if f = 1 then intCond w c.toNat x z else floatCond (typFmt y.toNat) s.core.scalar.ftz c.toNat x z
    let lane := fun (i : Nat) => if w = 64 then holds (i / 2) else (List.range (32 / w)).all (fun j => holds (i * (32 / w) + j))
    let masks := fun (v : BitVec 256) => Flies s t 1 [flight 2 (.mask m v) 0]
    let x := s.core.maskAt p 0
    let z := s.core.maskAt q 0
    Runs (.vcmp t y c m a b f) s (fun u => ∃ v : BitVec 256, Flies s t 1 [flight 3 (.mask m v) 0] u ∧
      ∀ i < 256, v.getLsbD i = lane i) ∧
    Runs (.vsel t e m d a b) s (WritesBlock s t e d 2 32 (fun rd k i =>
      (if (rd.core.maskAt m k).getLsbD i then elemAt rd e a 32 k i else elemAt rd e b 32 k i, 0))) ∧
    Runs (.vcqAny t p) s (Flies s t 1 [flight 3 (.cond (decide (x ≠ 0))) 0]) ∧
    Runs (.vcqAll t p) s (Flies s t 1 [flight 3 (.cond (decide (x = BitVec.allOnes 256))) 0]) ∧
    Runs (.vmskAnd t m p q) s (masks (x &&& z)) ∧ Runs (.vmskOr t m p q) s (masks (x ||| z)) ∧
    Runs (.vmskXor t m p q) s (masks (x ^^^ z)) ∧ Runs (.vmskAndn t m p q) s (masks (x &&& ~~~z)) ∧
    Runs (.vmskNot t m p) s (masks (~~~x)) ∧ Runs (.vmskSet t m) s (masks (BitVec.allOnes 256)) ∧
    Runs (.vmskClr t m) s (masks 0)

/-- R130, R167, R168, R176: moves, splats, indices, permutes, broadcasts and slides of lanes; VXS and VXS.PART write a
scalar register when they land; VPART packs the lanes where the mask holds, in order, into the even register and the
others into the odd one, filled up with ones, and the two counts into the latch. -/
def Obligations.VectorMoves : Prop :=
  ∀ (s : State) (t e : BitVec 3) (w m : BitVec 2) (d a b : BitVec 5) (i : BitVec 11) (n : BitVec 8) (r : BitVec 6)
    (p : BitVec 4), VReady s.core t 0 →
    let k8 := intWidth w.toNat
    let x := fun (j : Nat) => bitsAt (s.core.vregAt a 0) 32 j
    let lanes := fun (set : Bool) => ((List.range 256).filter (fun j => (s.core.maskAt m 0).getLsbD j == set)).map x
    let filled := fun (v : BitVec 8192) (xs : List Nat) => ∀ j < 256, bitsAt v 32 j = (xs[j]?).getD (2 ^ 32 - 1)
    Runs (.vmov t e d a) s (WritesBlock s t e d 2 32 (fun rd k j => (elemAt rd e a 32 k j, 0))) ∧
    Runs (.vmovi t e w d i) s (WritesBlock s t e d 2 k8 (fun _ _ _ => ((i.signExtend 64).toNat, 0))) ∧
    Runs (.vsx t e w d r) s (WritesBlock s t e d 3 k8 (fun _ _ _ => ((s.core.reg r).toNat, 0))) ∧
    Runs (.viota t e w d) s (WritesBlock s t e d 4 k8 (fun _ k j => (k * (8192 / k8) + j, 0))) ∧
    Runs (.vperm t e d a b) s (WritesBlock s t e d 4 32 (fun rd k j => (elemAt rd e a 32 k (elemAt rd e b 32 k j % 256), 0))) ∧
    Runs (.vbcast t e w d a b) s (WritesBlock s t e d 4 k8 (fun rd k _ =>
      (elemAt rd e a k8 k (elemAt rd e b 32 k 0 % (8192 / k8)), 0))) ∧
    Runs (.vslide t e d a n) s (WritesBlock s t e d 4 32 (fun rd k j =>
      (if j + n.toNat < 256 then elemAt rd e a 32 k (j + n.toNat) else 0, 0))) ∧
    Runs (.vxs t w r a) s (Flies s t 1 [flight 6 (.sreg r (BitVec.ofInt 64 (signed k8 (bitsAt (s.core.vregAt a 0) k8 0)))) 0]) ∧
    Runs (.vxsPart t r) s (Flies s t 1 [flight 6 (.sreg r (s.core.latchAt 0)) 0]) ∧
    Runs (.vpart t m p a) s (fun u => ∃ yes no : BitVec 8192,
      Flies s t 2 [flight 12 (.vreg (s.core.phys (p ++ (0 : BitVec 1))) yes 0 1024) 0,
        flight 13 (.vreg (s.core.phys (p ++ (1 : BitVec 1))) no 0 1024) 0,
        flight 13 (.latch (BitVec.ofNat 64 ((lanes true).length + 2 ^ 32 * (lanes false).length))) 0] u ∧
      filled yes (lanes true) ∧ filled no (lanes false))

/-- R169 to R172: VCVT over formats of one width or to a wider one reads its narrower operand as a run of consecutive
registers; to a narrower one, the results of register k land in their own bytes of the run. VUNPK, of a format that it
accepts, reads a run and its scale records, rounds into FP16 and BF16 by RM, and gives a value beyond the range of FP16 as its
infinity whatever the mode (R66); that one beyond the range of FP32 rounds by RM too is the model's choice (log 51). VPACK writes
the codes of register k and, behind the run, the records of its blocks of 32. Each of the three completes so in every state in
which it is ready. -/
def Obligations.VectorConversions : Prop :=
  ∀ (s : State) (t e : BitVec 3) (y : BitVec 2) (d a v : BitVec 5) (f : BitVec 1) (g : BitVec 4), VReady s.core t 0 →
    let src := if v.getLsbD 4 then intFmt y else y.toNat
    let dst := v.toNat % 16
    let ws := fmtWidth src
    let wd := fmtWidth dst
    let cvt := s.core.convert src dst (decide (f = 1))
    let n := extSize e
    (ws ≤ wd → Runs (.vcvt t e y d a v f) s (WritesBlock s t e d 5 wd (fun rd k i =>
      cvt (if ws = wd then elemAt rd e a ws k i else runAt rd a ws k (k * (8192 / wd) + i))))) ∧
    (wd < ws → Runs (.vcvt t e y d a v f) s (fun u => ∃ fs, Flies s t n fs u ∧ fs.length = n ∧
      ∀ k < n,
        let bytes := 8192 / ws * wd / 8
        let lo := k * bytes % 1024
        let rd := s.after (fs.take k)
        ∃ x, fs[k]? = some (flight (k + 5) (.vreg (s.core.phys (runReg d (k * bytes / 1024))) x lo bytes)
            (allFlags (8192 / ws) (fun i => (cvt (elemAt rd e a ws k i)).2))) ∧
          ∀ i < 8192 / ws, bitsAt x wd (lo * 8 / wd + i) = (cvt (elemAt rd e a ws k i)).1 % 2 ^ wd)) ∧
    (let w := fmtWidth g.toNat
     let int := fmtIsInt g.toNat
     let ww := if int then intWidth y.toNat else typWidth y.toNat
     vunpkOk y g = true → Runs (.vunpk t e y d a g) s (WritesBlock s t e d 5 ww (fun rd k i =>
       let j := k * (8192 / ww) + i
       let code := runAt rd a w k j
       let sc := if fmtScaled g.toNat then bitsAt (rd.core.vregAt (scaleReg e a ww w) k) 16 (j / 32) else 0
       if int then (wrapTo ww (intValue g.toNat code), 0)
       else
         let F := typFmt y.toNat
         let v := elemValue g.toNat code sc
         let z := F.round s.core.scalar.rm v
         (if y = 1 ∧ z.2 &&& Flags.overflow ≠ 0 then F.signBit v.isNeg + F.top else z.1, z.2)))) ∧
    (let w := fmtWidth g.toNat
     let ww := typWidth y.toNat
     let m := 8192 / ww
     let bytes := m * w / 8
     let block := fun (rd : State) (k j : Nat) =>
       encodeBlock g.toNat ((List.range 32).map (fun i => (typFmt y.toNat).value (elemAt rd e a ww k (32 * j + i))))
     fmtScaled g.toNat = true → w ≤ ww →
     Runs (.vpack t e y d a g) s (fun u => ∃ fs, Flies s t n fs u ∧ fs.length = 2 * n ∧
       ∀ k < n,
         let lo := k * bytes % 1024
         let rd := s.after (fs.take (2 * k))
         ∃ x r, fs[2 * k]? = some (flight (k + 5) (.vreg (s.core.phys (runReg d (k * bytes / 1024))) x lo bytes)
             (allFlags (m / 32) (fun j => (block rd k j).2.2))) ∧
           fs[2 * k + 1]? = some (flight (k + 5) (.vreg (s.core.phys (scaleReg e d ww w)) r (2 * (k * (m / 32))) (m / 16)) 0) ∧
           (∀ j < m / 32, bitsAt r 16 (k * (m / 32) + j) = (block rd k j).2.1 % 2 ^ 16 ∧
             ∀ i < 32, bitsAt x w (lo * 8 / w + (32 * j + i)) = (((block rd k j).1)[i]?).getD 0 % 2 ^ w)))

/-- R72, R173: a reduction of a block to element 0 of vd, the rest of which becomes zero. Integer sums wrap; the integer
extremes are an element of the block that no other one passes; floating-point numbers are taken two by two along the
halving tree, the sum in RNE. That FTZ flushes the operands of VRMAX and VRMIN, as it does those of VRSUM, is the model's choice
(log 75). -/
def Obligations.VectorReductions : Prop :=
  ∀ (s : State) (t e : BitVec 3) (y : BitVec 2) (d a : BitVec 5), VReady s.core t 0 →
    let n := extSize e
    let w := intWidth y.toNat
    let x := elemAt s e a w
    let one := fun (w r : Nat) (fl : Flags) =>
      Flies s t n [flight (n + 7) (.vreg (s.core.phys d) (BitVec.ofNat 8192 (r % 2 ^ w)) 0 1024) fl]
    let F := typFmt y.toNat
    let wf := typWidth y.toNat
    let ftz := s.core.scalar.ftz
    let tree := fun (op : Nat → Nat → Nat × Flags) =>
      let parts := (List.range n).map (fun k => halve op (Nat.log2 (8192 / wf)) ((List.range (8192 / wf)).map (elemAt s e a wf k)) 0)
      halve op (Nat.log2 n) (parts.map (·.1)) (parts.foldl (fun f p => f ||| p.2) 0)
    let float := fun (op : FVal → FVal → Nat × Flags) =>
      let r := tree (fun p q => op (F.operand ftz p) (F.operand ftz q))
      one wf r.1 r.2
    let extreme := fun (above : Int → Int → Prop) (u : State) => ∃ k i, k < n ∧ i < 8192 / w ∧ one w (x k i) 0 u ∧
      ∀ j l, j < n → l < 8192 / w → above (signed w (x k i)) (signed w (x j l))
    Runs (.vrsum t e y d a 1) s
      (one w ((List.range n).map (fun k => ((List.range (8192 / w)).map (x k)).sum)).sum 0) ∧
    Runs (.vrmax t e y d a 1) s (extreme (fun p q => q ≤ p)) ∧ Runs (.vrmin t e y d a 1) s (extreme (fun p q => p ≤ q)) ∧
    Runs (.vrsum t e y d a 0) s (float (fun p q =>
      let v := FVal.add .rne p q
      ((F.roundFtz .rne ftz v.1).1, (F.roundFtz .rne ftz v.1).2 ||| Flags.when v.2 .invalid))) ∧
    Runs (.vrmax t e y d a 0) s (float (fun p q => ((F.round .rne (FVal.max p q)).1, 0))) ∧
    Runs (.vrmin t e y d a 0) s (float (fun p q => ((F.round .rne (FVal.min p q)).1, 0)))

/-- R76, R79, R80, R174, R175, R208: with a stream that passes its checks, VSLD fills register k with row ro + k and zeros
what lies beyond the valid block or the shape; VSST sends the valid elements of register k to row ro + k; VGATH takes for
each lane the element its index names, or zero, and VSCAT sends each lane there. The first check of R79 that the stream
fails raises MATFMT; then an unused or EMPTY tile, an element past the limit and an absent accumulator raise
SPADBOUNDS. That the scratchpad is read as it stands at issue, with the word's and the earlier results in flight, is the model's
choice (log 10). -/
def Obligations.VectorStreams : Prop :=
  ∀ (s : State) (t e : BitVec 3) (d ix : BitVec 5) (q : BitVec 4) (r : BitVec 5), VReady s.core t 0 →
    let x := s.core.stream q
    let i := s.core.idx
    let n := extSize e
    let ro := r.toNat
    let w := x.width
    let rows := min x.rows (ro + n)
    let cols := min x.cols (8192 / w)
    let spad := InSpad s.core x i ro rows 0 cols false
    let named := fun (rd : State) (k l : Nat) =>
      let z := bitsAt (rd.core.vregAt (blockReg e ix k) k) 32 (if w = 64 then 2 * l else l)
      if z / x.cols < x.rows ∧ x.valid (z / x.cols) (z % x.cols) = true then some (z / x.cols, z % x.cols) else none
    let sees := fun (k : Nat) => s.after ((s.core.gathered e d ix x).take k)
    let inside := fun (rd : Nat → State) => ∀ k < n, ∀ l < 8192 / w, ∀ a b, named (rd k) k l = some (a, b) →
      (x.kind ≤ 1 → x.elemOff i a b + w / 8 ≤ s.core.spadLimit x) ∧
      (x.kind = 3 → if x.fmt = 3 then x.accNum i b % 2 = 0 ∧ x.accNum i b + 1 < s.core.store.accs
        else x.accNum i b < s.core.store.accs)
    let past := fun (rd : Nat → State) (o : Nat) => x.kind ≤ 1 ∧ ∃ k < n, ∃ l < 8192 / w, ∃ a b,
      named (rd k) k l = some (a, b) ∧ o = x.elemOff i a b ∧ s.core.spadLimit x < o + w / 8
    let pastAccs := fun (v : Nat) => x.kind = 3 ∧ s.core.store.accs ≤ v ∧ ∃ k < n, ∃ l < 8192 / w, ∃ a b,
      named (sees k) k l = some (a, b) ∧ (v = x.accNum i b ∨ x.fmt = 3 ∧ v = x.accNum i b + 1)
    let row := fun (k : Nat) => if ro + k < x.vrows then min x.vcols (8192 / w) else 0
    let base := s.core.spadBase x
    let tile := if x.kind = 1 then some x.tile else none
    let ldFmt := x.kind = 3 → fmtScaled x.fmt = false ∧ x.fmt ≠ 8
    let ldEven := ro < x.vrows → PairsEven x i (8192 / w)
    let gaFmt := (w = 32 ∨ w = 64) ∧ (x.kind = 3 → x.fmt ≠ 8)
    let gaEven := ∀ k < n, ∀ l < 8192 / w, ∀ a b, named (sees k) k l = some (a, b) → x.kind = 3 → x.fmt = 3 →
      x.accNum i b % 2 = 0
    let scFmt := w = 32 ∨ w = 64
    let absent := fun (v : Nat) => TileAbsent s.core x ∧ v = x.tile.toNat
    (TileReady s.core x →
     (StreamFits s.core q ldFmt (x.kind ≠ 2) ldEven true → spad → (ro < x.vrows → InAccs s.core x i (8192 / w)) →
      Runs (.vsld t e d q r) s (fun u => WritesBlock s t e d 10 w (fun rd k j =>
        s.core.streamElem x i (rd.core.spadAt k) (ro + k) j) u tile)) ∧
     (StreamFits s.core q True (x.kind ≤ 1) True false → spad →
      Runs (.vsst t e d q r) s (Flies s t n ((List.range n).map (fun k =>
        { flight (k + 10) (.row (s.core.vregAt (blockReg e d k) k) (base + x.elemOff i (ro + k) 0) (row k) w) 0 with
          tile := tile, dirty := decide (row k ≠ 0) })))) ∧
     (StreamFits s.core q gaFmt (x.kind ≠ 2) gaEven true → inside sees →
      Runs (.vgath t e d ix q) s (fun u => WritesBlock s t e d 14 w (fun rd k l =>
        match named rd k l with
        | some (a, b) => s.core.streamElem x i (rd.core.spadAt k) a b
        | none => (0, 0)) u tile)) ∧
     (StreamFits s.core q scFmt (x.kind ≤ 1) True false → inside (fun _ => s) →
      Runs (.vscat t e d ix q) s (fun u => ∃ fs, Flies s t n fs u ∧ fs.length = n ∧ ∀ k < n, ∃ offs : BitVec 8192,
        fs[k]? = some { flight (k + 14) (.scatter (s.core.vregAt (blockReg e d k) k) offs (decide (w = 64))) 0 with
          tile := tile, dirty := decide (∃ l < 8192 / w, (named s k l).isSome = true) } ∧
        ∀ l < 8192 / w, bitsAt offs 32 (if w = 64 then 2 * l else l) = (match named s k l with
          | some (a, b) => (base + x.elemOff i a b) % 2 ^ 32
          | none => 2 ^ 32 - 1)))) ∧
    (s.core.cleared = false →
     Refuses (.vsld t e d q r) s .v 0x06 (StreamFails s.core q ldFmt (x.kind ≠ 2) ldEven true) ∧
     Refuses (.vsst t e d q r) s .v 0x06 (StreamFails s.core q True (x.kind ≤ 1) True false) ∧
     Refuses (.vgath t e d ix q) s .v 0x06 (StreamFails s.core q gaFmt (x.kind ≠ 2) gaEven true) ∧
     Refuses (.vscat t e d ix q) s .v 0x06 (StreamFails s.core q scFmt (x.kind ≤ 1) True false) ∧
     (StreamFits s.core q ldFmt (x.kind ≠ 2) ldEven true →
      Refuses (.vsld t e d q r) s .v 0x84 absent ∧
      (TileReady s.core x → Refuses (.vsld t e d q r) s .v 0x84 (PastSpad s.core x i ro rows 0 cols)) ∧
      (ro < x.vrows → Refuses (.vsld t e d q r) s .v 0x84 (PastAccs s.core x i (8192 / w)))) ∧
     (StreamFits s.core q True (x.kind ≤ 1) True false →
      Refuses (.vsst t e d q r) s .v 0x84 absent ∧
      (TileReady s.core x → Refuses (.vsst t e d q r) s .v 0x84 (PastSpad s.core x i ro rows 0 cols))) ∧
     (StreamFits s.core q gaFmt (x.kind ≠ 2) gaEven true →
      Refuses (.vgath t e d ix q) s .v 0x84 absent ∧
      (TileReady s.core x → Refuses (.vgath t e d ix q) s .v 0x84 (past sees)) ∧
      Refuses (.vgath t e d ix q) s .v 0x84 pastAccs) ∧
     (StreamFits s.core q scFmt (x.kind ≤ 1) True false →
      Refuses (.vscat t e d ix q) s .v 0x84 absent ∧
      (TileReady s.core x → Refuses (.vscat t e d ix q) s .v 0x84 (past (fun _ => s)))))

/-- R24, R157, R159, R178, R179: VWIN moves the window within the partition; VWAIT takes its tokens; VSIG and VNOP push
theirs once the last result of the earlier V words has landed, and at once where none is in flight. VWIN to a window that
is not there raises SPADBOUNDS; that its TVAL is the window's number is the model's choice (log 91). -/
def Obligations.VectorOrder : Prop :=
  ∀ (s : State) (t m : BitVec 3),
    let c := s.core
    let now := fun (u : State) (k : BitVec 3) (g : List Push) =>
      VFrame s u ∧ u.core.vec.busy = 1 ∧ u.core.vec.flights = c.vec.flights ∧ TakesTokens s u .v t k ∧ Pushes s u g
    let later := fun (u : State) (k : BitVec 3) => VFrame s u ∧ u.core.vec.busy = 1 ∧ TakesTokens s u .v t 0 ∧ Pushes s u [] ∧
      u.core.vec.window = c.vec.window ∧ ∃ f, u.core.vec.flights = c.vec.flights ++ [f] ∧ f.result = .signal ∧
        f.sig1 = k ∧ f.sig2 = sigMask t ∧ f.flags = 0 ∧ f.tile = none ∧ (∀ g ∈ c.vec.flights, g.remain ≤ f.remain) ∧
        ∃ g ∈ c.vec.flights, g.remain = f.remain
    (VReady c t 0 →
      (m.toNat < c.store.windows → Runs (.vwin t m) s (fun u => u.core.vec.window = m ∧ now u 0 (tokenPushes 0 .v (sigMask t)))) ∧
      (c.vec.flights = [] →
        Runs (.vsig t m) s (fun u => u.core.vec.window = c.vec.window ∧
          now u 0 (tokenPushes 0 .v m ++ tokenPushes 0 .v (sigMask t))) ∧
        Runs (.vnop t) s (fun u => u.core.vec.window = c.vec.window ∧ now u 0 (tokenPushes 0 .v (sigMask t)))) ∧
      (c.vec.flights ≠ [] → Runs (.vsig t m) s (fun u => later u m) ∧
        (sigMask t ≠ 0 → Runs (.vnop t) s (fun u => later u 0)) ∧
        (sigMask t = 0 → Runs (.vnop t) s (fun u => u.core.vec.window = c.vec.window ∧ now u 0 []))) ∧
      (c.cleared = false → Refuses (.vwin t m) s .v 0x84 (fun v => c.store.windows ≤ m.toNat ∧ v = m.toNat))) ∧
    (VReady c t m → Runs (.vwait t m) s (fun u => u.core.vec.window = c.vec.window ∧ now u m (tokenPushes 0 .v (sigMask t))))

/-- R48, R126, R132, R155, R157: the V results that fall due land in issue order: each writes its own bytes of a register, a
mask, the latch, a scalar register or the scratchpad, sets its flags and pushes its tokens, a condition bit before them.
The entries of a replay buffer land in the same way, where results land (R94, R126, R182; when they begin to after a TRET is the
model's choice, log 90); here where no multiply or divide falls
due with them. -/
def Obligations.VectorResultsLand : Prop :=
  ∀ (s : State) (again : Bool), (again = true → s.core.landsV = true ∧ ∀ f ∈ s.core.scalar.flights, f.remain = 0 → f.again = false ∨ f.dest = none) →
    let due := s.core.vec.flights.filter (fun f => f.remain = 0 && f.again == again)
    let pushes : Flight → List Push := fun f => match f.result with
      | .cond b => [⟨0, .cond b f.sig1 f.sig2⟩]
      | _ => tokenPushes 0 .v f.sig1 ++ tokenPushes 0 .v f.sig2
    Runs (if again then .replayEntryLand else .vResultLand) s (fun u =>
      u.core.vec.flights = s.core.vec.flights.filter (fun f => !(f.remain = 0 && f.again == again)) ∧
      (∀ p : BitVec 8, u.core.vec.regs[p.toNat]'p.isLt = due.foldl (fun v f => f.onReg p v) (s.core.vec.regs[p.toNat]'p.isLt)) ∧
      (∀ m : BitVec 2, u.core.vec.masks[m.toNat]'m.isLt = due.foldl (fun v f => f.onMask m v) (s.core.vec.masks[m.toNat]'m.isLt)) ∧
      u.core.vec.latch = due.foldl (fun v f => f.onLatch v) s.core.vec.latch ∧
      u.core.store.spad = due.foldl (fun m f => f.onSpad m) s.core.store.spad ∧
      (∀ r : BitVec 6, u.core.reg r = due.foldl (fun v f => match f.result with
        | .sreg d x => if d = r ∧ d ≠ 0 then x else v
        | _ => v) (s.core.reg r)) ∧
      u.core.scalar.fpflags = due.foldl (fun v f => v ||| f.flags) s.core.scalar.fpflags ∧
      u.core.queues.pushes = s.core.queues.pushes ++ (due.map pushes).flatten ∧
      (∀ i, (u.core.tile i).dirty = ((s.core.tile i).dirty || due.any (fun f => f.tile == some i && f.dirty))) ∧
      u.core.vec.window = s.core.vec.window ∧ u.core.vec.busy = s.core.vec.busy ∧ u.core.mat = s.core.mat ∧
      u.core.xfer = s.core.xfer ∧ u.core.store.handles = s.core.store.handles ∧ u.dev = s.dev ∧ u.others = s.others ∧
      (∀ e, u.core.eng e = s.core.eng e))

/-! ### Matrix words (spec/05) -/

/-- R79, R80, R96, R98, R99, R103 to R120, R208: a word whose streams pass their checks and whose accumulators are present
enters M's queue behind those there, with its streams, its indices and its occupancy: 4 cycles, 8 for an FP64 pair, one
for each accumulator of MZERO. MWAIT takes its tokens and enters nothing; MNOP signals once the words before it have
completed. A stream that fails R79 raises MATFMT, an MMAS without metadata or with a bad index too; then an absent tile, an
element past the limit and an absent accumulator raise SPADBOUNDS. That MMAS checks its indices before its accumulator,
and all K·12/N rows of B, is the model's choice (log 89). -/
def Obligations.MatrixWords : Prop :=
  ∀ (s : State) (t w : BitVec 3) (c z : BitVec 7) (k : BitVec 4) (a b : BitVec 4) (n m e y l u : BitVec 1) (ty : BitVec 2),
    let x := s.core
    let qa := x.stream a
    let qb := x.stream b
    let i := x.idx
    let enters := fun (ins : Instr) (p q : BitVec 4) (md : List (BitVec 4)) (occ : Nat) (ts : List (BitVec 6)) =>
      Enqueues s t ⟨ins, x.stream p, x.stream q, md, i, occ, ts⟩
    let present := fun (k : BitVec 7) (pair : Bool) => (if pair then k.toNat + 1 else k.toNat) < x.store.accs
    let lacks := fun (k : BitVec 7) (pair : Bool) (v : Nat) =>
      x.store.accs ≤ v ∧ (v = k.toNat ∨ pair = true ∧ v = k.toNat + 1)
    let occ := fun (pair : Bool) => if pair then 8 else 4
    let fp64 : Bool := decide (qa.fmt = 3)
    let K := kPair qa.fmt qb.fmt
    let tile := fun (q : Stream) => if q.kind = 1 then [q.tile] else []
    let absent := fun (q : Stream) (v : Nat) => TileAbsent x q ∧ v = q.tile.toNat
    let fmtA := (mmaClass qa.fmt).isSome = true ∧ (s.dev.reduced = true → classOf qa.fmt ≤ 1) ∧
      (qa.fmt = 3 → qb.fmt = 3 → c.toNat % 2 = 0)
    let shapeA := (if qa.kind = 3 then qa.rows = 32 else 32 ≤ qa.rows) ∧ K ≤ qa.cols ∧ PairsEven qa i K
    let fmtB := classOf qb.fmt = classOf qa.fmt
    let shapeB := K ≤ qb.rows ∧ 32 ≤ qb.cols
    let fitsA := StreamFits x a fmtA (qa.kind ≠ 2) shapeA true
    let fitsB := StreamFits x b fmtB (qb.kind ≤ 1) shapeB true
    let denseReady := fitsA ∧ fitsB ∧ TileReady x qa ∧ TileReady x qb
    let dense := denseReady ∧ InSpad x qa i 0 32 0 K true ∧ InAccs x qa i K ∧ InSpad x qb i 0 K 0 32 true
    let md := x.stream qa.mq
    let nibble := fun (r j : Nat) => x.elemBits x.store.spad md i r j
    let sFmtA := 2 ≤ classOf qa.fmt ∧ (mmaClass qa.fmt).isSome = true ∧ s.dev.reduced = false
    let sShapeA := 32 ≤ qa.rows ∧ K ≤ qa.cols
    let sMeta := fun (m : Stream) => 32 ≤ m.rows ∧ K ≤ m.cols
    let sFitsA := StreamFits x a sFmtA (qa.kind ≤ 1) sShapeA true sMeta
    let sShapeB := fun (N : Nat) => K * 12 / N ≤ qb.rows ∧ 32 ≤ qb.cols
    let sparseFits := fun (N : Nat) => sFitsA ∧ qa.men = true ∧ StreamFits x b fmtB (qb.kind ≤ 1) (sShapeB N) true
    let sparseIn := fun (N : Nat) => sparseFits N ∧ TileReady x qa ∧ TileReady x md ∧ TileReady x qb ∧
      InSpad x qa i 0 32 0 K true ∧ InSpad x md i 0 (min 32 qa.vrows) 0 K false ∧ InSpad x qb i 0 (K * 12 / N) 0 32 true
    let rising := fun (N : Nat) => ∀ r < min 32 qa.vrows, ∀ j < K,
      nibble r j < 12 ∧ (j % N ≠ 0 → nibble r (j - 1) < nibble r j)
    let nibbles := ((List.range (min 32 qa.vrows)).map (fun r => (List.range K).map (fun j => BitVec.ofNat 4 (nibble r j)))).flatten
    let sparse := fun (N : Nat) (j : Instr) =>
      (sparseIn N → rising N → present c false → Runs j s (enters j a b nibbles 4 (tile qa ++ tile qb ++ tile md))) ∧
      (x.cleared = false →
        Refuses j s .m 0x06 (StreamFails x a sFmtA (qa.kind ≤ 1) sShapeA true sMeta) ∧
        (sFitsA → Refuses j s .m 0x06 (fun v => qa.men = false ∧ v = a.toNat + 256 * 5)) ∧
        (sFitsA → qa.men = true →
          Refuses j s .m 0x06 (StreamFails x b fmtB (qb.kind ≤ 1) (sShapeB N) true)) ∧
        (sparseFits N → Refuses j s .m 0x84 (absent qa)) ∧
        (sparseFits N → TileReady x qa → TileReady x md → TileReady x qb →
          Refuses j s .m 0x84 (PastSpad x qa i 0 32 0 K)) ∧
        (sparseIn N → Refuses j s .m 0x06 (fun v => ¬rising N ∧ v = a.toNat + 256 * 6)) ∧
        (sparseIn N → rising N → Refuses j s .m 0x84 (lacks c false)))
    let ldFmt := qa.fmt ≠ 8 ∧ (qa.fmt = 3 → c.toNat % 2 = 0)
    let ldShape := 32 ≤ qa.rows ∧ 32 ≤ qa.cols ∧ PairsEven qa i 32
    let outFmt := moutOk ty.toNat qa.fmt = true
    let outShape := 32 ≤ qa.rows ∧ 32 ≤ qa.cols
    let vFmt := vecFmtOk ty.toNat qa.fmt = true
    let vRows := if l = 1 then 32 else 1
    let vCols := if l = 1 then 1 else 32
    let vShape := vRows ≤ qa.rows ∧ vCols ≤ qa.cols
    let vFits := StreamFits x a vFmt (qa.kind ≤ 1) vShape true
    let wide : Bool := decide (ty = 2)
    let one := fun (j : Instr) (f k sh : Prop) (reads : Bool) (rows cols : Nat) =>
      x.cleared = false →
        Refuses j s .m 0x06 (StreamFails x a f k sh reads) ∧
        (StreamFits x a f k sh reads → Refuses j s .m 0x84 (absent qa) ∧
          (TileReady x qa → Refuses j s .m 0x84 (PastSpad x qa i 0 rows 0 cols)))
    (MReady x t →
      (dense → present c fp64 → Runs (.mma t c a b n m e y) s (enters (.mma t c a b n m e y) a b [] (occ fp64) (tile qa ++ tile qb))) ∧
      (x.cleared = false →
        Refuses (.mma t c a b n m e y) s .m 0x06 (StreamFails x a fmtA (qa.kind ≠ 2) shapeA true) ∧
        (fitsA → Refuses (.mma t c a b n m e y) s .m 0x06 (StreamFails x b fmtB (qb.kind ≤ 1) shapeB true)) ∧
        (fitsA → fitsB → Refuses (.mma t c a b n m e y) s .m 0x84 (absent qa)) ∧
        (denseReady → Refuses (.mma t c a b n m e y) s .m 0x84 (PastSpad x qa i 0 32 0 K) ∧
          Refuses (.mma t c a b n m e y) s .m 0x84 (PastAccs x qa i K)) ∧
        (dense → Refuses (.mma t c a b n m e y) s .m 0x84 (lacks c fp64))) ∧
      sparse 4 (.mmasN4 t c a b n m e y) ∧ sparse 8 (.mmasN8 t c a b n m e y) ∧
      (c.toNat + k.toNat < x.store.accs → Runs (.mzero t c k) s (enters (.mzero t c k) 0 0 [] (k.toNat + 1) [])) ∧
      (x.cleared = false → Refuses (.mzero t c k) s .m 0x84 (fun v =>
        v = max c.toNat x.store.accs ∧ x.store.accs ≤ c.toNat + k.toNat)) ∧
      (StreamFits x a ldFmt (qa.kind ≠ 2) ldShape true →
        TileReady x qa → InSpad x qa i 0 32 0 32 true → InAccs x qa i 32 → present c fp64 →
        Runs (.mload t c a) s (enters (.mload t c a) a a [] (occ fp64) (tile qa))) ∧
      one (.mload t c a) ldFmt (qa.kind ≠ 2) ldShape true 32 32 ∧
      (StreamFits x a outFmt (qa.kind ≤ 1) outShape false → TileReady x qa → InSpad x qa i 0 32 0 32 true → present c wide →
        Runs (.mout t c a y ty) s (enters (.mout t c a y ty) a a [] (occ wide) (tile qa))) ∧
      one (.mout t c a y ty) outFmt (qa.kind ≤ 1) outShape false 32 32 ∧
      (present c (y = 1) → present z (y = 1) →
        Runs (.mcopy t c z y) s (enters (.mcopy t c z y) 0 0 [] (occ (y = 1)) [])) ∧
      (present c wide → present z wide →
        Runs (.madd t c z n u ty) s (enters (.madd t c z n u ty) 0 0 [] (occ wide) [])) ∧
      (x.cleared = false → Refuses (.mcopy t c z y) s .m 0x84 (lacks c (y = 1)) ∧
        Refuses (.madd t c z n u ty) s .m 0x84 (lacks c wide) ∧
        (present c (y = 1) → Refuses (.mcopy t c z y) s .m 0x84 (lacks z (y = 1))) ∧
        (present c wide → Refuses (.madd t c z n u ty) s .m 0x84 (lacks z wide))) ∧
      (vFits → TileReady x qa → InSpad x qa i 0 vRows 0 vCols false → present c wide →
        Runs (.mbias t c a n l u ty) s (enters (.mbias t c a n l u ty) a a [] (occ wide) (tile qa)) ∧
        Runs (.mscale t c a n l ty) s (enters (.mscale t c a n l ty) a a [] (occ wide) (tile qa))) ∧
      one (.mbias t c a n l u ty) vFmt (qa.kind ≤ 1) vShape true vRows vCols ∧
      one (.mscale t c a n l ty) vFmt (qa.kind ≤ 1) vShape true vRows vCols ∧
      Runs (.msig t w) s (enters (.msig t w) 0 0 [] 1 [])) ∧
    (let stays := fun (p : State) => IssueFrame s p ∧ p.core.store = x.store ∧ p.core.mat.queue = x.mat.queue ∧ Passes s p .m
     (CanIssue x .m t w → x.mat.queue.length < 8 → Runs (.mwait t w) s (fun p => stays p ∧
       Pushes s p (tokenPushes 0 .m (sigMask t)) ∧ TakesTokens s p .m t w)) ∧
     (CanIssue x .m t 0 → x.mat.queue.length < 8 → Runs (.mnop t) s (fun p => stays p ∧ TakesTokens s p .m t 0 ∧
       (if x.mat.queue = [] then Pushes s p (tokenPushes 0 .m (sigMask t))
        else Pushes s p [] ∧ p.core.mat.sigs = x.mat.sigs ++ [(x.mat.queue.length, sigMask t)]))))

/-- R68, R69, R97, R98, R107, R112 to R119: the word at the head of the queue completes in one cycle: its accumulator
elements, of 32 bits or 64 as a pair, its flags, and its token, with those of the MNOP words that waited for it alone.
Every other accumulator, and every register, stays. A product sums, for element (i, j), the terms of row i of A and
column j of B, an invalid element giving +0, and rounds once; for MMAS, stored column k of row i takes the row of B that
its nibble names. That the operands are read in the cycle in which the word completes is the model's choice (log 9). -/
def Obligations.MatrixResults : Prop :=
  ∀ (s : State) (w : MWord) (ws : List MWord), s.core.mat.queue = w :: ws →
    let c := s.core
    let F := fun (pair : Bool) => if pair then Fmt.f64 else Fmt.f32
    let cell := fun (x : Core) (acc : Nat) (pair : Bool) (i j : Nat) => if pair then x.pairBits acc i j else x.accBits acc i j
    let tokens := fun (t : BitVec 3) => tokenPushes 0 .m (sigMask t) ++
      ((c.mat.sigs.filter (fun x => x.1 ≤ 1)).map (fun x => tokenPushes 0 .m x.2)).flatten
    let keeps := fun (ts : List Push) (u : State) => u.core.mat.queue = ws ∧ u.core.queues.pushes = c.queues.pushes ++ ts ∧
      (∀ r, u.core.reg r = c.reg r) ∧ u.core.vec = c.vec ∧ u.core.xfer = c.xfer ∧ u.core.active = c.active ∧
      u.core.store.handles = c.store.handles ∧ u.dev = s.dev ∧ u.others = s.others ∧ (∀ e, u.core.eng e = c.eng e)
    let writes := fun (t : BitVec 3) (acc : BitVec 7) (pair : Bool) (more : Flags) (el : Nat → Nat → Nat × Flags) (u : State) =>
      keeps (tokens t) u ∧ u.core.store.spad = c.store.spad ∧ u.core.store.tiles = c.store.tiles ∧
      (∀ i < 32, ∀ j < 32, cell u.core acc.toNat pair i j = (el i j).1 % (if pair then 2 ^ 64 else 2 ^ 32)) ∧
      (∀ k, k ≠ acc.toNat → ¬(pair = true ∧ k = acc.toNat + 1) → u.core.accum k = c.accum k) ∧
      u.core.scalar.fpflags = c.scalar.fpflags ||| allFlags 1024 (fun n => (el (n / 32) (n % 32)).2) ||| more
    let even := fun (acc : BitVec 7) (pair : Bool) => pair = true → acc.toNat % 2 = 0
    let qa := w.qa
    let fp64 : Bool := decide (qa.fmt = 3)
    let K := kOf qa.fmt
    let done := fun (P : State → Prop) => Runs .mWordComplete s P
    let product := fun (t : BitVec 3) (acc : BitVec 7) (n m e y : BitVec 1) (row : Nat → Nat → Nat) =>
      let term := fun (i j k : Nat) => productTerm (qa.valid i k && w.qb.valid (row i k) j) (decide (n = 1)) (decide (m = 1))
        (((c.rowValues qa w.idx i K).1[k]?).getD .nan) (((c.rowValues w.qb w.idx (row i k) 32).1[j]?).getD .nan)
      writes t acc fp64 (allFlags 32 (fun i => (c.rowValues qa w.idx i K).2)) (fun i j =>
        let terms := (List.range K).map (term i j)
        let old := if e = 1 then none else some (cell c acc.toNat fp64 i j)
        if fmtIsInt qa.fmt then intSum (decide (y = 1)) old terms else floatSum (F fp64) old terms)
    let nibble := fun (i k : Nat) => ((w.meta?[i * K + k]?).getD 0).toNat
    (∀ t acc a b n m e y, w.instr = .mma t acc a b n m e y → even acc fp64 →
      done (product t acc n m e y (fun _ k => k))) ∧
    (∀ t acc a b n m e y, w.instr = .mmasN4 t acc a b n m e y → fp64 = false →
      (∀ i k, i < 32 → k < K → 12 * (k / 4) + nibble i k < K * 12 / 4) →
      done (product t acc n m e y (fun i k => 12 * (k / 4) + nibble i k))) ∧
    (∀ t acc a b n m e y, w.instr = .mmasN8 t acc a b n m e y → fp64 = false →
      (∀ i k, i < 32 → k < K → 12 * (k / 8) + nibble i k < K * 12 / 8) →
      done (product t acc n m e y (fun i k => 12 * (k / 8) + nibble i k))) ∧
    (∀ t acc k, w.instr = .mzero t acc k → done (fun u => keeps (tokens t) u ∧
      ∀ j, u.core.accum j = if acc.toNat ≤ j ∧ j ≤ acc.toNat + k.toNat then 0 else c.accum j)) ∧
    (∀ t acc a, w.instr = .mload t acc a → even acc fp64 →
      done (writes t acc fp64 0 (fun i j =>
        let bits := c.elemBits c.store.spad qa w.idx i j
        let down := c.downElem qa w.idx i j
        let block := if i < qa.vrows ∧ 0 < qa.vcols then c.downBlock qa w.idx i 0 else ([], 0, 0)
        let scaled := fmtScaled qa.fmt = true
        if qa.fmt = 0 ∨ qa.fmt = 3 ∨ qa.fmt = 4 then (if qa.kind = 3 then down else (bits, 0))
        else
          let code := if qa.kind = 3 then (if scaled then ((block.1)[j]?).getD 0 else down.1) else bits
          let rec' := if ¬scaled then 0 else if qa.kind = 3 then block.2.1 else c.recBits c.store.spad qa w.idx i j
          (widenTo32 qa.fmt (if qa.valid i j then elemValue qa.fmt code rec' else .fin false 0 0),
           if qa.kind ≠ 3 then 0 else if scaled then block.2.2 else down.2)))) ∧
    (∀ t d k y, w.instr = .mcopy t d k y → (y = 1 → d.toNat % 2 = 0) → done (fun u => keeps (tokens t) u ∧
      ∀ j, u.core.accum j = if j = d.toNat then c.accum k.toNat
        else if y = 1 ∧ j = d.toNat + 1 then c.accum (k.toNat + 1) else c.accum j)) ∧
    (∀ t d k n u ty, w.instr = .madd t d k n u ty → even d (ty = 2) →
      done (writes t d (ty = 2) 0 (fun i j => addElem ty.toNat (u = 1) (n = 1) (cell c d.toNat (ty = 2) i j)
        (if ty = 1 then .ofInt (signed 32 (c.accBits k.toNat i j)) else (F (ty = 2)).value (cell c k.toNat (ty = 2) i j))))) ∧
    (∀ t d a n l u ty, w.instr = .mbias t d a n l u ty → even d (ty = 2) →
      done (writes t d (ty = 2) 0 (fun i j => addElem ty.toNat (u = 1) false (cell c d.toNat (ty = 2) i j)
        (c.vecElem w (l = 1) (n = 1) (if l = 1 then i else j))))) ∧
    (∀ t d a n l ty, w.instr = .mscale t d a n l ty → even d (ty = 2) →
      done (writes t d (ty = 2) 0 (fun i j =>
        let v := FVal.mul ((F (ty = 2)).value (cell c d.toNat (ty = 2) i j)) (c.vecElem w (l = 1) (n = 1) (if l = 1 then i else j))
        (((F (ty = 2)).round .rne v.1).1, ((F (ty = 2)).round .rne v.1).2 ||| Flags.when v.2 .invalid)))) ∧
    (∀ t k, w.instr = .msig t k → done (fun u => u.core.mat.accs = c.mat.accs ∧
      u.core.scalar.fpflags = c.scalar.fpflags ∧ keeps (tokenPushes 0 .m k ++ tokens t) u))

/-- R52, R57, R98, R115, R116: MOUT converts each element of its accumulator, or of its pair, and writes the valid ones,
with their flags: to a block-scaled format block by block, with the scale record of each block that has a valid element.
No other byte of the scratchpad changes, and of a byte that holds one valid nibble the other nibble stays. Then its token
is pushed, with those of the MNOP words that waited for it alone. Here with elements and records that do not overlap. -/
def Obligations.MatrixOutput : Prop :=
  ∀ (s : State) (w : MWord) (ws : List MWord) (t : BitVec 3) (acc : BitVec 7) (a : BitVec 4) (y : BitVec 1) (ty : BitVec 2),
    MemoryOk s → s.core.mat.queue = w :: ws → w.instr = .mout t acc a y ty →
    let c := s.core
    let q := w.qa
    let F := fun (i j : Nat) => c.spadBase q + q.elemOff w.idx i j
    let R := fun (i j : Nat) => c.spadBase q + q.recOff w.idx i j
    let size := q.elemSize
    let cells := fun (i j : Nat) => i < 32 ∧ j < 32 ∧ q.valid i j = true
    let scaled := fmtScaled q.fmt = true
    let block := fun (i j : Nat) => if q.sdir then j else i
    let enc := fun (b : Nat) => encodeBlock q.fmt ((List.range 32).map (fun n =>
      let p := if q.sdir then (n, b) else (b, n)
      if q.valid p.1 p.2 then Fmt.f32.value (c.accBits acc.toNat p.1 p.2) else .fin false 0 0))
    let code := fun (i j : Nat) =>
      if scaled then (((enc (block i j)).1)[if q.sdir then i else j]?).getD 0
      else (c.outElem acc.toNat ty.toNat q.fmt (decide (y = 1)) i j).1
    (∀ i j k l, cells i j → cells k l → (i, j) ≠ (k, l) →
      F i j + size ≤ F k l ∨ F k l + size ≤ F i j ∨ (q.width = 4 ∧ F i j = F k l ∧ q.upper j ≠ q.upper l)) →
    (scaled → ∀ i j k l, cells i j → cells k l → (F i j + size ≤ R k l ∨ R k l + 2 ≤ F i j) ∧
      (block i j = block k l ∨ R i j + 2 ≤ R k l ∨ R k l + 2 ≤ R i j)) →
    Runs .mWordComplete s (fun u =>
      let after := u.core.store.spad
      (∀ i j, cells i j → u.core.elemBits after q w.idx i j = code i j % 2 ^ q.width) ∧
      (scaled → ∀ i j, cells i j → after.load (R i j) 2 = (enc (block i j)).2.1 % 2 ^ 16) ∧
      (∀ x, (∀ i j, cells i j → (x < F i j ∨ F i j + size ≤ x) ∧ (scaled → x < R i j ∨ R i j + 2 ≤ x)) →
        after.get x = c.store.spad.get x) ∧
      (q.width = 4 → ∀ i j, cells i j → (∀ k l, cells k l → F k l = F i j → (k, l) = (i, j)) →
        let other := if q.upper j then 1 else 16
        after.load (F i j) 1 / other % 16 = c.store.spad.load (F i j) 1 / other % 16) ∧
      u.core.scalar.fpflags = c.scalar.fpflags ||| allFlags 1024 (fun n =>
        if ¬q.valid (n / 32) (n % 32) then 0
        else if scaled then (enc (block (n / 32) (n % 32))).2.2
        else (c.outElem acc.toNat ty.toNat q.fmt (decide (y = 1)) (n / 32) (n % 32)).2) ∧
      u.core.queues.pushes = c.queues.pushes ++ tokenPushes 0 .m (sigMask t) ++
        ((c.mat.sigs.filter (fun x => x.1 ≤ 1)).map (fun x => tokenPushes 0 .m x.2)).flatten ∧
      u.core.mat.accs = c.mat.accs ∧ u.core.mat.queue = ws ∧ (q.kind = 1 → (u.core.tile q.tile).dirty = true) ∧
      (∀ r, u.core.reg r = c.reg r) ∧ u.core.vec = c.vec ∧ u.core.xfer = c.xfer ∧ u.dev = s.dev ∧ u.others = s.others)

/-! ### Transfer words (spec/11 R222 to R228) -/

/-- R79, R80, R92, R208, R218, R222 to R227, R234: a command whose streams pass their checks enters the journal behind those
there, with its streams and indices, and changes nothing yet; a fill or drain claims its tile. XWAIT takes its tokens; XSIG
and XNOP push theirs once the journal they find has emptied. A stream that fails R79 raises MATFMT, in the order of the
fields; then come what R234 forbids of a bound plane region, an absent tile, an element past its limit, and the faults of
a handle. The model's choices: that the source of XSET is checked by R80 (log 93), the order of R234's checks among the others
(log 106), that each access of a stream is checked at issue as log 46 says, and the checks of a fill and a drain (log 47). -/
def Obligations.TransferWords : Prop :=
  ∀ (s : State) (t w : BitVec 3) (a b ix : BitVec 4) (k : BitVec 6) (q r l : BitVec 1) (sc : BitVec 2) (g o : BitVec 3),
    let c := s.core
    let qs := c.stream a
    let qd := c.stream b
    let qi := c.stream ix
    let i := c.idx
    let enters := fun (ins : Instr) (z : BitVec 4) (u : State) => u.core.store = c.store ∧ ∃ e, Journals s t e u ∧
      e.word = (encode ins).getD 0 ∧ e.next = 0 ∧ e.idx = i ∧ e.qs = qs ∧ e.qd = qd ∧ e.qi = c.stream z ∧ e.flags = 0
    let fitA := fun (f : Prop) => StreamFits c a f (qs.kind ≠ 3) True true
    let failA := fun (f : Prop) => StreamFails c a f (qs.kind ≠ 3) True true
    let same := qd.rows = qs.rows ∧ qd.cols = qs.cols
    let fitB := fun (kind shape : Prop) (reads : Bool) => StreamFits c b (qd.fmt = qs.fmt) kind shape reads
    let failB := fun (kind shape : Prop) (reads : Bool) => StreamFails c b (qd.fmt = qs.fmt) kind shape reads
    let fitI := fun (x : Stream) => StreamFits c ix (qi.fmt = 4) (qi.kind ≤ 1) (qi.rows = x.rows ∧ qi.cols = x.cols) true
    let failI := fun (x : Stream) => StreamFails c ix (qi.fmt = 4) (qi.kind ≤ 1) (qi.rows = x.rows ∧ qi.cols = x.cols) true
    let reads := fun (rows cols : Nat) => InSpad c qs i 0 rows 0 cols false ∧ InHandle c qs i rows cols false
    let writes := InSpad c qd i 0 qd.rows 0 qd.cols false ∧ InHandle c qd i qd.rows qd.cols true
    let names := fun (x shape : Stream) (part : Nat → Nat → Prop) (p : Nat × Nat) => ∃ r k, r < shape.rows ∧ k < shape.cols ∧
      part r k ∧ (let n := c.elemBits c.store.spad qi i r k
        n / x.cols < x.rows ∧ x.valid (n / x.cols) (n % x.cols) = true ∧ p = (n / x.cols, n % x.cols))
    let named := fun (x shape : Stream) (part : Nat → Nat → Prop) (write : Bool) => ∀ p, names x shape part p →
      (x.kind = 2 → (c.handle x.handle).state = .valid ∧ (write = true → (c.handle x.handle).fn ≠ 0)) ∧
      x.elemOff i p.1 p.2 + x.elemSize ≤ (if x.kind = 2 then (c.handle x.handle).len.toNat else c.spadLimit x)
    let bound := fun (rows cols : Nat) (p : Plane) => qd.kind = 2 ∧ ∃ r, r < rows ∧ r < qd.vrows ∧
      p ∈ s.boundOver qd.handle (qd.elemOff i r 0) ((min cols qd.vcols * qd.width + 7) / 8)
    let boundNamed := fun (p : Plane) => qd.kind = 2 ∧ ∃ n, names qd qs (fun r k => qs.valid r k = true) n ∧
      p ∈ s.boundOver qd.handle (qd.elemOff i n.1 n.2) ((qd.width + 7) / 8)
    let mine := fun (on : Plane → Prop) => ∀ p, on p → 32 ≤ qd.width ∧ s.dev.isMember p c.id = true
    let all := bound qd.rows qd.cols
    let plane := fun (j : Instr) (on : Plane → Prop) =>
      Refuses j s .x 0x06 (fun v => (∃ p, on p) ∧ qd.width < 32 ∧ v = b.toNat + 256) ∧
      Refuses j s .x 0x81 (fun v => 32 ≤ qd.width ∧ (∃ p, on p ∧ s.dev.isMember p c.id = false) ∧ v = qd.handle.toNat)
    let touched := fun (rows cols : Nat) => qs.kind = 2 ∧ 0 < min rows qs.vrows ∧ 0 < min cols qs.vcols
    let sourceTraps := fun (j : Instr) (rows cols : Nat) =>
      Refuses j s .x 0x84 (fun v => TileAbsent c qs ∧ v = qs.tile.toNat) ∧
      (TileReady c qs → TileReady c qd → Refuses j s .x 0x84 (PastSpad c qs i 0 rows 0 cols) ∧
       Refuses j s .x 0x82 (fun v => touched rows cols ∧ (c.handle qs.handle).state = .invalid ∧ v = qs.handle.toNat) ∧
       Refuses j s .x 0x0A (fun v => touched rows cols ∧ (c.handle qs.handle).state = .revoked ∧ v = qs.handle.toNat) ∧
       Refuses j s .x 0x80 (fun v => qs.kind = 2 ∧ (c.handle qs.handle).state = .valid ∧ v = qs.handle.toNat ∧
         ∃ r k, r < rows ∧ r < qs.vrows ∧ k < cols ∧ k < qs.vcols ∧
           (c.handle qs.handle).len.toNat < qs.elemOff i r k + qs.elemSize))
    let noRight := fun (j : Instr) (rows cols : Nat) => Refuses j s .x 0x81 (fun v => qd.kind = 2 ∧
      0 < min rows qd.vrows ∧ 0 < min cols qd.vcols ∧ InHandle c qd i rows cols false ∧
      (c.handle qd.handle).fn = 0 ∧ v = qd.handle.toNat)
    let claims := fun (ins : Instr) (st : TState) (u : State) => (∃ e, Journals s t e u ∧ e.word = (encode ins).getD 0 ∧
      e.next = 0 ∧ e.flags = 0) ∧ (∀ j, u.core.tile j = if j = k then { c.tile k with state := st } else c.tile j) ∧
      u.core.store.spad = c.store.spad
    let h := (c.tile k).handle
    let lo := (c.tile k).block.toNat * (c.tile k).len
    let tile := (c.tile k).used = true ∧ (c.tile k).state = .ready ∧ c.tileInUse k = false
    let block := fun (p : Plane) => p ∈ s.boundOver h lo (min (c.tile k).len ((c.handle h).len.toNat - lo))
    let stays := fun (u : State) => IssueFrame s u ∧ u.core.store = c.store ∧ u.core.xfer.journal = c.xfer.journal ∧ Passes s u .x
    let after := fun (m : BitVec 3) (u : State) => stays u ∧ TakesTokens s u .x t 0 ∧
      (if c.xfer.journal = [] then Pushes s u (tokenPushes 0 .x m ++ tokenPushes 0 .x (sigMask t))
       else Pushes s u [] ∧ u.core.xfer.sigs = c.xfer.sigs ++ [(c.xfer.journal.length, m, t)])
    let mov := Instr.xmov t a b q r sc l g
    let set := Instr.xset t a b q r sc l g
    let gath := Instr.xgath t a b q r sc l g ix
    let scat := Instr.xscat t a b q r sc l g ix
    let red := Instr.xred t a b q r sc l g o
    let fill := Instr.xfill t k q r sc l g
    let drain := Instr.xdrain t k q r sc l g
    let op := xredOk o.toNat qs.fmt = true
    (XReady c t →
      (fitA True → fitB (qd.kind ≠ 3) same false → mine all → TileReady c qs → TileReady c qd →
        reads qs.rows qs.cols → writes → Runs mov s (enters mov 0)) ∧
      (fitA True → fitB (qd.kind ≠ 3) True false → mine all → TileReady c qs → TileReady c qd →
        reads 1 1 → writes → Runs set s (enters set 0)) ∧
      (fitA True → fitB (qd.kind ≠ 3) same false → fitI qd → mine all → TileReady c qs → TileReady c qd → TileReady c qi →
        InSpad c qi i 0 qi.rows 0 qi.cols false → named qs qd (fun _ _ => True) false → writes → Runs gath s (enters gath ix)) ∧
      (fitA True → fitB (qd.kind ≠ 3) same false → fitI qs → mine boundNamed → TileReady c qs → TileReady c qd → TileReady c qi →
        reads qs.rows qs.cols → InSpad c qi i 0 qi.rows 0 qi.cols false → named qd qs (fun r k => qs.valid r k = true) true →
        Runs scat s (enters scat ix)) ∧
      (fitA op → fitB (qd.kind = 2) same true → (∀ p, ¬bound qs.vrows qs.vcols p) → TileReady c qs →
        reads qs.rows qs.cols → InHandle c qd i qs.vrows qs.vcols true → Runs red s (enters red 0)) ∧
      (tile → (c.handle h).state = .valid → Runs fill s (claims fill .filling)) ∧
      (tile → (c.handle h).state = .valid → (c.handle h).fn ≠ 0 → (∀ p, block p → s.dev.isMember p c.id = true) →
        Runs drain s (claims drain .draining)) ∧
      Runs (.xsync t q r sc) s (fun u => u.core.store = c.store ∧ ∃ e, Journals s t e u ∧
        e.word = (encode (.xsync t q r sc)).getD 0 ∧ e.next = 0 ∧ e.flags = 0)) ∧
    (XReady c t → c.cleared = false →
      Refuses mov s .x 0x06 (failA True) ∧ Refuses set s .x 0x06 (failA True) ∧ Refuses gath s .x 0x06 (failA True) ∧
      Refuses scat s .x 0x06 (failA True) ∧ Refuses red s .x 0x06 (failA op) ∧
      (fitA True → Refuses mov s .x 0x06 (failB (qd.kind ≠ 3) same false) ∧
        Refuses set s .x 0x06 (failB (qd.kind ≠ 3) True false) ∧ Refuses gath s .x 0x06 (failB (qd.kind ≠ 3) same false) ∧
        Refuses scat s .x 0x06 (failB (qd.kind ≠ 3) same false)) ∧
      (fitA op → Refuses red s .x 0x06 (failB (qd.kind = 2) same true)) ∧
      (fitA True → fitB (qd.kind ≠ 3) same false → Refuses gath s .x 0x06 (failI qd) ∧ Refuses scat s .x 0x06 (failI qs)) ∧
      (fitA True → fitB (qd.kind ≠ 3) same false → plane mov all ∧
        (mine all → sourceTraps mov qs.rows qs.cols) ∧
        (mine all → TileReady c qs → reads qs.rows qs.cols → noRight mov qd.rows qd.cols) ∧
        (fitI qd → plane gath all) ∧ (fitI qs → plane scat boundNamed ∧
          (mine boundNamed → TileReady c qi → sourceTraps scat qs.rows qs.cols))) ∧
      (fitA True → fitB (qd.kind ≠ 3) True false → plane set all ∧ (mine all → sourceTraps set 1 1) ∧
        (mine all → TileReady c qs → reads 1 1 → noRight set qd.rows qd.cols)) ∧
      (fitA op → fitB (qd.kind = 2) same true →
        Refuses red s .x 0x81 (fun v => (∃ p, bound qs.vrows qs.vcols p) ∧ v = qd.handle.toNat) ∧
        ((∀ p, ¬bound qs.vrows qs.vcols p) → sourceTraps red qs.rows qs.cols ∧
          (TileReady c qs → reads qs.rows qs.cols → noRight red qs.vrows qs.vcols))) ∧
      (∀ j, j = fill ∨ j = drain →
        Refuses j s .x 0x84 (fun v => ((c.tile k).used = false ∨ (c.tile k).state = .empty) ∧ v = k.toNat) ∧
        (tile → Refuses j s .x 0x82 (fun v => (c.handle h).state = .invalid ∧ v = h.toNat) ∧
          Refuses j s .x 0x0A (fun v => (c.handle h).state = .revoked ∧ v = h.toNat))) ∧
      (tile → (c.handle h).state = .valid → Refuses drain s .x 0x81 (fun v =>
        ((c.handle h).fn = 0 ∨ ∃ p, block p ∧ s.dev.isMember p c.id = false) ∧ v = h.toNat))) ∧
    ((c.nest = none ∨ c.journalLoad < 32) →
     (CanIssue c .x t w → Runs (.xwait t w) s (fun u => stays u ∧ TakesTokens s u .x t w ∧
       Pushes s u (tokenPushes 0 .x (sigMask t)))) ∧
     (CanIssue c .x t 0 → Runs (.xsig t w) s (after w) ∧ Runs (.xnop t) s (after 0)))

/-- R187, R191, R224, R225, R226, R228, R240: the command at the head of the journal moves one chunk. XFILL copies 4 KiB of
its block into its tile, zeros beyond the handle, unless a line is poisoned; XDRAIN, of the text or queued behind a PROBE,
copies them out, up to the handle's end; XMOV, XGATH, XSCAT and XSET write the valid elements of their chunk, and XRED
updates those valid in both streams, every source element being read first. With a barrier tag the bytes that no earlier
chunk of the command wrote are taken from the core's pending-byte counter. A handle that is not VALID, or a bound plane
region that is not the core's, stops the command before its chunk. That a chunk is moved in one step (log 11), that a bound plane
region stops it (log 97), and how the limits of a queued entry are checked (log 46) are the model's choices. Here where the handle bytes of each stream, and those of
a fill or drain, lie in one page of the device's own memory, and the elements written do not overlap. -/
def Obligations.TransferChunks : Prop :=
  ∀ (s : State) (e : JEntry) (es : List JEntry), MemoryOk s → s.core.xfer.journal = e :: es → s.core.xfer.sent = none →
    let c := s.core
    let op := wordOp e.word
    let lands := fun (n : Nat) (g : BitVec 3) (ms : List Member) => ms.map (fun m =>
      if fld e.word 8 1 = 1 ∧ g = fld e.word 5 3 ∧ m.core = c.id then
        { m with count := max (m.count - n) (-(2 ^ 36 - 1)) } else m)
    let moved := fun (n : Nat) (fl : Flags) (u : State) => (∃ f, u.core.xfer.journal = f :: es ∧ f.next = e.next + 1 ∧
      f.word = e.word ∧ f.idx = e.idx ∧ f.qs = e.qs ∧ f.qd = e.qd ∧ f.qi = e.qi ∧ f.flags = e.flags ||| fl ∧
      f.begun = true) ∧
      u.core.xfer.sigs = c.xfer.sigs ∧ (∀ r, u.core.reg r = c.reg r) ∧ u.core.vec = c.vec ∧
      u.core.mat = c.mat ∧ u.core.queues = c.queues ∧ u.core.fails = c.fails ∧ u.others = s.others ∧
      u.core.store.handles = c.store.handles ∧ u.dev.pages = s.dev.pages ∧ u.dev.planes = s.dev.planes ∧
      u.dev.ccbs = s.dev.ccbs ∧ u.dev.segtab = s.dev.segtab ∧ u.dev.cycle = s.dev.cycle ∧
      ∀ g : BitVec 3, u.dev.tags[g.toNat]'g.isLt =
        { s.dev.tags[g.toNat]'g.isLt with members := lands n g (s.dev.tags[g.toNat]'g.isLt).members }
    let stops := fun (cause : BitVec 8) (v : Word) (u : State) => u.core.fails = c.fails ++ [⟨.x, cause, v, c.engX.pc⟩] ∧
      u.core.xfer = c.xfer ∧ u.core.store = c.store ∧ u.core.scalar = c.scalar ∧ u.core.vec = c.vec ∧ u.core.mat = c.mat ∧
      (∀ a, u.dev.byteAt a = s.dev.byteAt a) ∧ u.dev.tags = s.dev.tags
    let x := c.tile e.tile
    let queued := op = 7 ∧ fld e.word 0 1 = 1
    let h := if queued then e.old.extractLsb' 0 4 else x.handle
    let o := (if queued then (e.old.extractLsb' 4 60).toNat else x.block.toNat) * x.len + 4096 * e.next
    let n := min 4096 ((c.handle h).len.toNat - o)
    let va := (c.handle h).va.toNat
    let at' := x.base + 4096 * e.next
    let own := c.usesKind e .peer = false ∧ c.usesKind e .plane = false ∧ c.xfer.lines = [] ∧ s.xOpen = false
    let onePage := fun (p : Page) => (c.handle h).state = .valid ∧ (∀ j < n, c.handlePage h (o + j) = some p) ∧
      p.kind ≠ .peer ∧ p.kind ≠ .plane ∧ ∀ l ∈ linesOf (va + o) n, c.pageOf h (64 * l) = some p
    let touches := fun (q : Stream) (rows cols : Nat) => q.kind = 2 ∧ ∃ r k, r < rows ∧ k < cols ∧ q.valid r k = true
    let names := fun (q : Stream) (take : Nat → Nat → Bool) => q.kind = 2 ∧ ∃ z : Nat × Nat, z.1 < e.qi.rows ∧ z.2 < e.qi.cols ∧
      take z.1 z.2 = true ∧ ∃ d, c.indexed e.qi e.idx q z = some d
    (1 ≤ op → op ≤ 5 → ∀ hd, hd ∈ c.usedHandles e ↔
      (hd = e.qs.handle ∧ (if op = 2 then names e.qs (fun _ _ => true) else if op = 4 then touches e.qs 1 1
        else touches e.qs e.qs.rows e.qs.cols)) ∨
      (hd = e.qd.handle ∧ (if op = 3 then names e.qd e.qs.valid else if op = 5 then touches e.qd e.qs.vrows e.qs.vcols
        else touches e.qd e.qd.rows e.qd.cols))) ∧
    (∀ hd, (op = 6 ∨ op = 7) → (hd ∈ c.usedHandles e ↔ hd = h)) ∧
    (∀ hd rest cause, c.usedHandles e = hd :: rest → (c.handle hd).state ≠ .valid →
      cause = (if (c.handle hd).state = .invalid then 0x82 else 0x0A) → Runs .xChunk s (stops cause (hd.setWidth 64))) ∧
    ((∀ hd ∈ c.usedHandles e, (c.handle hd).state = .valid) → c.usesKind e .plane = true →
      (∃ y ∈ c.chunkSpans e, ∃ p ∈ s.boundOver y.1 y.2.1 y.2.2,
        s.dev.isMember p c.id = false ∨ op = 5 ∨ (op ≠ 7 ∧ e.qd.width < 32)) →
      Runs .xChunk s (fun u => ∃ y ∈ c.chunkSpans e, stops 0x81 (y.1.setWidth 64) u)) ∧
    (own →
      (∀ p, op = 6 → onePage p →
        ((s.dev.readPage p (va + o) n).2 = none → Runs .xChunk s (fun u => moved 4096 0 u ∧
          (∀ a, u.dev.byteAt a = s.dev.byteAt a) ∧ u.core.store.tiles = c.store.tiles ∧
          ∀ a, u.core.store.spad.get a = if at' ≤ a ∧ a < at' + n then s.dev.byteAt (p.addr (va + o) + (a - at'))
            else if at' ≤ a ∧ a < at' + 4096 then 0 else c.store.spad.get a)) ∧
        (∀ a, (s.dev.readPage p (va + o) n).2 = some a → Runs .xChunk s (stops 0x83 a))) ∧
      (∀ p, op = 7 → onePage p → p.addr (va + o) + n ≤ enumPage →
        (∀ j < n, s.dev.reachable p.kind (p.addr (va + o) + j) p.dieLocal = true) →
        Runs .xChunk s (fun u => moved n 0 u ∧ u.core.store = c.store ∧
          Stored s u (p.addr (va + o)) (c.store.spad.bytes at' n))) ∧
      (let qs := e.qs
       let qd := e.qd
       let i := e.idx
       let sh := if op = 3 then qs else qd
       let per := 32768 / sh.width
       let chunk := fun (m : Nat) (z : Nat × Nat) => z.1 < sh.rows ∧ z.2 < sh.cols ∧ per * m ≤ z.1 * sh.cols + z.2 ∧
         z.1 * sh.cols + z.2 < per * (m + 1)
       let target := fun (m : Nat) (z d : Nat × Nat) => chunk m z ∧ qd.valid d.1 d.2 = true ∧
         ((op = 3 ∨ op = 5) → qs.valid z.1 z.2 = true) ∧ (if op = 3 then c.indexed e.qi i qd z = some d else d = z)
       let last := fun (z d : Nat × Nat) => target e.next z d ∧
         ∀ z', target e.next z' d → z'.1 * sh.cols + z'.2 ≤ z.1 * sh.cols + z.2
       let reads := fun (r k : Nat) => qs.valid r k = true ∧
         (if op = 2 then ∃ z, chunk e.next z ∧ c.indexed e.qi i qs z = some (r, k)
          else if op = 4 then e.value = none ∧ r = 0 ∧ k = 0
          else chunk e.next (r, k) ∧ (op = 5 → qd.valid r k = true))
       let writes := fun (r k : Nat) => ∃ z, target e.next z (r, k)
       let fresh := fun (xs : List Nat) => xs.Nodup ∧ ∀ y, y ∈ xs ↔
         (∃ z d, target e.next z d ∧ qd.elemOff i d.1 d.2 ≤ y ∧ y < qd.elemOff i d.1 d.2 + qd.elemSize) ∧
         ∀ m < e.next, ∀ z d, target m z d → y < qd.elemOff i d.1 d.2 ∨ qd.elemOff i d.1 d.2 + qd.elemSize ≤ y
       ∀ ps pd : Page, ∀ ys : List Nat, (1 ≤ op ∧ op ≤ 5) → fresh ys → (∀ hd ∈ c.entryHandles e, (c.handle hd).state = .valid) →
         qs.kind ≠ 3 → qd.kind ≠ 3 → qs.fmt = qd.fmt → (op = 5 → qd.kind = 2) → qd.Apart i →
         InPage s qs i ps reads → CleanIn s qs i ps reads → InPage s qd i pd writes → (op = 5 → CleanIn s qd i pd writes) →
         (op = 4 → ∀ v, e.value = some v → v.2 = none) →
         let value := fun (z : Nat × Nat) =>
           if op = 2 then (match c.indexed e.qi i qs z with
             | some y => s.elemIn qs i ps y.1 y.2
             | none => 0)
           else if op = 4 then (match e.value with
             | some v => v.1.toNat
             | none => s.elemIn qs i ps 0 0)
           else s.elemIn qs i ps z.1 z.2
         let update := fun (d : Nat × Nat) =>
           redElem qd.fmt (fld e.word 0 5).toNat (s.elemIn qd i pd d.1 d.2) (s.elemIn qs i ps d.1 d.2)
         let fl := if op = 5 then allFlags (sh.rows * sh.cols) (fun m =>
             let d := (m / sh.cols, m % sh.cols)
             if per * e.next ≤ m ∧ m < per * (e.next + 1) ∧ qs.valid d.1 d.2 = true ∧ qd.valid d.1 d.2 = true
             then (update d).2 else 0) else 0
         Runs .xChunk s (fun u => moved ys.length fl u ∧
           (∀ z d, last z d → u.elemIn qd i pd d.1 d.2 = (if op = 5 then (update d).1 else value z) % 2 ^ qd.width) ∧
           (∀ r k, ¬writes r k → u.elemIn qd i pd r k = s.elemIn qd i pd r k) ∧
           (qd.kind = 2 → u.core.store = c.store ∧ ∀ a, (∀ r k, writes r k →
             let at' := pd.addr ((c.handle qd.handle).va.toNat + qd.elemOff i r k)
             a < at' ∨ at' + qd.elemSize ≤ a) → u.dev.byteAt a = s.dev.byteAt a) ∧
           (qd.kind ≤ 1 → (∀ a, u.dev.byteAt a = s.dev.byteAt a) ∧
             (qd.kind = 1 → (∃ r k, writes r k) → (u.core.tile qd.tile).dirty = true) ∧
             (∀ j, { u.core.tile j with dirty := false } = { c.tile j with dirty := false } ∧
               (j ≠ qd.tile ∨ qd.kind = 0 ∨ (∀ r k, ¬writes r k) → u.core.tile j = c.tile j)) ∧
             ∀ a, (∀ r k, writes r k →
               let at' := c.spadBase qd + qd.elemOff i r k
               a < at' ∨ at' + qd.elemSize ≤ a) → u.core.store.spad.get a = c.store.spad.get a))))

/-- R208, R222, R225, R227, R334: a command whose chunks are done leaves the journal: its flags are set, its tile is READY
and clean, its token is pushed, and so are those of the XSIG and XNOP words that waited for it alone; the command behind it
comes to the head. Of a release from DEVICE scope on the core owns no line dirty any more (log 94). A release completes once
every write it covers is performed (log 83). -/
def Obligations.TransfersComplete : Prop :=
  ∀ (s : State) (e : JEntry) (es : List JEntry), s.core.xfer.journal = e :: es → s.core.scalar.handler = false →
    (fld e.word 11 1 = 1 → s.lostGate (fld e.word 9 2) = .go) →
    let c := s.core
    let op := wordOp e.word
    let waiting := (c.xfer.sigs.filter (fun x => x.1 ≤ 1)).map (fun x =>
      tokenPushes 0 .x x.2.1 ++ tokenPushes 0 .x (sigMask x.2.2))
    let queued := (op = 6 ∨ op = 7) ∧ fld e.word 0 1 = 1
    Runs .xCommandComplete s (fun u =>
      u.core.xfer.journal.map (fun f => (f.word, f.next, f.idx, f.qs, f.qd)) = es.map (fun f => (f.word, f.next, f.idx, f.qs, f.qd)) ∧
      u.core.scalar.fpflags = c.scalar.fpflags ||| e.flags ∧
      (¬queued → u.core.queues.pushes = c.queues.pushes ++ tokenPushes 0 .x (sigMask (wordTok e.word)) ++ waiting.flatten) ∧
      (queued → u.core.queues.pushes = c.queues.pushes ++ waiting.flatten) ∧
      (op = 6 → u.core.tile e.tile = { c.tile e.tile with state := .ready, dirty := false }) ∧
      (op = 7 → ¬queued → u.core.tile e.tile = { c.tile e.tile with state := .ready, dirty := false }) ∧
      (op = 7 → queued → u.core.tile e.tile = { c.tile e.tile with state := .filling }) ∧
      (∀ i, (i ≠ e.tile ∨ (op ≠ 6 ∧ op ≠ 7)) → u.core.tile i = c.tile i) ∧ u.core.store.spad = c.store.spad ∧
      u.core.store.handles = c.store.handles ∧ (∀ r, u.core.reg r = c.reg r) ∧ u.core.vec = c.vec ∧ u.core.mat = c.mat ∧
      u.core.fails = c.fails ∧ u.others = s.others ∧
      u.dev = (if fld e.word 11 1 = 1 ∧ 2 ≤ (fld e.word 9 2).toNat
        then { s.dev with owned := s.dev.owned.filter (fun x => x.2 ≠ c.id) } else s.dev))

/-! ### Traps (spec/06, spec/09) -/

/-- R121, R124, R125, R147, R181, R183, R192: of the faults of a cycle a fatal one is taken first, then the one of the
first engine in the order S, V, M, X. With a handler, the core comes to rest, the frame is written, and the handler
starts; without one the cause becomes fatal as it stands. An interrupt enters in the same way, with cause 0x30, 0x31 or
0x33 and TVAL 0, clears its pending bit and ends a PAUSE; while an S word is in flight that the frame cannot hold it waits
as a cause (log 30). A trap is taken while a load, an AtomicOp or a frozen nest waits, but in no walk, restore or barrier
wait; that it waits for TRET to retire is the model's choice (log 90). -/
def Obligations.TrapsEnter : Prop :=
  (∀ (c : Core) (f : Fail), c.cause = some f → f ∈ c.fails ∧
    (∀ g ∈ c.fails, g.cause.getLsbD 7 = true → f.cause.getLsbD 7 = true) ∧
    (∀ g ∈ c.fails, g.cause.getLsbD 7 = f.cause.getLsbD 7 → f.engine.num ≤ g.engine.num)) ∧
  (∀ (s : State) (f : Fail), MemoryOk s → s.core.cause = some f →
    (s.core.handlerAt = 0 → Runs .trapEntry s (fun u =>
      u.core = { s.core with fails := [], fatal := some f } ∧ u.dev = s.dev ∧ u.others = s.others)) ∧
    (s.core.handlerAt ≠ 0 → Runs .trapEntry s (fun u =>
      EntersTrap ({ s with core := { s.core with fails := [] } } : State).rest f u ∧ RestKeeps s u))) ∧
  (∀ (s : State) (k : Nat), MemoryOk s → InterruptDue s.core k → s.core.fails = [] → s.core.scalar.late = [] →
    let z := s.core.scalar
    let c := ({ s.core with scalar := { z with ipend := z.ipend &&& ~~~(BitVec.ofNat 3 (2 ^ k)) } } : Core).endPause
    let code : BitVec 8 := if k = 0 then 0x30 else if k = 1 then 0x31 else 0x33
    let f : Fail := ⟨.s, code, 0, s.core.engS.pc⟩
    (s.core.handlerAt ≠ 0 → s.settled = true → c.handlerAt ≠ 0 → Runs .interruptTake s (fun u =>
      EntersTrap ({ s with core := c } : State).rest f u ∧ RestKeeps s u ∧ u.core.scalar.ipend.getLsbD k = false)) ∧
    (c.handlerAt = 0 → Runs .interruptTake s (fun u =>
      u.core = { c with fatal := some f } ∧ u.dev = s.dev ∧ u.others = s.others)) ∧
    (s.settled = false → c.handlerAt ≠ 0 → Runs .interruptTake s (fun u =>
      u.core = { c with fails := [f] } ∧ u.dev = s.dev ∧ u.others = s.others))) ∧
  (∀ (s : State), s.canStop = true ↔ s.core.walk = none ∧ s.core.restoring = [] ∧ s.haltWait = false ∧
    (∀ g n, s.core.scalar.hold ≠ .barrier g n) ∧ ∀ n, s.core.scalar.hold ≠ .tret (n + 1))

/-- R126, R185, R192: TRET brings back what the frame holds: the four PCs and walk counts, the window and the latch, the
token, condition and path queues, the replay buffer, the journal, the nest, and ends the handler. TRET retires in the cycle
after it issues, and the engines resume in the cycle after that, so that a multiply or divide lands two cycles later than it
counts, as V's results do, which count only from there on (log 90); the condition bits that lead a full queue's replay buffer
are those V holds (log 79). The S words of the handler and the entries X still holds come behind those of the frame (logs 42
and 52). A field out of range is DOUBLETRAP at the TRET, and
outside a handler TRET is ILLEGAL. A fatal error stops the core, and a region that CONTAINs it and has no children ends
with it. -/
def Obligations.TrapsReturn : Prop :=
  (∀ (s : State) (t : BitVec 3), SReady s.core t 0 [] → s.core.scalar.handler = true →
    let rd := s.core.saveArea
    let path := fun (off n : Nat) => (List.range n).map (fun k =>
      (⟨decide (rd (off + 8 * k) 8 % 2 = 1), BitVec.ofNat 64 (rd (off + 8 * k) 8 / 4 * 4)⟩ : PathEntry))
    let keeps := fun (u : State) => (∀ r, u.core.reg r = s.core.reg r) ∧ u.core.vec.regs = s.core.vec.regs ∧
      u.core.vec.masks = s.core.vec.masks ∧ u.core.mat.accs = s.core.mat.accs ∧ u.core.active = s.core.active ∧
      u.core.shadow = s.core.shadow ∧ u.core.store = s.core.store ∧ u.dev = s.dev ∧ u.others = s.others
    (s.core.frameOk rd = true → Runs (.tret t) s (fun u =>
      (∀ e : Engine, (u.core.eng e).pc = BitVec.ofNat 64 (rd (0x10 + 8 * e.num) 8 / 4 * 4) ∧
        (u.core.eng e).walk = rd (0x30 + 8 * e.num) 8) ∧
      u.core.scalar.handler = false ∧ u.core.vec.window = BitVec.ofNat 3 (rd 0x98 8) ∧
      u.core.vec.latch = BitVec.ofNat 64 (rd 0xA0 8) ∧
      (∀ k : Fin 12, u.core.queues.tok[k.val] = rd 0x78 8 / 16 ^ k.val % 16) ∧
      u.core.queues.cond = (List.range (rd 0x88 8 / 2 ^ 16 % 32)).map (fun k => decide (rd 0x88 8 / 2 ^ k % 2 = 1)) ∧
      u.core.queues.pathV = path 0x100 (rd 0x90 8 % 64) ∧ u.core.queues.pathM = path 0x200 (rd 0x90 8 / 2 ^ 8 % 64) ∧
      u.core.queues.pathX = path 0x300 (rd 0x90 8 / 2 ^ 16 % 64) ∧
      (if rd 0x00 8 / 2 ^ 10 % 2 = 1 then ∃ n, u.core.nest = some n ∧ n.rows = rd 0x50 8 % 64 + 1 ∧
          n.ii = rd 0x50 8 / 2 ^ 6 % 64 + 1 ∧ n.cycle = rd 0x58 8
        else u.core.nest = none) ∧
      (let all := (List.range (rd 0xA8 8 % 128)).map (readDesc rd)
       let held := if rd 0x88 8 / 2 ^ 16 % 32 = 16 then all.takeWhile (fun d => d.kind = 3 && d.remain = 0) else []
       let rest := all.drop held.length
       u.core.queues.held = held.map (fun d => (decide (d.data % 2 = 1), BitVec.ofNat 3 d.sig1, BitVec.ofNat 3 d.sig2)) ∧
       u.core.vec.flights = rest.filterMap (·.flight s.core.vec.replay) ∧
       u.core.scalar.flights = rest.filterMap (·.sflight 2) ++ s.core.scalar.flights) ∧
      (∀ k : Fin 12, u.core.queues.pend[k.val] = rd (0xB8 + k.val) 1) ∧ u.core.vec.busy = 0 ∧
      u.core.scalar.late = s.core.scalar.stash ∧ u.core.scalar.hold = .tret 1 ∧
      u.core.xfer.journal.map (fun e => (e.word.toNat, e.next)) =
        (List.range (rd 0xB0 8 % 64)).map (fun k => (rd (0xA00 + 32 * k) 4 % 2 ^ 32, rd (0xA00 + 32 * k + 4) 4)) ++
          s.core.xfer.journal.map (fun e => (e.word.toNat, e.next)) ∧
      u.core.queues.pushes = retires 1 t .none ∧ u.core.fails = s.core.fails ∧ keeps u)) ∧
    (s.core.frameOk rd = false → Runs (.tret t) s (fun u =>
      u.core.fails = s.core.fails ++ [⟨.s, 0x87, 0, s.core.engS.pc⟩] ∧ u.core.scalar.handler = true ∧ keeps u))) ∧
  (∀ (s : State) (t : BitVec 3) (w : W32), s.core.scalar.handler = false → s.core.cleared = false →
    encode (.tret t) = some w → Runs (.tret t) s (fun u =>
      u.core.fails = s.core.fails ++ [⟨.s, 0x01, w.setWidth 64, s.core.wordAddr .s⟩] ∧ u.core.engS = s.core.engS ∧
      u.core.scalar = s.core.scalar ∧ u.core.queues = s.core.queues ∧ u.core.store = s.core.store ∧ u.dev = s.dev)) ∧
  (∀ (s : State) (f : Fail), s.core.fatalFail = some f →
    Runs .fatalError s (fun u => u.core.running = false ∧ u.core.id = s.core.id ∧ u.core.fails = []) ∧
    (∀ r, s.dev.regionOf s.core = some r → r.domain = 0 → r.ending = none → (∀ x ∈ s.dev.regions, x.parent ≠ some r.key) →
      (∀ q ∈ s.dev.peerReqs, q.region = some r.key → q.isWrite = false) → (∀ c ∈ s.dev.ccbs, c.heldArgs = none) →
      Runs .fatalError s (fun u => u.dev.regions.map (·.key) = (s.dev.regions.map (·.key)).filter (fun k => k ≠ r.key) ∧
        (∀ g, (u.dev.tag g).owner ≠ some r.key) ∧
        (∀ c ∈ u.cores, c.running = true → c.job.region ≠ some r.key))))

/-! ### The nest (spec/04 R85 to R95) -/

/-- R15, R30, R86, R88, R92, R93, R95, R126, R212, R309: at the rendezvous NEST starts nest cycle 0 of a body that meets
R30, with the shadow configuration if swap asks for it; a body that fails its check is a fault of the NEST word with
nothing changed. The word of an engine due in nest cycle t is that of row r and iteration k with t = k × II + r, of an
unmasked slot, with the indices of k, and of a body that meets R30 it is the only one. A nest cycle issues where every word
due can, with the V results that are due landed, and is held otherwise, with the faults of the words due recorded; an AMO due
whose AtomicOp must go first sends it, and is held too (which AMO is the one that sent it is the model's choice, log 113). A nest that a frame brought back reads its body and its NEST word's
signal from the text again. The exit moves the four PCs past the body and pushes the word's token. -/
def Obligations.Nests : Prop :=
  (∀ (s : State) (t : BitVec 3) (r i : BitVec 6) (w : BitVec 1),
    let c := s.core
    c.scalar.hold = .none → c.scalar.late = [] → c.faultComing = false → c.walk = none → c.scalar.handler = false →
    c.pushPending .s = false → c.nest = none →
    (∀ e, (c.eng e).pc = c.engS.pc) → c.scalar.flights = [] → c.queues.pushes = [] → c.vec.flights = [] → c.queues.held = [] →
    c.vec.busy = 0 →
    (∀ body, body.length = 4 * (r.toNat + 1) → BodyOk body (i.toNat + 1) →
      (∀ k < body.length, s.fetchWord (c.engS.pc + 4 + BitVec.ofNat 64 (4 * k)) = body[k]?) →
      c.tokensOk .s t 0 = true → Runs (.nest t r i w) s (fun u =>
      (∃ n, u.core.nest = some n ∧ n.rows = r.toNat + 1 ∧ n.ii = i.toNat + 1 ∧ n.cycle = 0 ∧ n.counters = .zero ∧
        n.body = body ∧ n.sig = sigMask t ∧ n.checked = false) ∧
      u.core.active = (if w = 1 then c.shadow else c.active) ∧ u.core.shadow = c.shadow ∧
      (∀ e, (u.core.eng e).pc = (c.eng e).pc ∧ (u.core.eng e).walk = (c.eng e).walk) ∧ TakesTokens s u .s t 0 ∧
      u.core.queues.pushes = [] ∧ (∀ x, u.core.reg x = c.reg x) ∧ KeepsControl c u.core ∧ u.core.vec = c.vec ∧
      u.core.mat.accs = c.mat.accs ∧ u.core.store = c.store ∧ u.core.fails = c.fails ∧ KeepsMemory s u ∧ u.dev = s.dev)) ∧
    (∀ body k cause, s.nestBody r = some body → bodyFault body (i.toNat + 1) = some (k, cause) →
      Runs (.nest t r i w) s (fun u =>
      u.core.fails = c.fails ++ [⟨.s, cause, c.engS.pc + 4 + BitVec.ofNat 64 (4 * k), c.engS.pc⟩] ∧ u.core.nest = none ∧
      u.core.active = c.active ∧ u.core.queues = c.queues ∧ u.core.scalar = c.scalar ∧ u.core.store = c.store ∧
      u.dev = s.dev ∧ ∀ e, u.core.eng e = c.eng e))) ∧
  (∀ (body : List W32) (ii : Nat), bodyFault body ii = none ↔ BodyOk body ii) ∧
  (∀ (c : Core) (n : Nest) (e : Engine),
    (∀ r w i, c.dueWord n e = some (r, w, i) →
      ∃ k, n.cycle = k * n.ii + r ∧ k < c.iterations ∧ r < n.rows ∧ n.body[4 * r + e.num]? = some w ∧ isNop w = false ∧
        i = c.indices k ∧ c.masked r i = false) ∧
    (∀ r w k, BodyOk n.body n.ii → 0 < n.ii → n.cycle = k * n.ii + r →
      k < c.iterations → r < n.rows → n.body[4 * r + e.num]? = some w → isNop w = false →
      c.masked r (c.indices k) = false → c.dueWord n e = some (r, w, c.indices k))) ∧
  (∀ (s : State) (m : Nest), s.core.nest = some m →
    let n := if m.body = [] then { m with
      body := (s.nestBody (BitVec.ofNat 6 (m.rows - 1))).getD [],
      sig := sigMask (((s.fetchWord s.core.engS.pc).map wordTok).getD 0) } else m
    let c := s.core.setNest n
    let v := ({ s with core := c } : State).onCore Core.landed
    let gates := v.dueGates n
    let keeps := fun (u : State) => (∀ x, u.core.reg x = s.core.reg x) ∧ KeepsControl s.core u.core ∧
      KeepsUnits s.core u.core ∧ u.core.queues = s.core.queues ∧ u.core.store.tiles = s.core.store.tiles ∧ KeepsMemory s u ∧
      ∀ e, (u.core.eng e).pc = (s.core.eng e).pc
    (s.core.nestBlocked = true → Runs .nestCycle s (fun u =>
      u.core.nest = some { n with checked := true, held := true } ∧ u.core.fails = s.core.fails ∧ keeps u ∧ u.dev = s.dev)) ∧
    (s.core.nestBlocked = false →
      ((∀ g ∈ gates, g.2.2.2 = .go) →
        (v.nestAtomic gates = none → Runs .nestCycle s (fun u =>
          u.core.nest = some { n with checked := true, held := false } ∧ u.core.fails = s.core.fails ∧
          u.core.scalar.sent = s.core.scalar.sent ∧ keeps u ∧ u.dev = s.dev)) ∧
        (∀ k, v.nestAtomic gates = some k → Runs .nestCycle s (fun u =>
          u.core.nest = some { n with checked := true, held := true } ∧ u.core.fails = s.core.fails ∧ keeps u ∧
          u.core.scalar.sent = some ⟨s.dev.atomicNext, k, s.core.engS.pc, some m.cycle⟩ ∧
          ∃ r : AtomicReq, u.dev = { s.dev with atomics := s.dev.atomics ++ [r], atomicNext := s.dev.atomicNext + 1 } ∧
            r.id = s.dev.atomicNext ∧ r.core = s.core.id ∧ r.answer = none ∧
            ∃ a x y, v.core.amoWord k = some (a, x, y) ∧ r.op = a.op ∧ r.size = a.size ∧ r.x = a.x ∧ r.y = a.y ∧
              r.va = ((v.core.handle a.h).va + BitVec.ofNat 64 a.o).toNat))) ∧
      ((∃ g ∈ gates, g.2.2.2 ≠ .go) → Runs .nestCycle s (fun u =>
        u.core.nest = some { n with checked := true, held := true } ∧
        (∀ g ∈ gates, ∀ cause x, g.2.2.2 = .fail cause x → ⟨g.1, cause, x, c.wordAddr g.1⟩ ∈ u.core.fails) ∧ keeps u ∧
        u.dev = s.dev)))) ∧
  (∀ (s : State) (n : Nest), s.core.nest = some n → Runs .nestExit s (fun u =>
    u.core.nest = none ∧ u.core.idx = .zero ∧
    (∀ e, (u.core.eng e).pc = (s.core.eng e).pc + 4 + BitVec.ofNat 64 (16 * n.rows) ∧
      (u.core.eng e).walk = (s.core.eng e).walk + 1 + 4 * n.rows) ∧
    Pushes s u (retirePush 0 0 n.sig .none) ∧ u.core.scalar = s.core.scalar ∧ u.core.vec = s.core.vec ∧
    u.core.mat = s.core.mat ∧ u.core.xfer = s.core.xfer ∧ u.core.store = s.core.store ∧ u.core.active = s.core.active ∧
    u.core.shadow = s.core.shadow ∧ u.dev = s.dev ∧ u.others = s.others))

/-! ### Events inside a core (spec/02, spec/06, spec/07, spec/11, spec/13) -/

/-- R15, R20, R22, R25, R27, R38, R122, R132, R145, R147, R150, R155, R181, R189, R236, R274: a refused token enters as
soon as its queue has room, and one toward S ends a PAUSE; the S words that could not retire do, and the condition bits V
holds enter; TIMER becomes pending; a PAUSE that ends pushes its token; a HALT that retires leaves its tags and frees the
core, which keeps its slot while its deque holds records; WATCHDOG is recorded with the engine and what it waited for. At
the end of a cycle every latency has one cycle less, and what falls due takes effect, S's first: a token, a condition bit, an
entry of the three path queues, a control register, a journal entry, a fault. In each phase the step runs the event that is
due, and passes on only where none is: no result, token or bit that could land, no fault or interrupt that could be taken,
is passed over. The order of the events within a cycle is the model's (log 1), and so is that of the effects of S words that
a refused token holds up (log 99). -/
def Obligations.CoreEvents : Prop :=
  (∀ (s : State), s.core.scalar.late = [] → Runs .pendingTokenPush s (fun u =>
    let n := fun (k : Fin 12) => min s.core.queues.pend[k.val] (15 - s.core.queues.tok[k.val])
    (∀ k : Fin 12, u.core.queues.tok[k.val] = s.core.queues.tok[k.val] + n k ∧
      u.core.queues.pend[k.val] = s.core.queues.pend[k.val] - n k) ∧
    (∀ m g, s.core.scalar.hold = .pause m g →
      u.core.scalar.hold = .pause (if 0 < n 0 + n 1 + n 2 then 0 else m) g) ∧
    Pushes s u [] ∧ (∀ r, u.core.reg r = s.core.reg r) ∧ KeepsControl s.core u.core ∧ u.core.vec = s.core.vec ∧
    u.core.mat = s.core.mat ∧ u.core.xfer = s.core.xfer ∧ u.core.store = s.core.store ∧ u.dev = s.dev)) ∧
  (∀ (s : State),
    let q := s.core.queues
    let room := 16 - q.cond.length - s.core.condsDue
    let enters := fun (c : Core) (x : Bool × BitVec 3 × BitVec 3) => (c.pushTokens .v x.2.1).pushTokens .v x.2.2
    (∀ b ws, s.core.scalar.late = ⟨0, 0, .cond b⟩ :: ws → q.cond.length < 16 →
      Runs .conditionPushDeferred s (fun u => (∃ more, u.core.queues.cond = q.cond ++ [b] ++ more) ∧
        (∀ r, u.core.reg r = s.core.reg r) ∧ u.core.store = s.core.store ∧ u.dev = s.dev)) ∧
    (s.core.scalar.late = [] → Runs .conditionPushDeferred s (fun u =>
      u.core.queues.cond = q.cond ++ (q.held.take room).map (·.1) ∧ u.core.queues.held = q.held.drop room ∧
      u.core.queues.tok = ((q.held.take room).foldl enters s.core).queues.tok ∧
      u.core.queues.pend = ((q.held.take room).foldl enters s.core).queues.pend ∧
      u.core.queues.pushes = q.pushes ∧ (∀ r, u.core.reg r = s.core.reg r) ∧ KeepsControl s.core u.core ∧
      u.core.vec = s.core.vec ∧ u.core.store = s.core.store ∧ u.dev = s.dev))) ∧
  (∀ (s : State), Runs .timer s (fun u =>
    u.core = { s.core with scalar := { s.core.scalar with armed := false, ipend := s.core.scalar.ipend ||| 1 } } ∧
    u.dev = s.dev ∧ u.others = s.others)) ∧
  (∀ (s : State) (n : Nat) (g : BitVec 3), s.core.scalar.hold = .pause n g → s.core.scalar.late = [] →
    Runs .pauseHoldEnd s (fun u => ∃ taken : BitVec 3,
    (∀ p : Fin 3, taken.getLsbD p.val = (g.getLsbD p.val && decide (s.core.tokens (Engine.s.partner p) 0 < 15))) ∧
    let c := ({ s.core with scalar := { s.core.scalar with hold := .none } } : Core).pushTokens .s taken
    u.core = { c with scalar := { c.scalar with late := if g = taken then [] else [⟨0, g &&& ~~~taken, .none⟩] } } ∧
    u.dev = s.dev ∧ u.others = s.others)) ∧
  (∀ (s : State), Runs .haltRetire s (fun u =>
    u.core.running = false ∧ u.core.scalar.hold = .none ∧ u.core.job.freeAt = s.dev.cycle ∧
    (∀ g, (u.dev.tag g).members = (s.dev.tag g).members.filter (fun m => m.core ≠ s.core.id)) ∧
    (if s.core.deque.bank = [] ∧ s.core.deque.spill = 0 then u.core.job.region = none ∧ u.core.deque = .reset
      else u.core.job.region = s.core.job.region ∧ u.core.deque = s.core.deque) ∧
    (∀ r, u.core.reg r = s.core.reg r) ∧ u.core.vec = s.core.vec ∧ u.core.mat = s.core.mat ∧
    u.core.store = s.core.store ∧ u.others = s.others)) ∧
  (∀ (s : State) (e : Engine), Runs (.watchdog e) s (fun u =>
    u.core.fails = s.core.fails ++
      [⟨e, 0x85, BitVec.ofNat 64 (e.num + 16 * (s.core.eng e).code), s.core.wordAddr e⟩] ∧
    (u.core.eng e).stall = 0 ∧ (u.core.eng e).pc = (s.core.eng e).pc ∧ (∀ f, f ≠ e → u.core.eng f = s.core.eng f) ∧
    u.core.scalar = s.core.scalar ∧ u.core.queues = s.core.queues ∧ u.core.vec = s.core.vec ∧ u.core.mat = s.core.mat ∧
    u.core.xfer = s.core.xfer ∧ u.core.store = s.core.store ∧ u.dev = s.dev ∧ u.others = s.others)) ∧
  (∀ (c : Core) (b : Bool) (f g : BitVec 3) (src dst : Engine),
    let k : Fin 12 := ⟨queueNum dst (dst.letter src), by cases dst <;> cases src <;> decide⟩
    (let q := (c.applyPush (.token src dst)).queues
     (c.queues.tok[k.val] < 15 → q.tok[k.val] = c.queues.tok[k.val] + 1 ∧ q.pend = c.queues.pend) ∧
     (15 ≤ c.queues.tok[k.val] → q.tok = c.queues.tok ∧ q.pend[k.val] = c.queues.pend[k.val] + 1) ∧
     ∀ j : Fin 12, j ≠ k → q.tok[j.val] = c.queues.tok[j.val] ∧ q.pend[j.val] = c.queues.pend[j.val]) ∧
    (c.queues.cond.length < 16 → c.queues.held = [] → (c.applyPush (.cond b f g)).queues.cond = c.queues.cond ++ [b] ∧
      (c.applyPush (.cond b f g)).queues.tok = ((c.pushTokens .v f).pushTokens .v g).queues.tok) ∧
    (16 ≤ c.queues.cond.length ∨ c.queues.held ≠ [] → c.applyPush (.cond b f g) =
      { c with queues := { c.queues with held := c.queues.held ++ [(b, f, g)] } }) ∧
    (let signals := (c.pushTokens .s f).pushTokens .s g;
      signals.queues.pend = c.queues.pend → c.applyPush (.retire ⟨f, g, .none⟩) = signals ∧ (c.scalar.late = [] →
      (c.queues.cond.length < 16 → c.applyPush (.retire ⟨f, g, .cond b⟩) =
        { signals with queues := { signals.queues with cond := signals.queues.cond ++ [b] } }) ∧
      (∀ x, c.applyPush (.retire ⟨f, g, .path b x⟩) = { signals with queues := { signals.queues with
        pathV := signals.queues.pathV ++ [⟨b, x⟩], pathM := signals.queues.pathM ++ [⟨b, x⟩],
        pathX := signals.queues.pathX ++ [⟨b, x⟩] } }) ∧
      (∀ n v, c.applyPush (.retire ⟨f, g, .control n v⟩) = signals.writeControl n v) ∧
      (∀ e, c.applyPush (.retire ⟨f, g, .journal e⟩) =
        { signals with xfer := { signals.xfer with journal := signals.xfer.journal ++ [e] } }) ∧
      (∀ k v pc, (∀ p : Fin 3, c.queues.pend[3 * (p.val + 1)]'(by have := p.isLt; omega) = 0) → c.applyPush (.retire ⟨f, g, .fault k v pc⟩) =
        { signals with fails := signals.fails ++ [⟨.s, k, v, pc⟩] }))) ∧
    (c.scalar.late = [] → 16 ≤ c.queues.cond.length → c.applyPush (.retire ⟨f, g, .cond b⟩) =
      { c with scalar := { c.scalar with late := [⟨f, g, .cond b⟩] } })) ∧
  (∀ (s : State), s.dev.powered = true → s.dev.inbox = [] → s.dev.turn = false → s.dev.live s.core = true →
    s.core.phase = .close → s.closeEvent = none → ∃ u, step s = .next u ∧
    let c := s.core
    let dues := (c.queues.pushes.filter (fun p => p.wait = 0))
    let retires := fun (p : Push) => match p.kind with
      | .retire _ => true
      | _ => false
    let k : Core := { c with
      scalar := { c.scalar with
        timer := if c.scalar.timer = 0 ∨ c.restoring ≠ [] then c.scalar.timer else c.scalar.timer - 1,
        hold := c.scalar.hold.advance, raised := 0,
        flights := c.scalar.flights.map (fun f =>
          if (c.entry = true ∨ c.restoring ≠ []) ∧ f.isMuldiv = true then f else { f with remain := f.remain - 1 }) },
      vec := if c.frozen then c.vec else { c.vec with
        busy := c.vec.busy - 1, flights := c.vec.flights.map (fun f => { f with remain := f.remain - 1 }) },
      walk := c.walk.map (fun w => if w.asked then w else { w with remain := w.remain - 1 }),
      queues := { c.queues with
        pushes := (c.queues.pushes.filter (fun p => p.wait ≠ 0)).map (fun p => { p with wait := p.wait - 1 }) } }
    let v := (dues.filter retires ++ dues.filter (fun p => !retires p)).foldl (fun c p => c.applyPush p.kind) k
    u.core = { v.advanceNest with phase := .over, stopped := u.core.stopped, entry := u.core.entry } ∧
      u.core.stopped = u.core.cause.isSome ∧ u.core.entry = (u.core.stopped && u.canStop) ∧
      u.dev = s.dev ∧ u.others = s.others) ∧
  (∀ c : Core, c.frozen = true ↔ c.entry = true ∨ c.returning = true ∨
    (∃ w, c.walk = some w ∧ (w.asked = true ∨ w.remain ≠ Config.walkLatency)) ∨
    (∃ n, c.nest = some n ∧ (n.held = true ∨ n.checked = false ∨ c.stopped = true))) ∧
  (∀ (s : State), s.dev.powered = true →
    (∀ i rest, s.dev.inbox = i :: rest → step s = exec i { s with dev := { s.dev with inbox := rest } }) ∧
    (s.dev.inbox = [] →
      (s.dev.turn = true → (∀ i, s.deviceEvent = some i → step s = exec i s) ∧
        (s.deviceEvent = none → step s = .next s.endCycle ∧ s.dev.settling = [] ∧
          (∀ z ∈ s.dev.lazy, s.dev.cycle < z.due ∨ ∃ r ∈ s.dev.peerReqs, r.isWrite = true ∧ r.id < z.upto) ∧ s.preemptable = [] ∧ s.answerDue = [])) ∧
      (s.dev.turn = false → s.dev.live s.core = false → step s = .next s.nextCore) ∧
      (s.dev.turn = false → s.dev.live s.core = true →
        let c := s.core
        (c.phase = .land → (∀ i, s.landEvent = some i → step s = exec i s) ∧
          (s.landEvent = none → step s = .next { s with core := { c with phase := .issueX } } ∧ c.fatal = none ∧
            (c.landsV = true → ∀ f ∈ c.vec.flights, f.remain ≠ 0) ∧ (c.scalar.armed = true → c.scalar.timer ≠ 0) ∧
            (∀ f ∈ c.scalar.flights, f.remain = 0 → ∀ d v, f.work ≠ .lds d v ∧ ∀ p n, f.work ≠ .load d v p n))) ∧
        (c.phase = .drain → (∀ i, s.drainEvent = some i → step s = exec i s) ∧
          (s.drainEvent = none → step s = .next { s with core := { c with phase := .close } } ∧
            (∀ w ws, c.mat.queue = w :: ws → w.remain ≠ 0) ∧
            (∀ k : Fin 12, c.queues.pend[k.val] = 0 ∨ 15 ≤ c.queues.tok[k.val]) ∧
            (c.queues.held = [] ∨ 16 ≤ c.queues.cond.length + c.condsDue) ∧ ∀ e, (c.eng e).stall < 2 ^ 24)) ∧
        (c.phase = .close → (∀ i, s.closeEvent = some i → step s = exec i s) ∧
          (s.closeEvent = none → c.fatal = none →
            (∀ f ∈ c.fails, f.isFatal = false ∧ c.scalar.handler = false ∧ (s.canStop = false ∨ s.settled = false)) ∧
            (c.fails = [] → c.interrupt = none ∨ s.canStop = false))) ∧
        (c.phase = .over → step s = .next s.nextCore))))

/-- R140, R190, R191, R198, R212, R213, R251, R256, R325: a fetch that no page grants is FETCH, one of a line marked on the
core's die, or still to be written there, is UNPUBLISHED, one of a poisoned line is POISON, each with the address and the
word's counter, and any other brings the line into the caches; the engines that wait for S at the line go on. That the
caches of a die are one set of lines without a limit, and that a fetch counts the errors of its line like any fill, are the
model's choices (logs 19 and 85). A walk that finds its page caches it, and then goes on or ends, where the interrupts that
became pending during it wait for the XLAT; otherwise the page is asked of the host, whose page goes the same way and whose
refusal is XLATFAULT, or in a restore leaves the handle REVOKED. Here of the current core. -/
def Obligations.FetchesAndWalks : Prop :=
  (∀ (s : State) (va : Word),
    let page := findPage s.dev.pages s.pasid va.toNat
    let die := s.dev.dieOf s.core.id
    let lineAt := fun (x : Word) => x &&& ~~~127
    let core := if lineAt s.core.engS.pc = lineAt va
      then { s.core with unfetched := s.core.unfetched.filter (· ≠ lineAt va) } else s.core
    let faults := fun (d : Device) (k : BitVec 8) (v : Word) => Runs (.instructionFetch va) s (fun u =>
      u.core = { core with fails := core.fails ++ [⟨.s, k, v, s.core.engS.pc⟩] } ∧ u.dev = d ∧ u.others = s.others)
    ((∀ p, page = some p → p.canExec = false) → faults s.dev 0x0B va) ∧
    (∀ p, page = some p → p.canExec = true → p.frame % 128 = 0 →
      let line := p.addr va.toNat / 128
      let at' := p.va + (128 * line - p.frame)
      let found := s.dev.readPage p at' 128
      let noted := s.dev.noteErrors (s.dev.fillNotes p at' 128)
      let marked := (die, line) ∈ s.dev.marks ∨ ∃ x ∈ s.dev.remote, x.dst = die ∧ x.line = line
      (marked → faults noted 0x0C va) ∧
      (¬marked →
        (∀ a, found.2 = some a → faults noted 0x83 a) ∧
        (found.2 = none → Runs (.instructionFetch va) s (fun u => u.core = core ∧ u.others = s.others ∧ u.dev = { noted with
          icache := ⟨die, line, BitVec.ofNat 1024 (leNat (s.dev.bytesAt (128 * line) 128))⟩ :: s.dev.icache }))))) ∧
  (∀ (s : State) (w : Walk), s.core.walk = some w →
    let die := s.dev.dieOf s.core.id
    let goesOn := fun (p : Page) (pages : List Page) (u : State) =>
      u.dev = { s.dev with pages := pages, tcache := (die, p) :: s.dev.tcache } ∧ u.others = s.others ∧
      (u.core = { s.core with walk := none, scalar := { s.core.scalar with
          deferred := s.core.scalar.deferred ||| (s.core.scalar.ipend &&& ~~~w.ipend) } } ∨
        ∃ v, u.core = { s.core with walk := some { w with va := v, remain := 1, asked := false } })
    (∀ p, s.core.restoring = [] → findPage s.dev.pages s.pasid w.va = some p →
      Runs .translationWalkComplete s (goesOn p s.dev.pages)) ∧
    (findPage s.dev.pages s.pasid w.va = none → Runs .translationWalkComplete s (fun u =>
      u.core = { s.core with walk := some { w with remain := 0, asked := true } } ∧ u.dev = s.dev ∧ u.others = s.others)) ∧
    (s.core.restoring = [] → findPage s.dev.pages s.pasid w.va = none → Runs (.priResponse s.core.id none) s (fun u =>
      u.core = { s.core with walk := none, fails := s.core.fails ++
        [⟨.s, 0x08, BitVec.ofNat 64 (w.va / 4096 * 4096), s.core.wordAddr .s⟩] } ∧ u.dev = s.dev ∧ u.others = s.others)) ∧
    (∀ h hs, s.core.restoring = h :: hs → findPage s.dev.pages s.pasid w.va = none →
      Runs (.priResponse s.core.id none) s (fun u => u.core.handle h = { s.core.handle h with state := .revoked } ∧
        (∀ k, k ≠ h → u.core.handle k = s.core.handle k) ∧ u.core.restoring = hs ∧ u.dev = s.dev ∧ u.others = s.others ∧
        u.core.fails = s.core.fails)) ∧
    (∀ p, s.core.restoring = [] → s.dev.apertures = [] → (s.dev.reduced = true → p.dieLocal = some 0) →
      let q := { p with readOnly := false }
      findPage (s.dev.pages ++ [q]) s.pasid w.va = some q →
      Runs (.priResponse s.core.id (some p)) s (goesOn q (s.dev.pages ++ [q]))))

/-! ### Regions (spec/09 R194, R198, spec/15) -/

/-- R265, R272, R274, R275, R277 to R282: a dispatch starts the core, or the gang, that the region takes in its region-start
state, at the entry address, from 613 cycles after the later of the launch and its becoming free (log 88), with the
indices, the linear index or slot, the parameters, the control block and TSAVE in their registers and zero in the others;
the cores of a gang become the members of its tags; slot 0 of a region's first start takes its seed record. A parameter
block that cannot be read rejects the region. A region whose own work is done goes to JOINING, and with no children left it
ends and its tags are free; a region that has come to its end while a write of its own to a peer is unacknowledged, or a
descendant still to end, waits for that (log 83). A period adds a share to every region with ready work. A region that has
waited for 20 µs marks, of the cores without records of regions of lower priority that have an image area, one of the lowest
PRIO, then of the latest dispatch, then of the lowest ID; which placement a gang pre-empts for, and that a core that is
pre-empted for a region is kept for it while it needs cores, are the model's choice (log 87). Here while no START is held. -/
def Obligations.Regions : Prop :=
  (∀ (s : State) (key : Nat) (r : Region) (ps : List Word), s.dev.region? key = some r →
    (if r.state = .pending then s.dev.readParams r else some r.params) = some ps →
    let starts := fun (id slot n start : Nat) (u : State) =>
      let p := indexPoint r.order r.counts n
      let first := fun (v : Nat) => BitVec.ofNat 64 (if r.kind = 0 then v else 0)
      let sets : List (BitVec 6 × Word) := [(1, first p.1), (2, first p.2.1), (3, first p.2.2),
        (4, BitVec.ofNat 64 (if r.kind = 0 then n else slot)), (5, (ps[0]?).getD 0), (6, (ps[1]?).getD 0),
        (7, (ps[2]?).getD 0), (60, r.rcb), (61, BitVec.ofNat 64 ({ Store.reset with part := r.part } : Store).tsave)]
      let c := u.coreOf id
      c.running = true ∧ (∀ e, (c.eng e).pc = r.entryVa ∧ (c.eng e).walk = 0) ∧ c.store.part = r.part ∧
      c.store.tiles = r.tiles ∧ c.store.classes = r.classes ∧ c.job.started = start ∧
      c.job.region = some key ∧ c.job.slot = slot ∧ (∀ x ∈ sets, c.reg x.1 = x.2) ∧
      (∀ k, k ∉ sets.map (·.1) → c.reg k = 0) ∧ c.scalar.handler = false ∧ c.queues = .reset ∧ c.nest = none ∧
      c.deque.lastNear = none ∧ c.deque.lastFar = none ∧
      c.deque.bank = (if (s.coreOf id).job.region = some key then (s.coreOf id).deque.bank else []) ++
        (if slot = 0 ∧ r.started = 0 then r.seed.toList else [])
    let runs := fun (m : Nat) (u : State) => ∃ q, u.dev.region? key = some q ∧ q.state = .running ∧
      q.started = r.started + m ∧ q.dispatched = (if r.kind = 0 then r.dispatched + m else r.dispatched) ∧ q.params = ps
    (∀ id slot, r.gang = false → s.takes r = [id] →
      (if (s.coreOf id).job.region = some key then some (s.coreOf id).job.slot else s.freeSlot r) = some slot →
      Runs (.dispatch key) s (fun u => runs 1 u ∧
        starts id slot r.dispatched (max (s.dev.cycle + 1) (max r.launchedAt (s.coreOf id).job.freeAt + 613)) u)) ∧
    (∀ ids, r.gang = true → s.takes r = ids → ids ≠ [] → ids.Nodup → ids.length ≤ r.maxCores → s.usedSlots r = [] →
      (∀ id ∈ ids, (s.coreOf id).job.region ≠ some key) →
      Runs (.dispatch key) s (fun u => runs ids.length u ∧
        (∀ j id, ids[j]? = some id → starts id j (if r.kind = 0 then r.dispatched + j else r.dispatched) (s.startCycle r ids) u) ∧
        ∀ t ∈ u.dev.tags.toList, t.owner = some key → t.members.map (·.core) = ids ∧
          (t.device = true ↔ ∃ a ∈ ids, ∃ b ∈ ids, s.dev.dieOf a ≠ s.dev.dieOf b)))) ∧
  (∀ (s : State) (key : Nat) (r : Region), s.dev.region? key = some r → (∀ c ∈ s.dev.ccbs, c.heldArgs = none) →
    let gone := fun (u : State) =>
      u.dev.regions.map (·.key) = (s.dev.regions.map (·.key)).filter (fun k => k ≠ key) ∧
      (∀ g, (u.dev.tag g).owner ≠ some key) ∧ (∀ c ∈ u.cores, c.job.region ≠ some key)
    let written := (∀ q ∈ s.dev.peerReqs, q.region = some key → q.isWrite = false) ∧ ∀ q ∈ s.dev.regions, q.parent ≠ some key
    (r.state = .pending → r.ending = none → s.takes r ≠ [] → s.dev.readParams r = none →
      (written → Runs (.dispatch key) s gone) ∧
      (¬written → Runs (.dispatch key) s (fun u => (∀ c ∈ u.cores, c.job.region ≠ some key) ∧ ∃ x : Ending, x.state = .rejected ∧
        x.reason = 6 ∧ u.dev.region? key =
          some { r with state := .joining, images := [], kept := [], chained := true, ending := some x }))) ∧
    (s.workDone r = true → r.chain = [] → Runs (.regionComplete key) s (fun u =>
      u.dev.region? key = some { r with state := .joining, chained := true } ∧ u.core = s.core ∧ u.others = s.others)) ∧
    (r.state = .joining → r.chained = true → r.ending = none → r.children = 0 → written → Runs (.regionComplete key) s gone) ∧
    (r.state = .joining → r.chained = true → written → ∀ x, r.ending = some x →
      (x.state ≠ .pending → Runs (.regionComplete key) s (fun u =>
        u.dev.regions.map (·.key) = (s.dev.regions.map (·.key)).filter (fun k => k ≠ key) ∧
        (∀ g, (u.dev.tag g).owner ≠ some key) ∧ u.core = s.core ∧ u.others = s.others)) ∧
      (x.state = .pending → Runs (.regionComplete key) s (fun u => CoresStay s u ∧ ∃ q, u.dev.region? key = some q ∧
        q.restarts = r.restarts + 1 ∧ q.started = 0 ∧ q.dispatched = 0 ∧ q.ending = none ∧
        q.state = (if r.kind = 0 ∧ r.total = 0 then .joining else .pending)))) ∧
    ((¬written ∨ r.children ≠ 0) → r.state = .joining → r.chained = true → r.ending = none →
      Runs (.regionComplete key) s (fun u => u = s))) ∧
  (∀ (s : State), Runs .fairnessPeriod s (fun u => CoresStay s u ∧ u.dev.period = s.dev.period + 1 ∧
    u.dev.regions = s.dev.regions.map (fun r =>
      let most : Int := r.maxCores * usUnits 50
      if r.ready = true then { r with deficit := max (-most) (min most (r.deficit + most)) } else r))) ∧
  (∀ (s : State) (key : Nat) (r : Region) (v : Core), s.dev.region? key = some r → s.preemptPick r = some v →
    Runs (.priorityPreemptWait key) s (fun u => u.dev = s.dev ∧ v.running = true ∧
      { v with job := { v.job with preempt := true, preemptFor := some key } } ∈ u.cores ∧
      ((∀ q, s.dev.regionOf v = some q → q.gang = false) → ∀ c ∈ s.cores, c.id ≠ v.id → c ∈ u.cores))) ∧
  (∀ (s : State) (r : Region),
    let may := fun (c : Core) (q : Region) => c ∈ s.cores ∧ c.running = true ∧ c.job.preempt = false ∧ c.deque.bank = [] ∧
      c.deque.spill = 0 ∧ s.dev.regionOf c = some q ∧ q.prio < r.prio ∧ q.imageBase ≠ 0 ∧
      (q.gang = true → ∀ b ∈ s.cores, b.job.region = some q.key → b.running = true → b.deque.bank = [] ∧ b.deque.spill = 0)
    (∀ v, s.preemptPick r = some v → ∃ p qv, s.preemptPlace r = some p ∧ 0 < s.lack r p ∧ may v qv ∧ p v.id = true ∧
      (r.gang = false → ∀ n, p n = true) ∧
      ∀ c q, may c q → p c.id = true → qv.prio < q.prio ∨ (qv.prio = q.prio ∧ (c.job.started < v.job.started ∨
        (c.job.started = v.job.started ∧ v.id ≤ c.id)))) ∧
    (s.preemptDue r = true ↔ ∃ t v, r.readySince = some t ∧ usUnits 20 ≤ s.dev.wall - t ∧ s.preemptPick r = some v) ∧
    (∀ id k q, (∀ x ∈ s.dev.regions, x.key = r.key → x = r) → (s.coreOf id).job.preemptFor = some k → k ≠ r.key →
      s.dev.region? k = some q → r.prio ≤ q.prio → 0 < s.need q → id ∉ s.takes r))

/-- R194 to R198, R281: a pre-emption writes the core's image at the address of its slot, and leaves the core idle and free;
its region keeps the slot for restoring. The image begins with the version, the partition, its lengths, the count and the
map of the dirty granules and the core's number, and holds the registers, masks and control registers at their offsets. A
restore starts a core from the image of its slot, and a malformed image ends the region. Here for the current core and for
a region that is no gang, CONTAINs faults, has no children, and while no START is held; the image's bytes where they lie in
one page, apart from the control block. In every state both complete: a restore takes the images that wait in order, each
on a core that the region takes, and a pre-emption saves each core that stands ready. The model's choices: a restore takes the
613 cycles of a dispatch (log 22), what the image has no field for is kept beside it (log 30), the shadow streams stand in it
as they were written (log 80), and an image that cannot be read counts as malformed (log 108). Completing: PREEMPTION,
RESTORE. -/
def Obligations.Preemptions : Prop :=
  (∀ (s : State) (r : Region), s.preemptable = [s.core.id] → s.dev.regionOf s.core = some r →
    let base := r.imageBase.toNat + r.imageStride * s.core.job.slot
    let img := s.restNow.core.image
    Runs .preemption s (fun u =>
      u.core = { Core.idle s.core.id with job := ⟨none, 0, 0, s.dev.cycle, false, s.core.job.preemptFor⟩ } ∧
      (∃ q, u.dev.region? r.key = some q ∧ q.images = r.images ++ [s.core.job.slot] ∧ q.state = r.state ∧
        ∃ k, q.kept = r.kept ++ [k] ∧ k.slot = s.core.job.slot) ∧
      ∀ p, MemoryOk s → OnePage s.dev r.pasid base img.length p → base + img.length < 2 ^ 64 →
        (∀ x, r.rcb.toNat + 0xFC ≤ x → x < r.rcb.toNat + 0x100 → ∀ q, findPage s.dev.pages r.pasid x = some q →
          q.addr x < p.addr base ∨ p.addr base + img.length ≤ q.addr x) →
        s.restNow.dev.mem = s.dev.mem →
        ∀ k (b : Byte), img[k]? = some b → u.dev.byteAt (p.addr base + k) = b)) ∧
  (∀ (c : Core), FrameFits c → c.usedSlots.length ≤ 96 →
    let at' := fun (o n : Nat) => leNat ((c.image.drop o).take n)
    let z := c.scalar
    at' 0 8 = 1 ∧ at' 8 8 = c.store.part.toNat ∧ at' 0x10 8 = 0x2B00 + 1024 * c.usedSlots.length ∧
    at' 0x18 8 = ((List.range 512).filter (fun g => c.store.dirty.getLsbD g)).length ∧ at' 0x20 8 = c.image.length ∧
    at' 0x28 8 = c.id % 2 ^ 64 ∧ at' 0x40 64 = c.store.dirty.toNat ∧
    (∀ k : BitVec 6, at' (0x1B00 + 8 * k.toNat) 8 = (c.reg k).toNat) ∧
    (∀ m : Fin 4, at' (0x2700 + 32 * m.val) 32 = (c.vec.masks[m.val]).toNat) ∧
    (∀ e : Engine, at' (0x110 + 8 * e.num) 8 = (c.eng e).pc.toNat ∧ at' (0x130 + 8 * e.num) 8 = (c.eng e).walk % 2 ^ 64) ∧
    (∀ (q : Fin 16) (f : Fin 18), at' (0x1D00 + 144 * q.val + 8 * f.val) 8 = ((c.shadow.streams[q.val])[f.val]).toNat) ∧
    at' 0x198 8 = c.vec.window.toNat ∧ at' 0x1A0 8 = c.vec.latch.toNat ∧
    at' 0x2780 8 = z.slip.toNat ∧ at' 0x2788 8 = z.fpmode.toNat ∧ at' 0x2790 8 = z.fpflags.toNat ∧
    at' 0x2798 8 = z.tvec.toNat ∧ at' 0x27A0 8 = z.tcause.toNat ∧ at' 0x27A8 8 = z.tval.toNat ∧
    at' 0x27B0 8 = z.timer.toNat ∧ at' 0x27B8 8 = z.ien.toNat ∧ at' 0x27C8 8 = (if z.handler then 1 else 0) ∧
    at' 0x27C0 8 = (z.ipend ||| (if z.armed = true ∧ z.timer = 0 then 1 else 0)).toNat) ∧
  (∀ (s : State) (key id slot : Nat) (r : Region), s.dev.region? key = some r → s.takes r = [id] → r.images = [slot] →
    let base := r.imageBase.toNat + r.imageStride * slot
    let kept := (r.kept.find? (fun k => k.slot = slot)).getD ⟨slot, [], [], [], [], [], none, none⟩
    let restored := ((s.dev.readVa r.pasid (base + 0x20) 8).bind (fun bs => s.dev.readVa r.pasid base (leNat bs))).bind
      (s.dev.restoreCore r.pasid (Core.idle id) r.classes kept)
    (∀ c, restored = some c → c.id = id → Runs (.restore key) s (fun u =>
      let k := u.coreOf id
      k.running = true ∧ k.job.region = some key ∧ k.job.slot = slot ∧ k.job.started = s.startCycle r [id] ∧
      k.scalar = c.scalar ∧ (∀ e, k.eng e = c.eng e) ∧ k.vec = c.vec ∧ k.mat = c.mat ∧ k.xfer = c.xfer ∧ k.store = c.store ∧
      k.active = c.active ∧ k.shadow = c.shadow ∧ k.nest = c.nest ∧ k.queues = c.queues ∧
      ∃ q, u.dev.region? key = some q ∧ q.images = [])) ∧
    (restored = none → r.domain = 0 → r.ending = none → (∀ x ∈ s.dev.regions, x.parent ≠ some key) →
      (∀ q ∈ s.dev.peerReqs, q.region = some key → q.isWrite = false) → (∀ c ∈ s.dev.ccbs, c.heldArgs = none) →
      Runs (.restore key) s (fun u => u.dev.region? key = none ∧ ∀ g, (u.dev.tag g).owner ≠ some key))) ∧
  (∀ (s : State) (key : Nat), Runs (.restore key) s (fun u => match s.dev.region? key with
    | none => u = s
    | some r => u = (List.zip r.images (s.takes r)).foldl
        (fun t x => t.restoreOne key x.1 x.2 (s.startCycle r (s.takes r))) s)) ∧
  (∀ (s : State), Runs .preemption s (fun u => u = s.preemptable.foldl (fun t id => t.atCore id State.saveCore) s))

/-! ### Continuations (spec/16, spec/17) -/

/-- R283, R289, R297 to R303: a command whose SEQ is not the acknowledged one is consumed once and acknowledged: NOOP with
0, START with 0, or 2 where GATE holds it, or 1 or 5 where it may not; ABORT with 0 or, at rest, 3; SIGNAL likewise, after
HOSTSIG is pending on every running core of the continuation; any other code with 4. QUERY answers QWORD and clears
LATCHED; JOIN answers it once the state is terminal. A policy check parks the cores of an owner that is descheduled, and
lets them go on. That a check which finds the owner back takes back the pre-emptions still asked for, and that JOINs wait in one
list, are the model's choices (logs 62 and 63). Here for a block in the CCB window, where no other START is held. -/
def Obligations.Continuations : Prop :=
  ∀ (s : State) (slot : Nat) (c : Ccb) (seq : BitVec 32), MemoryOk s → s.dev.hostCxl = false → s.dev.ccb? slot = some c →
    (∀ x ∈ s.dev.ccbs, x.heldArgs = none) →
    let d := s.dev
    let acked := fun (result reason : Nat) (u : State) =>
      u.dev.ccbGet c 0x18 8 = seq.toNat + result * 2 ^ 32 + reason * 2 ^ 40
    let only := fun (u : State) => CoresStay s u ∧ u.dev.regions = d.regions ∧ u.dev.tags = d.tags ∧
      ∀ x, x < windowBase + c.addr.toNat + 0x10 ∨ windowBase + c.addr.toNat + 0x20 ≤ x → u.dev.mem.get x = d.mem.get x
    let fresh := d.ccbGet c 0x18 4 ≠ seq.toNat
    let rest := ccbAtRest (d.ccbState c) = true
    let root := BitVec.ofNat 64 (d.ccbGet c 0x28 8)
    let key := regionKey c.pasid root
    let busy := (d.region? key).isSome = true
    let held := fun (u : State) => only u ∧ acked 2 0 u ∧
      u.dev.ccb? slot = some { c with heldArgs := some (BitVec.ofNat 64 (d.ccbGet c 0x30 8), root) }
    let signalled := fun (k : Core) =>
      if k.running = true ∧ ∃ r ∈ d.regions, r.ccb = some c.slot ∧ k.job.region = some r.key
      then { k with scalar := { k.scalar with ipend := k.scalar.ipend ||| 2 } } else k
    (¬fresh → Runs (.ccbNoop slot seq) s only ∧ Runs (.start slot false seq) s only ∧ Runs (.abort slot seq) s only ∧
      Runs (.signal slot seq) s only) ∧
    (fresh →
      Runs (.ccbNoop slot seq) s (fun u => only u ∧ acked 0 0 u) ∧
      (∀ code : BitVec 4, 4 ≤ code.toNat → Runs (.ccbReservedOp slot code seq) s (fun u => only u ∧ acked 4 0 u)) ∧
      (rest → Runs (.abort slot seq) s (fun u => only u ∧ acked 3 0 u) ∧
        Runs (.signal slot seq) s (fun u => only u ∧ acked 3 0 u)) ∧
      (rest → ¬busy → ∀ gate, Runs (.start slot gate seq) s (fun u => CoresStay s u ∧ acked 0 0 u ∧
        ∃ x, u.dev.ccb? slot = some x ∧ x.root = some key)) ∧
      (rest → busy → Runs (.start slot false seq) s (fun u => only u ∧ acked 5 7 u) ∧ Runs (.start slot true seq) s held) ∧
      (¬rest → Runs (.start slot false seq) s (fun u => only u ∧ acked 1 0 u) ∧ Runs (.start slot true seq) s held ∧
        (∀ k r, c.root = some k → d.region? k = some r → (∀ x ∈ d.regions, x.parent ≠ some k) →
          Runs (.abort slot seq) s (fun u => acked 0 0 u ∧ u.dev.region? k = none ∧
            (∀ g, (u.dev.tag g).owner ≠ some k) ∧ ∀ x ∈ u.cores, x.job.region ≠ some k)) ∧
        Runs (.signal slot seq) s (fun u => acked 0 0 u ∧ u.core = signalled s.core ∧
          u.others = s.others.map signalled))) ∧
    (let q := d.ccbGet c 0 8
     let clears := fun (u : State) => CoresStay s u ∧ u.dev.hostResult = BitVec.ofNat 64 q ∧
       u.dev.ccbGet c 0 8 = q - q / 16 % 2 * 16 ∧ u.dev.regions = d.regions
     Runs (.query slot) s clears ∧
     (d.ccbTerminal c = true → Runs (.join slot) s (fun u => clears u ∧ u.dev.joins = d.joins.filter (fun k => k ≠ c.slot))) ∧
     (d.ccbTerminal c = false → Runs (.join slot) s (fun u => CoresStay s u ∧ u.dev.hostResult = d.hostResult ∧
       u.dev.joins = d.joins.filter (fun k => k ≠ c.slot) ++ [c.slot]))) ∧
    (let st := d.ccbState c
     let away := d.ccbGet c 8 8 = 2 ^ 64 - 1
     let marked := fun (b : Bool) (k : Core) =>
       if k.running = true ∧ ∃ r, d.regionOf k = some r ∧ r.ccb = some slot ∧ r.imageBase ≠ 0
       then { k with job := { k.job with preempt := b || k.job.preemptFor.isSome } } else k
     let next := fun (u : State) => u.dev.ccb? slot = some { c with check := c.check.map (fun n => n + usUnits 100) }
     let moves := fun (goal : Nat) (b : Bool) (u : State) => u.dev.ccbState c = goal ∧ u.core = marked b s.core ∧
       u.others = s.others.map (marked b) ∧ next u
     (c.check = none → Runs (.policyCheck slot) s (fun u => CoresStay s u ∧ u.dev.ccb? slot = some c)) ∧
     (c.check ≠ none →
       (st = 2 → away → Runs (.policyCheck slot) s (moves 3 true)) ∧
       (st = 3 → ¬away → Runs (.policyCheck slot) s (moves 2 false)) ∧
       ((st = 2 ∧ ¬away) ∨ (st = 3 ∧ away) → Runs (.policyCheck slot) s (fun u => CoresStay s u ∧ next u)) ∧
       (st ≠ 2 ∧ st ≠ 3 → Runs (.policyCheck slot) s (fun u => CoresStay s u ∧
         u.dev.ccb? slot = some { c with check := none }))))

/-! ### Driver commands (spec/17 R295, R296, R305) -/

/-- R295, R296, R305, R307, R311: every driver command takes its operands, changes the device as its row says, sets its
results and DSTAT with its SEQ, and raises vector 2,041; one that its row refuses sets the error alone, and so does a
code with no row. One behind which another write of DCMD has come is overwritten and leaves its operands alone. The cores
stay as they are. A result register that the row does not name holds a free value (log 37); that a segment outside the table or
whose descriptor cannot be read is ERR 2 (log 38), and so is UNREGCCB of a slot of 4,096 or more (log 74), is the model's choice.
Completing: REGCCB, UNREGCCB,
SETSEGTAB, REGSEG, BUMPGEN, DECLWIN, PEERAP, SETPLANE, PLANEALLOC, PLANEFREE, and a reserved code. -/
def Obligations.DriverCommands : Prop :=
  (∀ (s : State) (seq : BitVec 32) (a b c e : Word), s.dev.inbox.any isDcmd = true →
    let undone := fun (code : Nat) (u : State) => CoresStay s u ∧
      u.dev = { s.dev with dcmd := BitVec.ofNat 64 (code + seq.toNat * 2 ^ 32), darg := #v[a, b, c, e] }
    Runs (.regccb seq a b c e) s (undone 1) ∧ Runs (.unregccb seq a b c e) s (undone 2) ∧
    Runs (.setsegtab seq a b c e) s (undone 3) ∧ Runs (.regseg seq a b c e) s (undone 4) ∧
    Runs (.bumpgen seq a b c e) s (undone 5) ∧ Runs (.declwin seq a b c e) s (undone 6) ∧
    Runs (.peerap seq a b c e) s (undone 7) ∧ Runs (.setplane seq a b c e) s (undone 8) ∧
    Runs (.planealloc seq a b c e) s (undone 9) ∧ Runs (.planefree seq a b c e) s (undone 10) ∧
    ∀ code : BitVec 8, Runs (.dcmdReservedOp code seq a b c e) s (undone code.toNat)) ∧
  (∀ (s : State) (seq : BitVec 32) (a b c e : Word), MemoryOk s → s.dev.inbox.any isDcmd = false →
    let put := fun (code : Nat) =>
      { s.dev with dcmd := BitVec.ofNat 64 (code + seq.toNat * 2 ^ 32), darg := #v[a, b, c, e] }
    let errs := fun (code n : Nat) (u : State) => CoresStay s u ∧
      u.dev = ({ put code with dstat := BitVec.ofNat 64 (n + seq.toNat * 2 ^ 32) } : Device).raiseEvent 2041
    let does := fun (code : Nat) (d : Device) (r0 r1 : Option Word) (u : State) => CoresStay s u ∧ ∃ x y,
      (∀ v, r0 = some v → x = v) ∧ (∀ v, r1 = some v → y = v) ∧
      u.dev = ({ d with dcmd := (put code).dcmd, darg := (put code).darg, dres := #v[x, y], drawn := s.dev.drawn + 1,
                        dstat := BitVec.ofNat 64 (seq.toNat * 2 ^ 32) } : Device).raiseEvent 2041
    let d := s.dev
    let segment := if d.segcnt ≤ a.toNat then none else d.segment a.toNat
    let home := (d.segtab.toNat + 32 * a.toNat + 14) % 2 ^ 40
    let stays := fun (u : State) => CoresStay s u ∧ u.dev.dstat = BitVec.ofNat 64 (seq.toNat * 2 ^ 32) ∧
      u.dev.pages = d.pages ∧ u.dev.segtab = d.segtab ∧ u.dev.segcnt = d.segcnt ∧ u.dev.tags = d.tags ∧ u.dev.ccbs = d.ccbs
    -- REGCCB
    let fits := a.toNat % 256 = 0 ∧
      (if d.hostCxl then d.canReadVa (b.setWidth 20) a.toNat 256 && d.canWriteVa (b.setWidth 20) a.toNat 256
        else decide (a.toNat < 0x100000)) = true
    (¬fits → Runs (.regccb seq a b c e) s (errs 1 2)) ∧
    (fits → (∀ n < 4096, d.ccb? n ≠ none) → Runs (.regccb seq a b c e) s (errs 1 3)) ∧
    (fits →
      ∀ n < 4096, d.ccb? n = none → (∀ k < n, d.ccb? k ≠ none) →
        let x : Ccb := ⟨n, a, b.setWidth 20, false, none, none, none⟩
        Runs (.regccb seq a b c e) s (fun u => CoresStay s u ∧ u.dev.ccbs = d.ccbs ++ [x] ∧
          u.dev.dres[0] = BitVec.ofNat 64 n ∧ u.dev.dstat = BitVec.ofNat 64 (seq.toNat * 2 ^ 32) ∧
          (d.hostCxl = false → u.dev.ccbGet x 0 8 = 0 ∧ u.dev.ccbGet x 0x18 8 = d.ccbGet x 0x10 8 / 2 ^ 32 ∧
            u.dev.ccbGet x 0x38 8 = (b.setWidth 20).toNat ∧ ∀ k < 9, u.dev.ccbGet x (0x40 + 8 * k) 8 = 0))) ∧
    -- UNREGCCB
    (4096 ≤ a.toNat → Runs (.unregccb seq a b c e) s (errs 2 2)) ∧
    (a.toNat < 4096 → (d.ccb? a.toNat = none → Runs (.unregccb seq a b c e) s (errs 2 4)) ∧
      ∀ x, d.ccb? a.toNat = some x → Runs (.unregccb seq a b c e) s (fun u =>
        if ccbAtRest (d.ccbState x) = true
        then does 2 { d with ccbs := d.ccbs.filter (fun k => k.slot ≠ a.toNat) } none none u else errs 2 2 u)) ∧
    -- SETSEGTAB
    Runs (.setsegtab seq a b c e) s (fun u => if b.toNat = 0 ∨ 2 ^ 24 < b.toNat then errs 3 2 u
      else does 3 { d with segtab := a, segcnt := b.toNat } none none u) ∧
    -- REGSEG and BUMPGEN
    (segment = none → Runs (.regseg seq a b c e) s (errs 4 2) ∧ Runs (.bumpgen seq a b c e) s (errs 5 2)) ∧
    (∀ g, segment = some g →
      let bad := g.base.toNat % 4096 ≠ 0 ∨ g.length % 4 ≠ 0 ∨ g.entries = 0 ∨ 4 ≤ b.toNat % 256
      let low : Word := BitVec.ofNat 64 (a.toNat + g.gen.toNat * 2 ^ 24 + b.toNat % 256 * 2 ^ 40)
      (bad → Runs (.regseg seq a b c e) s (errs 4 2)) ∧
      (¬bad → Runs (.regseg seq a b c e) s (fun u => stays u ∧ u.dev.mem = d.mem ∧ u.dev.dres[0] = low ∧
        u.dev.dres[1] = sealTag d.bootKey low)) ∧
      Runs (.bumpgen seq a b c e) s (fun u => stays u ∧
        ∀ x, u.dev.mem.get x = if home ≤ x ∧ x < home + 2 then (g.gen + 1).extractLsb' (8 * (x - home)) 8 else d.mem.get x)) ∧
    -- DECLWIN and PEERAP
    Runs (.declwin seq a b c e) s (fun u => if 64 ≤ a.toNat then errs 6 2 u
      else does 6 { d with windows := d.windows.filter (fun w => w.num ≠ a.toNat) ++
        (if c = 0 then [] else [⟨a.toNat, b.toNat, c.toNat, e.getLsbD 0, .untried⟩]) } none none u) ∧
    Runs (.peerap seq a b c e) s (does 7 { d with apertures := d.apertures.filter (fun x => x.dev ≠ a.toNat % 256) ++
      (if c = 0 then [] else [⟨a.toNat % 256, b.toNat, c.toNat⟩]) } none none) ∧
    -- the plane commands
    Runs (.setplane seq a b c e) s (fun u =>
      if d.present (a.toNat % 8) = false ∨ 16 < b.toNat ∨ (∃ p ∈ d.planes, p.die = a.toNat % 8) then errs 8 2 u
      else CoresStay s u ∧ u.dev.planeMib = d.planeMib.setIfInBounds (a.toNat % 8) b.toNat ∧
        u.dev.enumGen = d.enumGen + 2 ∧ u.dev.dstat = BitVec.ofNat 64 (seq.toNat * 2 ^ 32)) ∧
    (b.toNat % 4096 ≠ 0 ∨ b.toNat < 4096 ∨ 2 ^ 24 < b.toNat → Runs (.planealloc seq a b c e) s (errs 9 2)) ∧
    (b.toNat % 4096 = 0 → 4096 ≤ b.toNat → b.toNat ≤ 2 ^ 24 →
      (d.planeRoom (a.toNat % 8) b.toNat = none ∨ (∀ n < 4096, ∃ p ∈ d.planes, p.num = n) →
        Runs (.planealloc seq a b c e) s (errs 9 3)) ∧
      (∀ base n, d.planeRoom (a.toNat % 8) b.toNat = some base → n < 4096 → (∀ p ∈ d.planes, p.num ≠ n) →
        (∀ k < n, ∃ p ∈ d.planes, p.num = k) →
        Runs (.planealloc seq a b c e) s (fun u => CoresStay s u ∧ u.dev.dres[0] = BitVec.ofNat 64 base ∧
          u.dev.dres[1] = BitVec.ofNat 64 n ∧
          u.dev.planes = d.planes ++ [⟨n, a.toNat % 8, planeRuleOf (a.toNat / 16), base, b.toNat, none, []⟩] ∧
          base + b.toNat ≤ planeBase (a.toNat % 8) + (d.planeMib[a.toNat % 8]?).getD 0 * 2 ^ 20 ∧
          (∀ p ∈ d.planes, p.die = a.toNat % 8 → base + b.toNat ≤ p.base ∨ p.base + p.len ≤ base) ∧
          (∀ l, l ∈ u.dev.poison ↔ l ∈ d.poison ∧ ¬(base ≤ 64 * l ∧ 64 * l < base + b.toNat)) ∧
          ∀ x, u.dev.mem.get x = if base ≤ x ∧ x < base + b.toNat then 0 else d.mem.get x))) ∧
    ((∀ p ∈ d.planes, p.num ≠ a.toNat) → Runs (.planefree seq a b c e) s (errs 10 4)) ∧
    (∀ p, d.planes.find? (fun p => p.num = a.toNat) = some p → Runs (.planefree seq a b c e) s (fun u =>
      if p.bound = none then does 10 { d with planes := d.planes.filter (fun q => q.num ≠ a.toNat) } none none u
      else errs 10 2 u)) ∧
    -- any other code
    ∀ code : BitVec 8, Runs (.dcmdReservedOp code seq a b c e) s (errs code.toNat 1))

/-! ### The host (spec/11 R215, R229, spec/13 R251, spec/17 R305 to R309) -/

/-- R215, R221, R229, R234, R251, R297, R305 to R307, R309, R315, R339: a host write stores its bytes but for a PASID in the CCB
window; on a bound plane region it is answered with Completer Abort and changes nothing, and in the enumeration page it
changes nothing. An AtomicOp from the host is an Unsupported Request; unmasking a vector sends its pending message. A
revocation takes the page from every cache and makes every handle over it REVOKED, and is acknowledged at once, or once
the accesses through those handles are done; a page that may move does so with its bytes, then, and a settled one does
not, nor one into a mapping that cannot be made. When the acknowledgement comes, and what moves with a page, are the model's
choices (logs 95 and 96). A die applies a write from another die by setting its mark. R309, R315: an AMOADD, AMOSWP or AMOCAS
whose route is an AtomicOp sends it, and waits unissued; the operation is performed when it completes, and the AMO then issues
with the old value, at most once. After an Unsupported Request or a Completer Abort it goes through the cache where the window
has CXL.cache; otherwise it is HOSTATOMIC, unissued, and the window remembers. That an AMO is taken as the one that sent the
operation by its word, address, nest cycle and operands is the model's choice (log 113). Completing: HOST_MEMORY_WRITE, ATOMICOP_REQUEST, MSIX_VECTOR_UNMASK, REVOCATION, PAGE_MOVE_REQUEST,
REMOTE_WRITE_APPLY, ATOMICOP_COMPLETION. -/
def Obligations.HostAccess : Prop :=
  (∀ (s : State) (a : Nat) (bs : List Byte), MemoryOk s →
    let locked := fun (x : Nat) => s.dev.hostCxl = false ∧ ∃ c ∈ s.dev.ccbs,
      windowBase + c.addr.toNat + 0x38 ≤ x ∧ x < windowBase + c.addr.toNat + 0x40
    (s.dev.meetsBound a bs.length = true → Runs (.hostMemoryWrite a bs) s (fun u => CoresStay s u ∧
      u.dev = { s.dev with hostAnswer := .abort })) ∧
    (s.dev.meetsBound a bs.length = false → enumPage ≤ a → Runs (.hostMemoryWrite a bs) s (fun u => CoresStay s u ∧
      u.dev = { s.dev with hostAnswer := .success })) ∧
    (s.dev.meetsBound a bs.length = false → a + bs.length ≤ enumPage → a < enumPage →
      s.dev.reachable (s.dev.kindAt a) a none = true → s.dev.touched a bs.length = [] →
      Runs (.hostMemoryWrite a bs) s (fun u => StoreFrame s u ∧ u.core = s.core ∧ u.dev.hostAnswer = .success ∧
        u.dev.regions = s.dev.regions ∧ ∀ x,
          (locked x → u.dev.byteAt x = s.dev.byteAt x) ∧
          (¬locked x → u.dev.byteAt x =
            if a ≤ x ∧ x < a + bs.length then (bs[x - a]?).getD 0 else s.dev.byteAt x)))) ∧
  (∀ (s : State), Runs .atomicopRequest s (fun u => CoresStay s u ∧ u.dev = { s.dev with hostAnswer := .unsupported })) ∧
  (∀ (s : State) (v : Nat), v < 2048 → Runs (.msixVectorUnmask v) s (fun u => CoresStay s u ∧
    (∀ k < 2048, u.dev.msixMask.getLsbD k = (s.dev.msixMask.getLsbD k && decide (k ≠ v)) ∧
      u.dev.msixPend.getLsbD k = (s.dev.msixPend.getLsbD k && decide (k ≠ v))) ∧
    u.dev.messages = (if s.dev.msixPend.getLsbD v = true then v :: s.dev.messages else s.dev.messages) ∧
    (∀ a, u.dev.byteAt a = s.dev.byteAt a) ∧ u.dev.pages = s.dev.pages)) ∧
  (∀ (s : State) (pasid : BitVec 20) (va frame : Nat), MemoryOk s →
    let page := findPage s.dev.pages pasid va
    let revoked := fun (p : Page) (c k : Core) => (∀ r, k.reg r = c.reg r) ∧ KeepsControl c k ∧ k.vec = c.vec ∧
      k.mat = c.mat ∧ k.xfer = c.xfer ∧ k.queues = c.queues ∧ k.store.spad = c.store.spad ∧ k.store.tiles = c.store.tiles ∧
      ∀ h, k.handle h = if (c.handle h).state = .valid ∧ p ∈ (c.handle h).pages
        then { c.handle h with state := .revoked, pages := [] } else c.handle h
    let gone := fun (p : Page) (u : State) => revoked p s.core u.core ∧
      (∀ i (h : i < s.others.length), ∃ k, u.others[i]? = some k ∧ revoked p s.others[i] k) ∧
      u.others.length = s.others.length ∧ u.dev.tcache = s.dev.tcache.filter (fun x => x.2 ≠ p)
    let rest := fun (p : Page) => s.dev.pages.filter (fun q => q ≠ p)
    -- accesses through the handles that are over the page now
    let inval := fun (p : Page) (move : Option Nat) => (⟨p, s.holders p, s.dev.cycle, move⟩ : Inval)
    let waits := fun (p : Page) (move : Option Nat) (u : State) => gone p u ∧ u.dev.pages = rest p ∧
      u.dev.mem = s.dev.mem ∧ u.dev.invals = s.dev.invals ++ [inval p move] ∧ u.dev.invalAcks = s.dev.invalAcks
    let told := fun (p : Page) (u : State) => gone p u ∧ u.dev.invals = s.dev.invals ∧
      u.dev.invalAcks = (p.pasid, p.va) :: s.dev.invalAcks
    (page = none → Runs (.revocation pasid va) s (fun u => u = s) ∧ Runs (.pageMoveRequest pasid va frame) s (fun u => u = s)) ∧
    (∀ p, page = some p →
      let moves := s.dev.mayMove (s.dev.movesOf pasid p.va) = true ∧ s.dev.mayMap (s.dev.pageAt p frame) = true
      Runs (.revocation pasid va) s (fun u =>
        if s.invalOpen (inval p none) = true then waits p none u
        else told p u ∧ u.dev.pages = rest p ∧ u.dev.mem = s.dev.mem) ∧
      (¬moves → Runs (.pageMoveRequest pasid va frame) s (fun u => u = s)) ∧
      (moves → Runs (.pageMoveRequest pasid va frame) s (fun u =>
        if s.invalOpen (inval p (some frame)) = true then waits p (some frame) u
        else told p u ∧ (∃ k, u.dev.pages = rest p ++ [{ p with frame := frame, kind := k }]) ∧
          ∀ x, u.dev.mem.get x = if frame ≤ x ∧ x < frame + 2 ^ p.bits then s.dev.mem.get (p.frame + (x - frame))
            else s.dev.mem.get x)))) ∧
  (∀ (s : State) (die : Nat),
    (s.dev.nextRemote die = none → Runs (.remoteWriteApply die) s (fun u => u = s)) ∧
    (∀ r, s.dev.nextRemote die = some r → Runs (.remoteWriteApply die) s (fun u => CoresStay s u ∧
      r.dst = die ∧ u.dev.remote = s.dev.remote.erase r ∧ (die, r.line) ∈ u.dev.marks ∧
      (∀ m ∈ s.dev.marks, m ∈ u.dev.marks) ∧ u.dev.mem = s.dev.mem))) ∧
  (∀ (s : State) (c : Nat) (r : AtomicReq), MemoryOk s →
     s.dev.atomics.find? (fun q => q.core = c && q.answer.isNone) = some r → r.page.kind = .host → (r.size = 4 ∨ r.size = 8) →
     let home := r.page.addr r.va
     let old := leNat (s.dev.bytesAt home r.size)
     home + r.size ≤ enumPage → s.dev.reachable .host home r.page.dieLocal = true →
     let cached := ((s.dev.windowOf home).map (fun x => x.cxlc)).getD false
     let told := fun (x : Path) (u : State) => CoresStay s u ∧ (∀ y, u.dev.windowOf home = some y → y.path = x) ∧
       (s.awaits r.id = true →
         { r with answer := some (x, old, (s.dev.readPage r.page r.va r.size).2) } ∈ u.dev.atomics) ∧
       (s.awaits r.id = false → ∀ q ∈ u.dev.atomics, q.id ≠ r.id)
     let refused := fun (x : Path) (u : State) => told x u ∧ u.dev.mem = s.dev.mem
     let answered := fun (x : AtomicAnswer) (P : State → Prop) => Runs (.atomicopCompletion c x) s P
     (∀ new : List Byte, (r.op = .add ∧ new = leBytes r.size (old + r.x) ∨ r.op = .swap ∧ new = leBytes r.size r.x ∨
         r.op = .cas ∧ new = (if old = r.x then leBytes r.size r.y else [])) →
       answered .success (fun u => told .atomicOp u ∧ Stored s u home new)) ∧
     (cached = true → answered .unsupported (refused .cache) ∧ answered .abort (refused .cache)) ∧
     (cached = false → answered .unsupported (refused .none) ∧ answered .abort (refused .none))) ∧
  (∀ (s : State) (i : Instr) (t : BitVec 3) (d a : BitVec 6) (j : BitVec 5) (h : BitVec 3) (w o : BitVec 1) (k : BitVec 2)
     (op : AmoOp) (y : Nat), s.core.nest = none →
     (i = .amoadd t d a h w o k ∧ op = .add ∧ y = 0 ∨ i = .amoswp t d a h w o k ∧ op = .swap ∧ y = 0 ∨
      i = .amocas t j a h w o k ∧ d = pairEven j ∧ op = .cas ∧ y = (s.core.reg (pairOdd j)).toNat) →
     let n := if w = 1 then 64 else 32
     let m := 2 ^ n
     let hd : BitVec 4 := h.setWidth 4
     let ofs := (s.core.reg a).toNat
     let va := (s.core.handle hd).va + BitVec.ofNat 64 ofs
     let stands := fun (u : State) => u.core.engS.pc = s.core.engS.pc ∧ (∀ r, u.core.reg r = s.core.reg r) ∧
       u.core.queues = s.core.queues ∧ u.core.scalar.flights = s.core.scalar.flights ∧ u.others = s.others
     let returns := fun (old : Nat) (bad : Option Word) (r : AtomicReq) (u : State) =>
       Passes s u .s ∧ TakesTokens s u .s t 0 ∧ u.core.scalar.sent = none ∧ u.dev.atomics = s.dev.atomics.filter (fun q => q.id ≠ r.id) ∧
       u.core.queues.pushes = s.core.queues.pushes ∧
       ∃ f notes, u.core.scalar.flights = s.core.scalar.flights ++ [f] ∧ f.sig = sigMask t ∧
         f.work = .load d (BitVec.ofNat 64 old) bad notes
     (∀ p, i.gate s = .go → s.sentOp i = none → s.core.handlePage hd ofs = some p → p.kind = .host →
       s.dev.route (p.addr va.toNat) op k = .atomicOp → Runs i s (fun u => stands u ∧ u.core.fails = s.core.fails ∧
         u.core.scalar.sent = some ⟨s.dev.atomicNext, i, s.core.engS.pc, none⟩ ∧
         u.dev = { s.dev with
           atomics := s.dev.atomics ++
             [⟨s.dev.atomicNext, s.core.id, p, va.toNat, op, n / 8, (s.core.reg d).toNat % m, y % m, none⟩],
           atomicNext := s.dev.atomicNext + 1 })) ∧
     (∀ r, s.sentOp i = some r → (∀ x, i.gate s ≠ .wait x) →
       (r.answer = none → Runs i s (fun u => stands u ∧ u.core.fails = s.core.fails ∧
         u.core.scalar.sent = s.core.scalar.sent ∧ u.dev = s.dev)) ∧
       (∀ x old bad, r.answer = some (x, old, bad) →
         (x = .atomicOp → Runs i s (fun u => returns old bad r u ∧ u.dev.mem = s.dev.mem)) ∧
         (x = .cache → i.gate s = .go → Runs i s (returns (leNat (s.readHandle hd ofs (n / 8)).1)
           (s.readHandle hd ofs (n / 8)).2 r)) ∧
         (x ≠ .atomicOp → x ≠ .cache → Runs i s (fun u => stands u ∧ u.dev = s.dev ∧
           u.core.fails = s.core.fails ++ [⟨.s, 0x10, BitVec.ofNat 64 r.va, s.core.wordAddr .s⟩])))))

/-! ### Peers (spec/17 R310 to R313) -/

/-- R252, R310 to R313, R234: a READ is answered with its bytes and their poison, a WRITE stores the bytes of its mask and an OP
its result, each answered over a working link to the asker; both are aborted on a bound plane region and change nothing.
READDATA and OPDATA retire the word that waits for their tag, poisoned data with POISON at S, bring a line to X, or give
the flags of an update; an ACK ends a write; the tag is free again for a request that waits. A flit is taken once, in
sequence, and acknowledges what was sent; one whose CRC fails or that skips ahead asks for a retry, which sends again what
is not acknowledged. A link that fails announces itself, its traffic takes another link, and a request that no route can
reach any more is poison, or a lost write. A READ and an OP wait for the flush of a release that is deferred on a line of
theirs, which they have begin (R252). The status codes 0 for performed and 1 for Completer Abort (log 39), one packet in a flit,
the numbering of every flit and TVAL as the virtual address of the line are the model's (logs 84, 92). Completing: READ, WRITE, OP, READDATA, OPDATA, ACK, FLIT_RECEIVE,
PEER_LINK_FAIL. -/
def Obligations.Peers : Prop :=
  (∀ (s : State) (req tag : BitVec 8) (addr : Word) (r : Nat × Nat), MemoryOk s →
    s.dev.routes.find? (fun r => r.1 = req.toNat && bitOf s.dev.peerLinks r.2) = some r →
    let f := addr.toNat % 2 ^ 40
    let key := addr.toNat / 2 ^ 40 % 4096
    let kind := s.dev.kindAt f
    let seq := (s.dev.sendSeq[r.2]?).getD 0
    let answers := fun (p : Packet) (u : State) => CoresStay s u ∧
      u.dev.peerOut = s.dev.peerOut ++ [(r.2, ⟨seq, (s.dev.peerSeq[r.2]?).getD 0 - 1, bitOf s.dev.peerRetry r.2, [p]⟩)] ∧
      u.dev.unacked = s.dev.unacked ++ [⟨r.2, seq, req.toNat, [p]⟩] ∧
      u.dev.sendSeq = s.dev.sendSeq.setIfInBounds r.2 (seq + 1)
    let bad := fun (len : Nat) => (linesOf f len).any (fun l => s.dev.linePoisoned kind key l || !s.dev.reachable kind (64 * l) none)
    let waits := fun (len : Nat) (p : Packet) (u : State) => CoresStay s u ∧ u.dev.peerHeld = s.dev.peerHeld ++ [p] ∧
      u.dev.peerOut = s.dev.peerOut ∧ u.dev.mem = s.dev.mem ∧ u.dev.lazy = s.dev.lazy.map (fun z =>
        if z.line ∈ linesOf f len then { z with due := s.dev.cycle } else z)
    let held := fun (len : Nat) => (linesOf f len).any (s.dev.lineHeld none)
    (∀ len,
      (held len = false → Runs (.read req tag addr len) s (fun u =>
        answers (.readData tag (s.dev.bytesAt f len) (bad len)) u ∧ u.dev.mem = s.dev.mem)) ∧
      (held len = true → Runs (.read req tag addr len) s (waits len (.read req tag addr len)))) ∧
    (∀ (mask : List Bool) (data : List Byte) (scope : BitVec 2),
      (s.dev.meetsBound f data.length = true → Runs (.write req tag addr mask data scope) s (fun u =>
        answers (.ack tag 1) u ∧ u.dev.mem = s.dev.mem)) ∧
      (s.dev.meetsBound f data.length = false → Runs (.write req tag addr mask data scope) s (fun u => answers (.ack tag 0) u ∧
        (mask.length = data.length → (∀ x, f ≤ x → x < f + data.length → s.dev.reachable kind x none = true) →
          ∀ x, u.dev.mem.get x =
            if f ≤ x ∧ x < f + data.length ∧ (mask[x - f]?).getD false = true then (data[x - f]?).getD 0
            else s.dev.mem.get x)))) ∧
    (∀ (o : AmoOp) (wide acq rel : Bool) (x y : Word),
      let n := if wide then 8 else 4
      let m := 2 ^ (8 * n)
      let old := leNat (s.dev.bytesAt f n)
      let new := amoNew o (8 * n) old (x.toNat % m) (y.toNat % m)
      (s.dev.meetsBound f n = true → Runs (.op req tag addr o wide x y acq rel) s (fun u =>
        answers (.opData tag 0 1) u ∧ u.dev.mem = s.dev.mem)) ∧
      (s.dev.meetsBound f n = false → held n = true →
        Runs (.op req tag addr o wide x y acq rel) s (waits n (.op req tag addr o wide x y acq rel))) ∧
      (s.dev.meetsBound f n = false → held n = false →
        Runs (.op req tag addr o wide x y acq rel) s (fun u => answers (.opData tag (BitVec.ofNat 64 old) 0) u ∧
          (s.dev.reachable kind f none = true → ∀ z, u.dev.mem.get z =
            if f ≤ z ∧ z < f + n ∧ (o = .cas → old = x.toNat % m) then BitVec.ofNat 8 (new / 256 ^ (z - f))
            else s.dev.mem.get z))))) ∧
  -- answers
  (∀ (s : State) (tag : BitVec 8),
    let ask := s.dev.peerReqs.find? (fun r => r.tag = some tag)
    (ask = none → (∀ data b, Runs (.readdata tag data b) s (fun u => u = s)) ∧
      (∀ old k, Runs (.opdata tag old k) s (fun u => u = s)) ∧ ∀ k, Runs (.ack tag k) s (fun u => u = s)) ∧
    (∀ q, ask = some q → q.core = s.core.id → (∀ r ∈ s.dev.peerReqs, r.tag ≠ none) →
      let rest := { s.dev with peerReqs := s.dev.peerReqs.filter (fun r => r.id ≠ q.id) }
      let ended := fun (u : State) => CoresStay s u ∧ u.dev = rest
      let moves := fun (x : TransferSide) (u : State) => u.dev = rest ∧ u.others = s.others ∧ u.core = { s.core with xfer := x }
      (q.live = false → (∀ data b, Runs (.readdata tag data b) s ended) ∧ (∀ old k, Runs (.opdata tag old k) s ended) ∧
        ∀ k, Runs (.ack tag k) s ended) ∧
      (q.live = true →
        (q.kind = .write ∨ q.kind = .xwrite → ∀ k, Runs (.ack tag k) s ended) ∧
        (q.kind = .xread → ∀ data b, Runs (.readdata tag data b) s (moves { s.core.xfer with
          lines := s.core.xfer.lines.map (fun l => if l.id = q.id then { l with data := some (data, b) } else l) })) ∧
        (∀ fmt o x, q.kind = .xred fmt o x → ∀ old k, Runs (.opdata tag old k) s (moves { s.core.xfer with
          sent := s.core.xfer.sent.map (fun y => (y.1 ||| (redElem fmt o old.toNat x).2, y.2)) })) ∧
        (q.kind = .load → ∀ (d : BitVec 6) (size : Nat) (sext acq : Bool) (f : SFlight) (pre post : List SFlight),
          s.core.scalar.flights = pre ++ f :: post → f.work = .peer (some d) q.id size sext acq →
          (∀ g ∈ pre ++ post, ∀ d n b c, g.work ≠ .peer d q.id n b c) →
          let retired := fun (u : State) => u.core.scalar.flights = pre ++ post ∧
            Pushes s u (retirePush 0 0 f.sig .none) ∧ u.dev = rest ∧ KeepsControl s.core u.core ∧
            KeepsUnits s.core u.core ∧ u.core.store = s.core.store ∧ KeepsMemory s u
          let loads := fun (v : Nat) (u : State) => retired u ∧
            u.core.reg d = (if d = 0 then 0 else if sext then BitVec.ofInt 64 (signed (8 * size) v) else BitVec.ofNat 64 v) ∧
            (∀ r, r ≠ d → u.core.reg r = s.core.reg r) ∧ u.core.fails = s.core.fails
          (∀ data, Runs (.readdata tag data false) s (loads (leNat data)) ∧
            Runs (.readdata tag data true) s (fun u => retired u ∧ (∀ r, u.core.reg r = s.core.reg r) ∧
              u.core.fails = s.core.fails ++ [⟨.s, 0x83, q.va, s.core.engS.pc⟩])) ∧
          ∀ (old : Word) (status : BitVec 8), Runs (.opdata tag old status) s (loads old.toNat)))) ∧
    -- the tag goes to the request that waits for one
    (∀ q w r, s.dev.peerReqs = [q, w] → q.tag = some tag → w.tag = none → q.id ≠ w.id → q.core = s.core.id →
      (q.kind = .write ∨ q.live = false) → s.dev.linkTo w.dev = some r → ∀ k, Runs (.ack tag k) s (fun u => CoresStay s u ∧
        u.dev.peerReqs = [{ w with tag := some 0 }] ∧
        ∃ flit, u.dev.peerOut = s.dev.peerOut ++ [(r, flit)] ∧ flit.packets = [Packet.withTag w.packet 0]))) ∧
  -- flits
  (∀ (t : State),
    (∀ req tag a len, exec (.read req tag a len) t = .next (t.receive (.read req tag a len))) ∧
    (∀ tag data b, exec (.readdata tag data b) t = .next (t.receive (.readData tag data b))) ∧
    (∀ req tag a m data k, exec (.write req tag a m data k) t = .next (t.receive (.write req tag a m data k))) ∧
    (∀ req tag a o w x y q r, exec (.op req tag a o w x y q r) t = .next (t.receive (.op req tag a o w x y q r))) ∧
    (∀ tag old k, exec (.opdata tag old k) t = .next (t.receive (.opData tag old k))) ∧
    (∀ tag k, exec (.ack tag k) t = .next (t.receive (.ack tag k)))) ∧
  (∀ (s : State) (link : Nat) (seq ackd : BitVec 12) (again : Bool) (ps : List Packet), link < 12 →
    let want := (s.dev.peerSeq[link]?).getD 0
    let flit := fun (x : FlitCheck) => Runs (.flitReceive link seq ackd x ps) s
    let kept := s.dev.unacked.filter (fun x => !decide (x.link = link) || decide (2048 ≤ (ackd - x.seq).toNat))
    let resent := (kept.filter (fun x => x.link = link)).map (fun x =>
      (link, (⟨x.seq, want - 1, bitOf s.dev.peerRetry link, x.packets⟩ : Flit)))
    let heard := { s.dev with unacked := kept, peerOut := s.dev.peerOut ++ (if again then resent else []) }
    let asks := fun (d : Device) (u : State) => CoresStay s u ∧
      let n := (d.sendSeq[link]?).getD 0
      u.dev = { d with
        peerRetry := d.peerRetry.setIfInBounds link true
        sendSeq := d.sendSeq.setIfInBounds link (n + 1)
        unacked := d.unacked ++ [⟨link, n, 0, []⟩]
        peerOut := d.peerOut ++ [(link, ⟨n, want - 1, true, []⟩)] }
    (bitOf s.dev.peerLinks link = false → flit .bad (fun u => u = s) ∧ flit (.good again) (fun u => u = s)) ∧
    (bitOf s.dev.peerLinks link = true →
      flit .bad (asks s.dev) ∧
      (seq ≠ want → (seq - want).toNat < 2048 → flit (.good again) (asks heard)) ∧
      (2048 ≤ (seq - want).toNat → flit (.good again) (fun u => u = { s with dev := heard })) ∧
      (seq = want → flit (.good again) (fun u =>
        u = ps.foldl State.receive { s with dev := { heard with
          peerRetry := s.dev.peerRetry.setIfInBounds link false,
          peerSeq := s.dev.peerSeq.setIfInBounds link (want + 1) } })))) ∧
  -- a link that fails
  (∀ (s : State) (link : Nat),
    let links := s.dev.peerLinks.setIfInBounds link false
    let reach := fun (q : PeerReq) => s.dev.routes.any (fun x => x.1 = q.dev && bitOf links x.2)
    let failed := ({ s.dev with peerLinks := links } : Device).raiseEvent 2045
    Runs (.peerLinkFail link) s (fun u => u.dev.peerLinks = links ∧ u.dev.mem = s.dev.mem ∧
      u.dev.messages = failed.messages ∧ u.dev.msixPend = failed.msixPend) ∧
    ((∀ x ∈ s.dev.unacked, x.link ≠ link) →
      ((∀ q ∈ s.dev.peerReqs, reach q = true ∧ q.tag ≠ none) →
        Runs (.peerLinkFail link) s (fun u => CoresStay s u ∧ u.dev = failed)) ∧
      (∀ q, s.dev.peerReqs = [q] → reach q = false → q.live = true →
        (q.kind = .write ∨ q.kind = .xwrite → Runs (.peerLinkFail link) s (fun u => CoresStay s u ∧
          u.dev = { failed with peerReqs := [], lostLines := s.dev.lostLines ++ [(q.core, q.va.toNat)] })) ∧
        (q.kind = .load → q.core = s.core.id → ∀ f d n b c, s.core.scalar.flights = [f] → f.work = .peer d q.id n b c →
          Runs (.peerLinkFail link) s (fun u => u.dev = { failed with peerReqs := [] } ∧ u.core.scalar.flights = [] ∧
            u.core.fails = s.core.fails ++ [⟨.s, 0x83, q.va, s.core.engS.pc⟩] ∧
            (∀ r, u.core.reg r = s.core.reg r) ∧ u.others = s.others)))) ∧
    (∀ x r, s.dev.unacked = [x] → x.link = link → x.packets ≠ [] → s.dev.peerReqs = [] →
      s.dev.routes.find? (fun y => y.1 = x.dev && bitOf links y.2) = some r →
      let n := (s.dev.sendSeq[r.2]?).getD 0
      Runs (.peerLinkFail link) s (fun u => CoresStay s u ∧ u.dev.unacked = [⟨r.2, n, x.dev, x.packets⟩] ∧
        ∃ flit, u.dev.peerOut = s.dev.peerOut ++ [(r.2, flit)] ∧ flit.seq = n ∧ flit.packets = x.packets)))

/-! ### The package and its management (spec/19) -/

/-- R321, R324, R333, R334, R340: a link that retrains, comes back or goes DOWN changes its state in the rewritten table;
every die that a DOWN link cuts off from the live component, over the links that are not DOWN, begins to be isolated; its
cores stop, and once that is confirmed the table shows it and every region with a core there ends with DIEISOLATED. The
model's choices: the table shows an isolation at its confirmation (log 49), a link that is DOWN stays DOWN (log 57), and the
live component is taken over the links that are not DOWN, where R333 says UP links (log 112). Throttling is announced and changes no state of a core. Completing, in every state: RILL_LINK_RETRAINING, RILL_LINK_UP,
RILL_LINK_DOWN, DIE_ISOLATION_STOP, ISOLATION_CONFIRM, DIE_THROTTLE. -/
def Obligations.PackageEvents : Prop :=
  (∀ (s : State) (l : Nat),
    let state := (s.dev.links[l]?).getD .up
    let is := s.dev.hasLink l = true
    let becomes := fun (x : Link) (u : State) => CoresStay s u ∧ u.dev.links = s.dev.links.setIfInBounds l x ∧
      u.dev.enumGen = s.dev.enumGen + 2 ∧ (∀ a, u.dev.mem.get a = s.dev.mem.get a) ∧ u.dev.regions = s.dev.regions
    let same := fun (u : State) => u = s
    Runs (.rillLinkRetraining l) s (fun u => if is ∧ state = .up then becomes .retraining u ∧
        u.dev.retrainAt = (l, s.dev.wall) :: s.dev.retrainAt.filter (fun y => y.1 ≠ l) ∧
        (u.dev.glaes.counters.retrains[l]?).getD 0 = (let n := (s.dev.glaes.counters.retrains[l]?).getD 0
          if n = BitVec.allOnes 32 then n else n + 1)
      else same u) ∧
    Runs (.rillLinkUp l) s (fun u => if is ∧ state = .retraining then becomes .up u else same u) ∧
    Runs (.rillLinkDown l) s (fun u => if is ∧ state ≠ .down then becomes .down u ∧ u.dev.degraded = true ∧
        ∃ cut, u.dev.stopAt = s.dev.stopAt ++ cut ∧ (∀ x ∈ cut, x.2 = s.dev.wall) ∧
          ∀ die, die ∈ cut.map (·.1) ↔ die < s.dev.dies ∧ die ∉ u.dev.liveDies ∧ bitOf s.dev.isolated die = false ∧
            bitOf s.dev.failed die = false ∧ ∀ x ∈ s.dev.stopAt, x.1 ≠ die
      else same u)) ∧
  (∀ (s : State) (die : Nat),
    let here := fun (c : Core) => c.running && decide (s.dev.dieOf c.id = die)
    let stops := fun (u : State) => (∀ c ∈ u.cores, s.dev.dieOf c.id = die → c.running = false) ∧
      (∀ c ∈ s.cores, s.dev.dieOf c.id ≠ die → c ∈ u.cores)
    Runs (.dieIsolationStop die) s (fun u => stops u ∧
      u.dev = { s.dev with
        peerReqs := s.dev.peerReqs.map (fun r =>
          if s.cores.any (fun c => c.id = r.core && here c) then { r with live := false } else r) }) ∧
    let shown := fun (u : State) => u.dev.isolated = s.dev.isolated.setIfInBounds die true ∧
      (die < 8 → u.dev.degraded = true) ∧ u.dev.enumGen = s.dev.enumGen + 2 ∧
      u.dev.stopAt = s.dev.stopAt.filter (fun x => x.1 ≠ die) ∧
      ∀ c ∈ u.cores, s.dev.dieOf c.id = die → c.running = false
    Runs (.isolationConfirm die) s (fun u => ∃ t, shown t ∧ stops t ∧ u = (s.regionsOn die).foldl (fun t x =>
      State.faultRegion (t.dev.regions.length + 1) t x.1
        ⟨1, 0x86, 0, x.2.id, BitVec.ofNat 64 die, x.2.engS.pc, ((t.dev.region? x.1).map (·.rcb)).getD 0⟩) t) ∧
    (∀ k c r, s.regionsOn die = [(k, c)] → s.dev.region? k = some r → r.domain = 0 → r.ending = none →
      (∀ q ∈ s.dev.peerReqs, q.region = some k → q.isWrite = false) → (∀ x ∈ s.dev.regions, x.parent ≠ some k) → (∀ x ∈ s.dev.ccbs, x.heldArgs = none) →
      Runs (.isolationConfirm die) s (fun u => shown u ∧ u.dev.region? k = none ∧
        ∀ x ∈ u.cores, x.job.region ≠ some k)) ∧
    ∀ begins, Runs (.dieThrottle die begins) s (fun u => CoresStay s u ∧
      u.dev.throttled = s.dev.throttled.setIfInBounds die (if begins then some s.dev.wall else none) ∧
      u.dev.cycle = s.dev.cycle ∧ u.dev.mem = s.dev.mem))

/-- R305, R310, R324, R331 to R333, R335 to R340: the semaphore is taken, renewed, released and lost as its lease says, and
of two ports that ask together the one that did not hold it last takes it; a command that needs it answers NOSEM to any
other port and changes nothing. Staged bytes stand at their offset; a commit that does not verify is BADSIG; a key slot is
filled or emptied for a secured session; a policy waits for the next reset; DEBUG is pending on the running core. A reset
leaves an idle machine with its memory, and power-on one in reduced service with none; training ends that, assigns device
ID and route table, and the dies that failed links cut off begin to be isolated. The model's choices: the layout of a reply
and its rounding (log 40), with 64 banks in each stack (log 85), what a device reset keeps, of the mappings those that reduced
service allows (log 41), and that a commit leaves nothing staged (log 59). Completing, in every state: SEMGET, SEMPUT, SEMAPHORE_LEASE_EXPIRY, GETENUM, GETCOUNTERS,
GET_MEASUREMENTS, COUNTER_PERSIST, IMAGESTAGE, IMAGECOMMIT, KEYINSTALL, KEYDESTROY, SETPOLICY, DEBUG, RESET,
DEVICE_RESET, POWER_ON, POWER_LOSS, TRAINING_COMPLETE. -/
def Obligations.Management : Prop :=
  (∀ (s : State) (p q : Port), p ≠ q →
    let g := s.dev.glaes
    let mine := g.holder = some p
    let tells := fun (bs : List Byte) (u : State) => CoresStay s u ∧ u.dev = { s.dev with glaes := { g with reply := bs } }
    let ms := fun (n : Nat) => if n = 0 ∨ 10000 < n then 10000 else n
    let taken := fun (n : Nat) (u : State) => CoresStay s u ∧
      u.dev = { s.dev with glaes := { g with holder := some p, lastHolder := some p, lease := s.dev.wall + msUnits (ms n),
                                             reply := [0, 0, 0, 0, 0] } }
    (∀ n, (mine ∨ (g.holder = none ∧ rivalLease p s.dev.inbox = none)) → Runs (.semget p n) s (taken n)) ∧
    (∀ n r, g.holder = none → rivalLease p s.dev.inbox = some r → Runs (.semget p n) s (fun u =>
      if g.lastHolder = some p ∨ (g.lastHolder = none ∧ p = .i3c)
      then tells (0 :: leBytes 4 (portNum r.1 + ms r.2 * 2 ^ 8)) u else taken n u)) ∧
    (∀ n, g.holder = some q → Runs (.semget p n) s
      (tells (0 :: leBytes 4 (portNum q + (g.lease - s.dev.wall + msUnits 1 - 1) / msUnits 1 * 2 ^ 8)))) ∧
    (mine → Runs (.semput p) s (fun u => CoresStay s u ∧
      u.dev = { s.dev with glaes := { g with holder := none, reply := [0] } })) ∧
    Runs .semaphoreLeaseExpiry s (fun u => CoresStay s u ∧
      u.dev = { s.dev with glaes := { g with holder := none, staged := [] } }) ∧
    (¬mine → Runs (.semput p) s (tells [1]) ∧ (∀ off data, Runs (.imagestage p off data) s (tells [1])) ∧
      (∀ k, Runs (.imagecommit p k) s (tells [1])) ∧
      (∀ sec slot key, Runs (.keyinstall p sec slot key) s (tells [1]) ∧ Runs (.keydestroy p sec slot) s (tells [1])) ∧
      (∀ rs mib, Runs (.setpolicy p rs mib) s (tells [1])) ∧ (∀ c, Runs (.debug p c) s (tells [1])) ∧
      Runs (.reset p) s (tells [1])) ∧
    Runs (.getenum p) s (tells (0 :: (List.range 1280).map s.dev.enumByte)) ∧
    Runs (.getcounters p) s (fun u => CoresStay s u ∧ u.dev.mem = s.dev.mem ∧ u.dev.glaes.holder = g.holder ∧
      ∃ bs, u.dev.glaes.reply = 0 :: bs ∧ bs.length = 3484) ∧
    (∀ i, Runs (.getMeasurements i) s (tells (if 1 ≤ i ∧ i ≤ 6 then 0 :: Config.measurement i (s.dev.measured i) else [2]))) ∧
    Runs .counterPersist s (fun u => CoresStay s u ∧ u.dev.mem = s.dev.mem ∧ u.dev.glaes.saved = u.dev.glaes.counters) ∧
    (mine →
      (∀ (off : Nat) (data : List Byte), Runs (.imagestage p off data) s (fun u => CoresStay s u ∧ u.dev.glaes.reply = [0] ∧
        (∀ k < data.length, u.dev.glaes.staged[off + k]? = data[k]?) ∧
        (∀ k < g.staged.length, k < off → u.dev.glaes.staged[k]? = g.staged[k]?))) ∧
      (∀ k : ImageKind,
        let num := match k with | .firmware => 0 | .baseDie => 1 | .decodeTable => 2
        let sec := Config.imageField 1 g.staged
        let good := Config.signatureOk num g.staged = true ∧ (g.minSec[num]?).getD 0 ≤ sec
        (good → Runs (.imagecommit p k) s (fun u => CoresStay s u ∧ u.dev.glaes.reply = [0] ∧
          u.dev.glaes.minSec = g.minSec.setIfInBounds num sec ∧ u.dev.glaes.staged = [] ∧
          let image := some (Config.imageField 0 g.staged, g.staged)
          (k = .firmware → u.dev.glaes.nextFw = image) ∧ (k = .baseDie → u.dev.glaes.nextBd = image) ∧
          (k = .decodeTable → u.dev.glaes.nextDt = image))) ∧
        (¬good → Runs (.imagecommit p k) s (fun u => CoresStay s u ∧ u.dev.glaes = { g with staged := [], reply := [3] }))) ∧
      (∀ slot key,
        let only := fun (u : State) => CoresStay s u ∧ u.dev.glaes = { g with reply := [0] } ∧ u.dev.mem = s.dev.mem ∧
          ∀ k, k ≠ slot → u.dev.keyGenOf k = s.dev.keyGenOf k
        Runs (.keyinstall p false slot key) s (tells [4]) ∧ Runs (.keydestroy p false slot) s (tells [4]) ∧
        (slot = 0 ∨ 4096 ≤ slot → Runs (.keyinstall p true slot key) s (tells [2]) ∧
          Runs (.keydestroy p true slot) s (tells [2])) ∧
        (0 < slot → slot < 4096 →
          Runs (.keyinstall p true slot key) s (fun u => only u ∧ u.dev.keyGenOf slot = some (s.dev.keyGen + 1)) ∧
          Runs (.keydestroy p true slot) s (fun u => only u ∧ u.dev.keyGenOf slot = none))) ∧
      (∀ rs mib, Runs (.setpolicy p rs mib) s (fun u =>
        if (∀ r ∈ rs, r.fmt = 0 ∨ r.fmt = 1 ∨ r.fmt = 2 ∨ r.fmt = 10 ∨ r.fmt = 11) ∧ mib < 2 ^ 16 then CoresStay s u ∧
          u.dev = { s.dev with glaes := { g with nextPolicy := ⟨rs, BitVec.ofNat 16 mib⟩, reply := [0] } }
        else tells [2] u)) ∧
      (∀ c,
        let debugged := fun (k : Core) => if k.id = c ∧ k.running = true
          then { k with scalar := { k.scalar with ipend := k.scalar.ipend ||| 4 } } else k
        (s.dev.liveCores ≤ c → Runs (.debug p c) s (tells [2])) ∧
        (c < s.dev.liveCores → Runs (.debug p c) s (fun u => u.core = debugged s.core ∧
          u.others = s.others.map debugged ∧ u.dev = { s.dev with glaes := { g with reply := [0] } }))) ∧
      Runs (.reset p) s (fun u => u.core = Core.idle 0 ∧ u.others = [] ∧ u.dev.regions = [] ∧ u.dev.cycle = 0 ∧
        u.dev.glaes.reply = [0] ∧ u.dev.glaes.holder = none))) ∧
  (∀ (s : State), MemoryOk s →
    let g := s.dev.glaes
    let idle := fun (u : State) => u.core = Core.idle 0 ∧ u.others = [] ∧ u.dev.regions = [] ∧ u.dev.ccbs = [] ∧
      u.dev.cycle = 0 ∧ u.dev.powered = true ∧ u.dev.reduced = true ∧ u.dev.tags = Vector.replicate 8 Tag.reset ∧
      u.dev.planes = [] ∧ u.dev.glaes.holder = none ∧ u.dev.glaes.policy = g.nextPolicy
    Runs .deviceReset s (fun u => idle u ∧ u.dev.keys = s.dev.keys ∧
      u.dev.glaes.counters = { g.counters with throttle := u.dev.glaes.counters.throttle } ∧
      ((∀ t ∈ s.dev.throttled.toList, t = none) → u.dev.glaes.counters = g.counters) ∧
      u.dev.glaes.persistAt = g.persistAt - s.dev.wall ∧
      u.dev.flaws = s.dev.flaws ∧ u.dev.poison = s.dev.poison ∧ u.dev.lineKeys = s.dev.lineKeys ∧
      u.dev.pages = s.dev.pages.filter (fun p => (p.kind ≠ .device ∧ p.kind ≠ .code) ∨ p.dieLocal = some 0) ∧
      (∀ a, a < planeBase 0 → u.dev.mem.get a = s.dev.mem.get a) ∧ (∀ a, hostBase ≤ a → u.dev.mem.get a = s.dev.mem.get a)) ∧
    Runs .powerOn s (fun u => idle u ∧ u.dev.keys = [] ∧ u.dev.flaws = [] ∧ u.dev.poison = [] ∧ (∀ a, a < hostBase → u.dev.mem.get a = 0) ∧
      (∀ a, hostBase ≤ a → u.dev.mem.get a = s.dev.mem.get a) ∧
      u.dev.glaes.counters = { g.saved with power := satAdd g.saved.power 1 }) ∧
    Runs .powerLoss s (fun u => CoresStay s u ∧ u.dev.powered = false ∧ u.dev.glaes.counters = g.saved) ∧
    ∀ dies links, Runs (.trainingComplete dies links) s (fun u => CoresStay s u ∧
      if s.dev.reduced = true then u.dev.reduced = false ∧ u.dev.enumGen = s.dev.enumGen + 2 ∧ u.dev.mem = s.dev.mem ∧
        u.dev.devId = Config.deviceId ∧ u.dev.routes = Config.routes ∧
        (∀ die, die ∈ u.dev.stopAt.map (·.1) ↔ die ∈ s.dev.stopAt.map (·.1) ∨ (die < s.dev.dies ∧ die ∉ u.dev.liveDies ∧
          bitOf u.dev.isolated die = false ∧ bitOf u.dev.failed die = false)) ∧
        (∀ x < 8, bitOf u.dev.failed x = (bitOf s.dev.failed x || dies.contains x)) ∧
        (∀ l < 10, s.dev.links[l]? = some .up → (u.dev.links[l]?).getD .up = if links.contains l then .down else .up)
      else u = s))

/-! ### The machine as a whole (spec/02, spec/15) -/

/-- R19, R46, R47, R73, R81, R97, R121, R128, R146, R152, R203, R207, R211, R230, R339: what reset leaves: reduced service,
no core running, cycle 0, no tag claimed; and a core at its region-start values, whose registers are zero but for SLIP at
128, IEN at 7 and the partition word 0x21. Where the manual gives a register no value, zero is the model's choice (log 4);
so is reset memory that reads zero (log 3). -/
def Obligations.ResetLeaves : Prop :=
  let s := State.reset
  let c := s.core
  MemoryOk s ∧ s.dev.powered = true ∧ s.dev.reduced = true ∧ s.dev.cycle = 0 ∧ s.others = [] ∧ c.running = false ∧
  s.dev.regions = [] ∧ s.dev.ccbs = [] ∧ s.dev.planes = [] ∧ (∀ g, (s.dev.tag g).owner = none) ∧
  (∀ r, c.reg r = 0) ∧ (∀ p : BitVec 8, c.vec.regs[p.toNat]'p.isLt = 0) ∧ (∀ m : BitVec 2, c.vec.masks[m.toNat]'m.isLt = 0) ∧
  (∀ k : BitVec 7, c.mat.accs[k.toNat]'k.isLt = 0) ∧ c.vec.window = 0 ∧ c.vec.latch = 0 ∧
  c.scalar.slip = 128 ∧ c.scalar.fpmode = 0 ∧ c.scalar.fpflags = 0 ∧ c.scalar.tvec = 0 ∧ c.scalar.tcause = 0 ∧
  c.scalar.tval = 0 ∧ c.scalar.timer = 0 ∧ c.scalar.ien = 7 ∧ c.scalar.ipend = 0 ∧ c.scalar.handler = false ∧
  (∀ l : Fin 6, c.active.levels[l.val] = ⟨1, 0, 0⟩ ∧ c.shadow.levels[l.val] = ⟨1, 0, 0⟩) ∧
  (∀ (q : Fin 16) (f : Fin 18), (c.active.streams[q.val])[f.val] = 0 ∧ (c.shadow.streams[q.val])[f.val] = 0) ∧
  c.store.part = 0x21 ∧ (∀ i : BitVec 6, (c.tile i).used = false) ∧ (∀ h : BitVec 4, (c.handle h).state = .invalid) ∧
  ∀ a, a < enumPage → s.dev.byteAt a = 0

/-- Every step keeps device memory and every scratchpad in canonical form (log 3), so that a byte that is written is the
byte that is read. -/
def Obligations.StepKeepsMemoryCanonical : Prop :=
  ∀ s t : State, MemoryOk s → step s = .next t → MemoryOk t

/-- R14, R31 to R39: the word that encodes a well-formed instruction decodes to that instruction, at every value of its
fields. -/
def Obligations.DecodeOfEncode : Prop :=
  ∀ (i : Instr) (w : W32), encode i = some w → i.wellFormed = true → decodeWord w = .ok i

/-- R33, R37, R38: a word that decodes is the encoding of a well-formed instruction, so that no two words stand for one
instruction and no reserved bit is ignored. -/
def Obligations.EncodeOfDecode : Prop :=
  ∀ (w : W32) (i : Instr), decodeWord w = .ok i → encode i = some w ∧ i.wellFormed = true

/-- R31 to R36: words that the manual writes out decode to the instructions it gives them. -/
def Obligations.DecodingSamples : Prop :=
  decodeWord 0x00291E68 = .ok (.add 0 18 15 13) ∧ decodeWord 0x00441048 = .ok (.mul 0 8 8 9) ∧
  decodeWord 0x00A411FF = .ok (.addi 0 8 8 0x1FF) ∧ decodeWord 0x023FFFFC = .ok (.bcq 0 0x1FFFFC) ∧
  decodeWord 0x02FF8009 = .ok (.crr 0 63 9) ∧ decodeWord 0x02C028B0 = .ok (.callk 0 10 22) ∧
  decodeWord 0x03E38F00 = .ok (.nest 0 7 7 1) ∧ decodeWord 0x3E800A91 = .ok (.xlatRw 7 0 5 18) ∧
  decodeWord 0x057F8000 = .ok (.lds 0 63 0 0) ∧ decodeWord 0x40884000 = .ok (.vfma 0 2 0 8 0 0) ∧
  decodeWord 0x42C84210 = .ok (.vxor 0 2 0 8 8 8) ∧ decodeWord 0x98200088 = .ok (.mma 3 0 0 2 0 0 1 0) ∧
  decodeWord 0xB8A05C00 = .ok (.mout 7 1 7 0 0) ∧ decodeWord 0xD82A8E00 = .ok (.xmov 3 5 4 0 1 3 0 0) ∧
  decodeWord 0xC1000E00 = .ok (.xsync 0 0 1 3)

/-- R15 to R17, R20, R38, R88, R140, R190: at the turn of an engine, outside a nest, the word at its counter that is its own
runs as the instruction it decodes to, or is ILLEGAL; of another engine's words it follows a path word, waits at NEST and HALT,
and passes the others; S fetches a line that is not in the caches, where other engines wait at one they could not fetch until S
has come to it. In a nest cycle that can issue, the word due runs with its indices. Before S's word the control writes and
faults of the words that retire in this cycle show (R121, R149). The order of the turns within a cycle is the model's
(log 1). -/
def Obligations.StepRunsDecoded : Prop :=
  ∀ (s : State) (e : Engine) (w : W32), s.dev.powered = true → s.dev.inbox = [] → s.dev.turn = false →
    s.core.running = true → s.core.job.started ≤ s.dev.cycle → s.core.phase = issuePhase e → s.core.stopped = false →
    s.core.failed e = false → (s.core.scalar.handler = true ∨ s.core.returning = true → e = .s) → s.core.walk = none →
    (e = .s → s.core.earlyDue = true → step s = .next (s.onCore Core.early)) ∧
    ((e = .s → s.core.earlyDue = false) →
    (s.core.nest = none →
      (e = .s → s.core.scalar.hold = .none ∧ s.core.scalar.late = [] ∧ s.core.faultComing = false ∧ s.core.fetchHeld = false) →
      let pc := (s.core.eng e).pc
      let line := pc &&& ~~~127
      let at' := if e = .s then s.onCore (fun c => { c with unfetched := c.unfetched.filter (· ≠ line) }) else s
      let waits := fun (t : State) => step s = .next (t.onCore (fun c => c.stallTurn e (c.quietStall e)))
      (e = .s → s.fetchWord pc = none → step s = exec (.instructionFetch pc) s) ∧
      (e ≠ .s → line ∈ s.core.unfetched → waits s) ∧
      ((e ≠ .s → line ∉ s.core.unfetched) → s.fetchWord pc = some w →
      (wordEngine w = e →
        (∀ i, decodeWord w = .ok i → (∀ t r k b, i ≠ .nest t r k b) → step s = exec i at') ∧
        (∀ t r k b, decodeWord w = .ok (.nest t r k b) → s.missingBody (r.toNat + 1) = none →
          step s = exec (.nest t r k b) at') ∧
        (∀ x, decodeWord w = .error x → step s = .next (at'.onCore (fun c => (c.addFail e 0x01 (w.setWidth 64)).endTurn e)))) ∧
      (wordEngine w ≠ e →
        (isNestWord w = true ∨ isHaltWord w = true → waits at') ∧
        (isNestWord w = false → isHaltWord w = false → s.core.slipOk e = true →
          (isPathWord w = true → e ≠ .s → step s = exec (.pathEntryPop e) s) ∧
          (isPathWord w = false → step s = .next (at'.onCore (fun c => c.moveTo e (pc + 4)))))))) ∧
    (∀ n r i k, s.core.nest = some n → s.core.cleared = true → s.core.dueWord n e = some (r, w, i) →
      decodeWord w = .ok k → step s = exec k (s.onCore (fun c => { c with idx := i }))))
end

