-- ==== Sys2Proof/Laws/Encoding.lean ====
section
/-! SUPPORT. Reading the fields of a packed word back: what the round trip of encoder and decoder rests on. -/
namespace Sys2Proof

/-- One field of a word: the bit it starts at, and its value. -/
structure Field where
  /-- the bit it starts at -/
  lo : Nat
  /-- its width -/
  {n : Nat}
  /-- its value -/
  v : BitVec n

/-- Fields from the top down, none over another, all below `top`. -/
def Field.fits : List Field → Nat → Bool
  | [], _ => true
  | f :: r, top => decide (f.lo + f.n ≤ top) && Field.fits r f.lo

/-- The number that a list of fields stands for. -/
def Field.sum (fs : List Field) : Nat := fs.foldr (fun f acc => f.v.toNat * 2 ^ f.lo + acc) 0

/-- Packing the fields as the encoder does. -/
theorem Field.pack_map (fs : List Field) : pack (fs.map fun f => (f.lo, f.v.toNat)) = BitVec.ofNat 32 (Field.sum fs) := by
  rw [pack, List.foldr_map, Field.sum]

theorem Field.sum_lt : ∀ (fs : List Field) (k : Nat), Field.fits fs k = true → Field.sum fs < 2 ^ k
  | [], k, _ => Nat.two_pow_pos k
  | f :: r, k, h => by
    simp only [Field.fits, Bool.and_eq_true, decide_eq_true_eq] at h
    have ih := Field.sum_lt r f.lo h.2
    have h1 : (f.v.toNat + 1) * 2 ^ f.lo ≤ 2 ^ f.n * 2 ^ f.lo := Nat.mul_le_mul_right _ f.v.isLt
    have h2 : 2 ^ f.n * 2 ^ f.lo ≤ 2 ^ k := by
      rw [← Nat.pow_add]; exact Nat.pow_le_pow_right (by decide) (by omega)
    rw [Nat.add_mul] at h1
    simp only [Field.sum, List.foldr] at ih ⊢
    omega

theorem Field.mem_le : ∀ (fs : List Field) (k : Nat) (g : Field), Field.fits fs k = true → g ∈ fs → g.lo + g.n ≤ k
  | f :: r, k, g, h, hm => by
    simp only [Field.fits, Bool.and_eq_true, decide_eq_true_eq] at h
    rcases List.mem_cons.1 hm with rfl | hm
    · exact h.1
    · have := Field.mem_le r f.lo g h.2 hm
      omega

theorem Field.sum_get : ∀ (fs : List Field) (k : Nat) (g : Field), Field.fits fs k = true → g ∈ fs →
    Field.sum fs / 2 ^ g.lo % 2 ^ g.n = g.v.toNat
  | f :: r, k, g, h, hm => by
    simp only [Field.fits, Bool.and_eq_true, decide_eq_true_eq] at h
    have hr := Field.sum_lt r f.lo h.2
    simp only [Field.sum, List.foldr] at hr ⊢
    rcases List.mem_cons.1 hm with rfl | hm
    · rw [Nat.add_comm, Nat.add_mul_div_right _ _ (Nat.two_pow_pos _), Nat.div_eq_of_lt hr, Nat.zero_add,
        Nat.mod_eq_of_lt g.v.isLt]
    · obtain ⟨d, hd⟩ := Nat.exists_eq_add_of_le (Field.mem_le r f.lo g h.2 hm)
      have : f.v.toNat * 2 ^ f.lo = f.v.toNat * 2 ^ d * 2 ^ g.n * 2 ^ g.lo := by
        rw [hd, Nat.pow_add, Nat.pow_add]; ac_rfl
      rw [this, Nat.add_comm, Nat.add_mul_div_right _ _ (Nat.two_pow_pos _), Nat.add_mul_mod_self_right]
      exact Field.sum_get r f.lo g h.2 hm

/-- A word packed from fields that fit reads as each of them. -/
theorem Field.get {w : W32} {fs : List Field} (h : w = BitVec.ofNat 32 (Field.sum fs)) (hf : Field.fits fs 32 = true)
    {g : Field} (i : Nat) (hm : fs[i]? = some g) : fld w g.lo g.n = g.v := by
  subst h
  apply BitVec.eq_of_toNat_eq
  simp only [fld, BitVec.extractLsb'_toNat, BitVec.toNat_ofNat, Nat.shiftRight_eq_div_pow,
    Nat.mod_eq_of_lt (Field.sum_lt fs 32 hf)]
  exact Field.sum_get fs 32 g hf (List.mem_of_getElem? hm)


/-- No field of the list touches bits [lo+n-1:lo]. -/
def Field.clear (lo n : Nat) (fs : List Field) : Bool :=
  fs.all fun f => decide (f.lo + f.n ≤ lo) || decide (lo + n ≤ f.lo)

theorem Field.sum_clear : ∀ (fs : List Field) (k lo n : Nat), Field.fits fs k = true → Field.clear lo n fs = true →
    Field.sum fs / 2 ^ lo % 2 ^ n = 0
  | [], _, _, _, _, _ => by simp [Field.sum]
  | f :: r, k, lo, n, h, hc => by
    simp only [Field.fits, Bool.and_eq_true, decide_eq_true_eq] at h
    simp only [Field.clear, List.all_cons, Bool.and_eq_true, Bool.or_eq_true, decide_eq_true_eq] at hc
    have ih := Field.sum_clear r f.lo lo n h.2 hc.2
    rcases hc.1 with hl | hl
    · have : Field.sum (f :: r) < 2 ^ lo := Field.sum_lt _ _ (by
        simp only [Field.fits, Bool.and_eq_true, decide_eq_true_eq]
        exact ⟨hl, h.2⟩)
      rw [Nat.div_eq_of_lt this, Nat.zero_mod]
    · obtain ⟨d, hd⟩ := Nat.exists_eq_add_of_le hl
      simp only [Field.sum, List.foldr] at ih ⊢
      have : f.v.toNat * 2 ^ f.lo = f.v.toNat * 2 ^ d * 2 ^ n * 2 ^ lo := by
        rw [hd, Nat.pow_add, Nat.pow_add]; ac_rfl
      rw [this, Nat.add_comm, Nat.add_mul_div_right _ _ (Nat.two_pow_pos _), Nat.add_mul_mod_self_right]
      exact ih

/-- Bits that no field touches are zero. -/
theorem Field.zero {w : W32} {fs : List Field} (h : w = BitVec.ofNat 32 (Field.sum fs)) (hf : Field.fits fs 32 = true)
    (lo n : Nat) (hc : Field.clear lo n fs = true) : fld w lo n = 0#n := by
  subst h
  apply BitVec.eq_of_toNat_eq
  simp only [fld, BitVec.extractLsb'_toNat, BitVec.toNat_ofNat, Nat.shiftRight_eq_div_pow,
    Nat.mod_eq_of_lt (Field.sum_lt fs 32 hf), Field.sum_clear fs 32 lo n hf hc, Nat.zero_mod]

/-- Part of a field. -/
theorem fld_part {w : W32} {lo n : Nat} {v : BitVec n} (h : fld w lo n = v) (k m : Nat) (hk : k + m ≤ n) :
    fld w (lo + k) m = v.extractLsb' k m := by
  subst h
  apply BitVec.eq_of_getLsbD_eq
  intro i hi
  simp only [fld, BitVec.getLsbD_extractLsb', hi, decide_true, Bool.true_and, Nat.add_assoc]
  simp [show k + i < n by omega]

/-- A field differs from a value that differs from it in a part. -/
theorem fld_ne {w : W32} {lo n : Nat} {c : BitVec n} (k m : Nat) (hk : k + m ≤ n) {v : BitVec m}
    (h : fld w (lo + k) m = v) (hc : c.extractLsb' k m ≠ v) : fld w lo n ≠ c :=
  fun e => hc ((fld_part e k m hk).symm.trans h)

/-- A word whose engine and row are known decodes to the row's instruction when its operands are well formed. -/
theorem decodeWord_of {w : W32} {i : Instr} (e : Engine) (he : wordEngine w = e)
    (hr : (match (e : Engine) with | .s => decodeS w | .v => decodeV w | .m => decodeM w | .x => decodeX w) = .ok i)
    (hf : i.wellFormed = true) : decodeWord w = .ok i := by
  unfold decodeWord
  rw [he]
  dsimp only at hr ⊢
  cases e <;> (dsimp only at hr ⊢; rw [hr]; exact if_pos hf)

end Sys2Proof
end

