-- ==== Sys2Proof/Laws/State.lean ====
section
/-! SUPPORT. One lemma per field for each shared update of a core, so that no later proof unfolds a record
update. -/
namespace Sys2Proof.Machine

/-! ### takeTokens -/

@[simp] theorem Core.takeTokens_id (c : Core) (e : Engine) (t m : BitVec 3) : (c.takeTokens e t m).id = c.id := rfl
@[simp] theorem Core.takeTokens_running (c : Core) (e : Engine) (t m : BitVec 3) : (c.takeTokens e t m).running = c.running := rfl
@[simp] theorem Core.takeTokens_phase (c : Core) (e : Engine) (t m : BitVec 3) : (c.takeTokens e t m).phase = c.phase := rfl
@[simp] theorem Core.takeTokens_engS (c : Core) (e : Engine) (t m : BitVec 3) : (c.takeTokens e t m).engS = c.engS := rfl
@[simp] theorem Core.takeTokens_engV (c : Core) (e : Engine) (t m : BitVec 3) : (c.takeTokens e t m).engV = c.engV := rfl
@[simp] theorem Core.takeTokens_engM (c : Core) (e : Engine) (t m : BitVec 3) : (c.takeTokens e t m).engM = c.engM := rfl
@[simp] theorem Core.takeTokens_engX (c : Core) (e : Engine) (t m : BitVec 3) : (c.takeTokens e t m).engX = c.engX := rfl
@[simp] theorem Core.takeTokens_scalar (c : Core) (e : Engine) (t m : BitVec 3) : (c.takeTokens e t m).scalar = c.scalar := rfl
@[simp] theorem Core.takeTokens_vec (c : Core) (e : Engine) (t m : BitVec 3) : (c.takeTokens e t m).vec = c.vec := rfl
@[simp] theorem Core.takeTokens_mat (c : Core) (e : Engine) (t m : BitVec 3) : (c.takeTokens e t m).mat = c.mat := rfl
@[simp] theorem Core.takeTokens_xfer (c : Core) (e : Engine) (t m : BitVec 3) : (c.takeTokens e t m).xfer = c.xfer := rfl
@[simp] theorem Core.takeTokens_store (c : Core) (e : Engine) (t m : BitVec 3) : (c.takeTokens e t m).store = c.store := rfl
@[simp] theorem Core.takeTokens_active (c : Core) (e : Engine) (t m : BitVec 3) : (c.takeTokens e t m).active = c.active := rfl
@[simp] theorem Core.takeTokens_shadow (c : Core) (e : Engine) (t m : BitVec 3) : (c.takeTokens e t m).shadow = c.shadow := rfl
@[simp] theorem Core.takeTokens_idx (c : Core) (e : Engine) (t m : BitVec 3) : (c.takeTokens e t m).idx = c.idx := rfl
@[simp] theorem Core.takeTokens_nest (c : Core) (e : Engine) (t m : BitVec 3) : (c.takeTokens e t m).nest = c.nest := rfl
@[simp] theorem Core.takeTokens_walk (c : Core) (e : Engine) (t m : BitVec 3) : (c.takeTokens e t m).walk = c.walk := rfl
@[simp] theorem Core.takeTokens_fails (c : Core) (e : Engine) (t m : BitVec 3) : (c.takeTokens e t m).fails = c.fails := rfl
@[simp] theorem Core.takeTokens_fatal (c : Core) (e : Engine) (t m : BitVec 3) : (c.takeTokens e t m).fatal = c.fatal := rfl
@[simp] theorem Core.takeTokens_stopped (c : Core) (e : Engine) (t m : BitVec 3) : (c.takeTokens e t m).stopped = c.stopped := rfl
@[simp] theorem Core.takeTokens_deque (c : Core) (e : Engine) (t m : BitVec 3) : (c.takeTokens e t m).deque = c.deque := rfl
@[simp] theorem Core.takeTokens_job (c : Core) (e : Engine) (t m : BitVec 3) : (c.takeTokens e t m).job = c.job := rfl

/-! ### addPushes -/

@[simp] theorem Core.addPushes_id (c : Core) (ps : List Push) : (c.addPushes ps).id = c.id := rfl
@[simp] theorem Core.addPushes_running (c : Core) (ps : List Push) : (c.addPushes ps).running = c.running := rfl
@[simp] theorem Core.addPushes_phase (c : Core) (ps : List Push) : (c.addPushes ps).phase = c.phase := rfl
@[simp] theorem Core.addPushes_engS (c : Core) (ps : List Push) : (c.addPushes ps).engS = c.engS := rfl
@[simp] theorem Core.addPushes_engV (c : Core) (ps : List Push) : (c.addPushes ps).engV = c.engV := rfl
@[simp] theorem Core.addPushes_engM (c : Core) (ps : List Push) : (c.addPushes ps).engM = c.engM := rfl
@[simp] theorem Core.addPushes_engX (c : Core) (ps : List Push) : (c.addPushes ps).engX = c.engX := rfl
@[simp] theorem Core.addPushes_scalar (c : Core) (ps : List Push) : (c.addPushes ps).scalar = c.scalar := rfl
@[simp] theorem Core.addPushes_vec (c : Core) (ps : List Push) : (c.addPushes ps).vec = c.vec := rfl
@[simp] theorem Core.addPushes_mat (c : Core) (ps : List Push) : (c.addPushes ps).mat = c.mat := rfl
@[simp] theorem Core.addPushes_xfer (c : Core) (ps : List Push) : (c.addPushes ps).xfer = c.xfer := rfl
@[simp] theorem Core.addPushes_store (c : Core) (ps : List Push) : (c.addPushes ps).store = c.store := rfl
@[simp] theorem Core.addPushes_active (c : Core) (ps : List Push) : (c.addPushes ps).active = c.active := rfl
@[simp] theorem Core.addPushes_shadow (c : Core) (ps : List Push) : (c.addPushes ps).shadow = c.shadow := rfl
@[simp] theorem Core.addPushes_idx (c : Core) (ps : List Push) : (c.addPushes ps).idx = c.idx := rfl
@[simp] theorem Core.addPushes_nest (c : Core) (ps : List Push) : (c.addPushes ps).nest = c.nest := rfl
@[simp] theorem Core.addPushes_walk (c : Core) (ps : List Push) : (c.addPushes ps).walk = c.walk := rfl
@[simp] theorem Core.addPushes_fails (c : Core) (ps : List Push) : (c.addPushes ps).fails = c.fails := rfl
@[simp] theorem Core.addPushes_fatal (c : Core) (ps : List Push) : (c.addPushes ps).fatal = c.fatal := rfl
@[simp] theorem Core.addPushes_stopped (c : Core) (ps : List Push) : (c.addPushes ps).stopped = c.stopped := rfl
@[simp] theorem Core.addPushes_deque (c : Core) (ps : List Push) : (c.addPushes ps).deque = c.deque := rfl
@[simp] theorem Core.addPushes_job (c : Core) (ps : List Push) : (c.addPushes ps).job = c.job := rfl

/-! ### signal -/

@[simp] theorem Core.signal_id (c : Core) (n : Nat) (e : Engine) (m t : BitVec 3) : (c.signal n e m t).id = c.id := by cases e <;> rfl
@[simp] theorem Core.signal_running (c : Core) (n : Nat) (e : Engine) (m t : BitVec 3) : (c.signal n e m t).running = c.running := by cases e <;> rfl
@[simp] theorem Core.signal_phase (c : Core) (n : Nat) (e : Engine) (m t : BitVec 3) : (c.signal n e m t).phase = c.phase := by cases e <;> rfl
@[simp] theorem Core.signal_engS (c : Core) (n : Nat) (e : Engine) (m t : BitVec 3) : (c.signal n e m t).engS = c.engS := by cases e <;> rfl
@[simp] theorem Core.signal_engV (c : Core) (n : Nat) (e : Engine) (m t : BitVec 3) : (c.signal n e m t).engV = c.engV := by cases e <;> rfl
@[simp] theorem Core.signal_engM (c : Core) (n : Nat) (e : Engine) (m t : BitVec 3) : (c.signal n e m t).engM = c.engM := by cases e <;> rfl
@[simp] theorem Core.signal_engX (c : Core) (n : Nat) (e : Engine) (m t : BitVec 3) : (c.signal n e m t).engX = c.engX := by cases e <;> rfl
@[simp] theorem Core.signal_scalar (c : Core) (n : Nat) (e : Engine) (m t : BitVec 3) : (c.signal n e m t).scalar = c.scalar := by cases e <;> rfl
@[simp] theorem Core.signal_vec (c : Core) (n : Nat) (e : Engine) (m t : BitVec 3) : (c.signal n e m t).vec = c.vec := by cases e <;> rfl
@[simp] theorem Core.signal_mat (c : Core) (n : Nat) (e : Engine) (m t : BitVec 3) : (c.signal n e m t).mat = c.mat := by cases e <;> rfl
@[simp] theorem Core.signal_xfer (c : Core) (n : Nat) (e : Engine) (m t : BitVec 3) : (c.signal n e m t).xfer = c.xfer := by cases e <;> rfl
@[simp] theorem Core.signal_store (c : Core) (n : Nat) (e : Engine) (m t : BitVec 3) : (c.signal n e m t).store = c.store := by cases e <;> rfl
@[simp] theorem Core.signal_active (c : Core) (n : Nat) (e : Engine) (m t : BitVec 3) : (c.signal n e m t).active = c.active := by cases e <;> rfl
@[simp] theorem Core.signal_shadow (c : Core) (n : Nat) (e : Engine) (m t : BitVec 3) : (c.signal n e m t).shadow = c.shadow := by cases e <;> rfl
@[simp] theorem Core.signal_idx (c : Core) (n : Nat) (e : Engine) (m t : BitVec 3) : (c.signal n e m t).idx = c.idx := by cases e <;> rfl
@[simp] theorem Core.signal_nest (c : Core) (n : Nat) (e : Engine) (m t : BitVec 3) : (c.signal n e m t).nest = c.nest := by cases e <;> rfl
@[simp] theorem Core.signal_walk (c : Core) (n : Nat) (e : Engine) (m t : BitVec 3) : (c.signal n e m t).walk = c.walk := by cases e <;> rfl
@[simp] theorem Core.signal_fails (c : Core) (n : Nat) (e : Engine) (m t : BitVec 3) : (c.signal n e m t).fails = c.fails := by cases e <;> rfl
@[simp] theorem Core.signal_fatal (c : Core) (n : Nat) (e : Engine) (m t : BitVec 3) : (c.signal n e m t).fatal = c.fatal := by cases e <;> rfl
@[simp] theorem Core.signal_stopped (c : Core) (n : Nat) (e : Engine) (m t : BitVec 3) : (c.signal n e m t).stopped = c.stopped := by cases e <;> rfl
@[simp] theorem Core.signal_deque (c : Core) (n : Nat) (e : Engine) (m t : BitVec 3) : (c.signal n e m t).deque = c.deque := by cases e <;> rfl
@[simp] theorem Core.signal_job (c : Core) (n : Nat) (e : Engine) (m t : BitVec 3) : (c.signal n e m t).job = c.job := by cases e <;> rfl

/-! ### setEng -/

@[simp] theorem Core.setEng_id (c : Core) (e : Engine) (x : EngineState) : (c.setEng e x).id = c.id := by cases e <;> rfl
@[simp] theorem Core.setEng_running (c : Core) (e : Engine) (x : EngineState) : (c.setEng e x).running = c.running := by cases e <;> rfl
@[simp] theorem Core.setEng_phase (c : Core) (e : Engine) (x : EngineState) : (c.setEng e x).phase = c.phase := by cases e <;> rfl
@[simp] theorem Core.setEng_scalar (c : Core) (e : Engine) (x : EngineState) : (c.setEng e x).scalar = c.scalar := by cases e <;> rfl
@[simp] theorem Core.setEng_vec (c : Core) (e : Engine) (x : EngineState) : (c.setEng e x).vec = c.vec := by cases e <;> rfl
@[simp] theorem Core.setEng_mat (c : Core) (e : Engine) (x : EngineState) : (c.setEng e x).mat = c.mat := by cases e <;> rfl
@[simp] theorem Core.setEng_xfer (c : Core) (e : Engine) (x : EngineState) : (c.setEng e x).xfer = c.xfer := by cases e <;> rfl
@[simp] theorem Core.setEng_queues (c : Core) (e : Engine) (x : EngineState) : (c.setEng e x).queues = c.queues := by cases e <;> rfl
@[simp] theorem Core.setEng_store (c : Core) (e : Engine) (x : EngineState) : (c.setEng e x).store = c.store := by cases e <;> rfl
@[simp] theorem Core.setEng_active (c : Core) (e : Engine) (x : EngineState) : (c.setEng e x).active = c.active := by cases e <;> rfl
@[simp] theorem Core.setEng_shadow (c : Core) (e : Engine) (x : EngineState) : (c.setEng e x).shadow = c.shadow := by cases e <;> rfl
@[simp] theorem Core.setEng_idx (c : Core) (e : Engine) (x : EngineState) : (c.setEng e x).idx = c.idx := by cases e <;> rfl
@[simp] theorem Core.setEng_nest (c : Core) (e : Engine) (x : EngineState) : (c.setEng e x).nest = c.nest := by cases e <;> rfl
@[simp] theorem Core.setEng_walk (c : Core) (e : Engine) (x : EngineState) : (c.setEng e x).walk = c.walk := by cases e <;> rfl
@[simp] theorem Core.setEng_fails (c : Core) (e : Engine) (x : EngineState) : (c.setEng e x).fails = c.fails := by cases e <;> rfl
@[simp] theorem Core.setEng_fatal (c : Core) (e : Engine) (x : EngineState) : (c.setEng e x).fatal = c.fatal := by cases e <;> rfl
@[simp] theorem Core.setEng_stopped (c : Core) (e : Engine) (x : EngineState) : (c.setEng e x).stopped = c.stopped := by cases e <;> rfl
@[simp] theorem Core.setEng_deque (c : Core) (e : Engine) (x : EngineState) : (c.setEng e x).deque = c.deque := by cases e <;> rfl
@[simp] theorem Core.setEng_job (c : Core) (e : Engine) (x : EngineState) : (c.setEng e x).job = c.job := by cases e <;> rfl

/-! ### moveTo -/

@[simp] theorem Core.moveTo_id (c : Core) (e : Engine) (a : Word) : (c.moveTo e a).id = c.id := by simp [Core.moveTo]
@[simp] theorem Core.moveTo_running (c : Core) (e : Engine) (a : Word) : (c.moveTo e a).running = c.running := by simp [Core.moveTo]
@[simp] theorem Core.moveTo_phase (c : Core) (e : Engine) (a : Word) : (c.moveTo e a).phase = c.phase := by simp [Core.moveTo]
@[simp] theorem Core.moveTo_scalar (c : Core) (e : Engine) (a : Word) : (c.moveTo e a).scalar = c.scalar := by simp [Core.moveTo]
@[simp] theorem Core.moveTo_vec (c : Core) (e : Engine) (a : Word) : (c.moveTo e a).vec = c.vec := by simp [Core.moveTo]
@[simp] theorem Core.moveTo_mat (c : Core) (e : Engine) (a : Word) : (c.moveTo e a).mat = c.mat := by simp [Core.moveTo]
@[simp] theorem Core.moveTo_xfer (c : Core) (e : Engine) (a : Word) : (c.moveTo e a).xfer = c.xfer := by simp [Core.moveTo]
@[simp] theorem Core.moveTo_queues (c : Core) (e : Engine) (a : Word) : (c.moveTo e a).queues = c.queues := by simp [Core.moveTo]
@[simp] theorem Core.moveTo_store (c : Core) (e : Engine) (a : Word) : (c.moveTo e a).store = c.store := by simp [Core.moveTo]
@[simp] theorem Core.moveTo_active (c : Core) (e : Engine) (a : Word) : (c.moveTo e a).active = c.active := by simp [Core.moveTo]
@[simp] theorem Core.moveTo_shadow (c : Core) (e : Engine) (a : Word) : (c.moveTo e a).shadow = c.shadow := by simp [Core.moveTo]
@[simp] theorem Core.moveTo_idx (c : Core) (e : Engine) (a : Word) : (c.moveTo e a).idx = c.idx := by simp [Core.moveTo]
@[simp] theorem Core.moveTo_nest (c : Core) (e : Engine) (a : Word) : (c.moveTo e a).nest = c.nest := by simp [Core.moveTo]
@[simp] theorem Core.moveTo_walk (c : Core) (e : Engine) (a : Word) : (c.moveTo e a).walk = c.walk := by simp [Core.moveTo]
@[simp] theorem Core.moveTo_fails (c : Core) (e : Engine) (a : Word) : (c.moveTo e a).fails = c.fails := by simp [Core.moveTo]
@[simp] theorem Core.moveTo_fatal (c : Core) (e : Engine) (a : Word) : (c.moveTo e a).fatal = c.fatal := by simp [Core.moveTo]
@[simp] theorem Core.moveTo_stopped (c : Core) (e : Engine) (a : Word) : (c.moveTo e a).stopped = c.stopped := by simp [Core.moveTo]
@[simp] theorem Core.moveTo_deque (c : Core) (e : Engine) (a : Word) : (c.moveTo e a).deque = c.deque := by simp [Core.moveTo]
@[simp] theorem Core.moveTo_job (c : Core) (e : Engine) (a : Word) : (c.moveTo e a).job = c.job := by simp [Core.moveTo]

/-! ### unstall -/

@[simp] theorem Core.unstall_id (c : Core) (e : Engine) : (c.unstall e).id = c.id := by simp [Core.unstall]
@[simp] theorem Core.unstall_running (c : Core) (e : Engine) : (c.unstall e).running = c.running := by simp [Core.unstall]
@[simp] theorem Core.unstall_phase (c : Core) (e : Engine) : (c.unstall e).phase = c.phase := by simp [Core.unstall]
@[simp] theorem Core.unstall_scalar (c : Core) (e : Engine) : (c.unstall e).scalar = c.scalar := by simp [Core.unstall]
@[simp] theorem Core.unstall_vec (c : Core) (e : Engine) : (c.unstall e).vec = c.vec := by simp [Core.unstall]
@[simp] theorem Core.unstall_mat (c : Core) (e : Engine) : (c.unstall e).mat = c.mat := by simp [Core.unstall]
@[simp] theorem Core.unstall_xfer (c : Core) (e : Engine) : (c.unstall e).xfer = c.xfer := by simp [Core.unstall]
@[simp] theorem Core.unstall_queues (c : Core) (e : Engine) : (c.unstall e).queues = c.queues := by simp [Core.unstall]
@[simp] theorem Core.unstall_store (c : Core) (e : Engine) : (c.unstall e).store = c.store := by simp [Core.unstall]
@[simp] theorem Core.unstall_active (c : Core) (e : Engine) : (c.unstall e).active = c.active := by simp [Core.unstall]
@[simp] theorem Core.unstall_shadow (c : Core) (e : Engine) : (c.unstall e).shadow = c.shadow := by simp [Core.unstall]
@[simp] theorem Core.unstall_idx (c : Core) (e : Engine) : (c.unstall e).idx = c.idx := by simp [Core.unstall]
@[simp] theorem Core.unstall_nest (c : Core) (e : Engine) : (c.unstall e).nest = c.nest := by simp [Core.unstall]
@[simp] theorem Core.unstall_walk (c : Core) (e : Engine) : (c.unstall e).walk = c.walk := by simp [Core.unstall]
@[simp] theorem Core.unstall_fails (c : Core) (e : Engine) : (c.unstall e).fails = c.fails := by simp [Core.unstall]
@[simp] theorem Core.unstall_fatal (c : Core) (e : Engine) : (c.unstall e).fatal = c.fatal := by simp [Core.unstall]
@[simp] theorem Core.unstall_stopped (c : Core) (e : Engine) : (c.unstall e).stopped = c.stopped := by simp [Core.unstall]
@[simp] theorem Core.unstall_deque (c : Core) (e : Engine) : (c.unstall e).deque = c.deque := by simp [Core.unstall]
@[simp] theorem Core.unstall_job (c : Core) (e : Engine) : (c.unstall e).job = c.job := by simp [Core.unstall]

/-! ### pass -/

@[simp] theorem Core.pass_id (c : Core) (e : Engine) : (c.pass e).id = c.id := by unfold Core.pass; split <;> simp
@[simp] theorem Core.pass_running (c : Core) (e : Engine) : (c.pass e).running = c.running := by unfold Core.pass; split <;> simp
@[simp] theorem Core.pass_phase (c : Core) (e : Engine) : (c.pass e).phase = c.phase := by unfold Core.pass; split <;> simp
@[simp] theorem Core.pass_scalar (c : Core) (e : Engine) : (c.pass e).scalar = c.scalar := by unfold Core.pass; split <;> simp
@[simp] theorem Core.pass_vec (c : Core) (e : Engine) : (c.pass e).vec = c.vec := by unfold Core.pass; split <;> simp
@[simp] theorem Core.pass_mat (c : Core) (e : Engine) : (c.pass e).mat = c.mat := by unfold Core.pass; split <;> simp
@[simp] theorem Core.pass_xfer (c : Core) (e : Engine) : (c.pass e).xfer = c.xfer := by unfold Core.pass; split <;> simp
@[simp] theorem Core.pass_queues (c : Core) (e : Engine) : (c.pass e).queues = c.queues := by unfold Core.pass; split <;> simp
@[simp] theorem Core.pass_store (c : Core) (e : Engine) : (c.pass e).store = c.store := by unfold Core.pass; split <;> simp
@[simp] theorem Core.pass_active (c : Core) (e : Engine) : (c.pass e).active = c.active := by unfold Core.pass; split <;> simp
@[simp] theorem Core.pass_shadow (c : Core) (e : Engine) : (c.pass e).shadow = c.shadow := by unfold Core.pass; split <;> simp
@[simp] theorem Core.pass_idx (c : Core) (e : Engine) : (c.pass e).idx = c.idx := by unfold Core.pass; split <;> simp
@[simp] theorem Core.pass_nest (c : Core) (e : Engine) : (c.pass e).nest = c.nest := by unfold Core.pass; split <;> simp
@[simp] theorem Core.pass_walk (c : Core) (e : Engine) : (c.pass e).walk = c.walk := by unfold Core.pass; split <;> simp
@[simp] theorem Core.pass_fails (c : Core) (e : Engine) : (c.pass e).fails = c.fails := by unfold Core.pass; split <;> simp
@[simp] theorem Core.pass_fatal (c : Core) (e : Engine) : (c.pass e).fatal = c.fatal := by unfold Core.pass; split <;> simp
@[simp] theorem Core.pass_stopped (c : Core) (e : Engine) : (c.pass e).stopped = c.stopped := by unfold Core.pass; split <;> simp
@[simp] theorem Core.pass_deque (c : Core) (e : Engine) : (c.pass e).deque = c.deque := by unfold Core.pass; split <;> simp
@[simp] theorem Core.pass_job (c : Core) (e : Engine) : (c.pass e).job = c.job := by unfold Core.pass; split <;> simp

/-! ### setReg -/

@[simp] theorem Core.setReg_id (c : Core) (r : BitVec 6) (v : Word) : (c.setReg r v).id = c.id := by unfold Core.setReg; split <;> rfl
@[simp] theorem Core.setReg_running (c : Core) (r : BitVec 6) (v : Word) : (c.setReg r v).running = c.running := by unfold Core.setReg; split <;> rfl
@[simp] theorem Core.setReg_phase (c : Core) (r : BitVec 6) (v : Word) : (c.setReg r v).phase = c.phase := by unfold Core.setReg; split <;> rfl
@[simp] theorem Core.setReg_engS (c : Core) (r : BitVec 6) (v : Word) : (c.setReg r v).engS = c.engS := by unfold Core.setReg; split <;> rfl
@[simp] theorem Core.setReg_engV (c : Core) (r : BitVec 6) (v : Word) : (c.setReg r v).engV = c.engV := by unfold Core.setReg; split <;> rfl
@[simp] theorem Core.setReg_engM (c : Core) (r : BitVec 6) (v : Word) : (c.setReg r v).engM = c.engM := by unfold Core.setReg; split <;> rfl
@[simp] theorem Core.setReg_engX (c : Core) (r : BitVec 6) (v : Word) : (c.setReg r v).engX = c.engX := by unfold Core.setReg; split <;> rfl
@[simp] theorem Core.setReg_vec (c : Core) (r : BitVec 6) (v : Word) : (c.setReg r v).vec = c.vec := by unfold Core.setReg; split <;> rfl
@[simp] theorem Core.setReg_mat (c : Core) (r : BitVec 6) (v : Word) : (c.setReg r v).mat = c.mat := by unfold Core.setReg; split <;> rfl
@[simp] theorem Core.setReg_xfer (c : Core) (r : BitVec 6) (v : Word) : (c.setReg r v).xfer = c.xfer := by unfold Core.setReg; split <;> rfl
@[simp] theorem Core.setReg_queues (c : Core) (r : BitVec 6) (v : Word) : (c.setReg r v).queues = c.queues := by unfold Core.setReg; split <;> rfl
@[simp] theorem Core.setReg_store (c : Core) (r : BitVec 6) (v : Word) : (c.setReg r v).store = c.store := by unfold Core.setReg; split <;> rfl
@[simp] theorem Core.setReg_active (c : Core) (r : BitVec 6) (v : Word) : (c.setReg r v).active = c.active := by unfold Core.setReg; split <;> rfl
@[simp] theorem Core.setReg_shadow (c : Core) (r : BitVec 6) (v : Word) : (c.setReg r v).shadow = c.shadow := by unfold Core.setReg; split <;> rfl
@[simp] theorem Core.setReg_idx (c : Core) (r : BitVec 6) (v : Word) : (c.setReg r v).idx = c.idx := by unfold Core.setReg; split <;> rfl
@[simp] theorem Core.setReg_nest (c : Core) (r : BitVec 6) (v : Word) : (c.setReg r v).nest = c.nest := by unfold Core.setReg; split <;> rfl
@[simp] theorem Core.setReg_walk (c : Core) (r : BitVec 6) (v : Word) : (c.setReg r v).walk = c.walk := by unfold Core.setReg; split <;> rfl
@[simp] theorem Core.setReg_fails (c : Core) (r : BitVec 6) (v : Word) : (c.setReg r v).fails = c.fails := by unfold Core.setReg; split <;> rfl
@[simp] theorem Core.setReg_fatal (c : Core) (r : BitVec 6) (v : Word) : (c.setReg r v).fatal = c.fatal := by unfold Core.setReg; split <;> rfl
@[simp] theorem Core.setReg_stopped (c : Core) (r : BitVec 6) (v : Word) : (c.setReg r v).stopped = c.stopped := by unfold Core.setReg; split <;> rfl
@[simp] theorem Core.setReg_deque (c : Core) (r : BitVec 6) (v : Word) : (c.setReg r v).deque = c.deque := by unfold Core.setReg; split <;> rfl
@[simp] theorem Core.setReg_job (c : Core) (r : BitVec 6) (v : Word) : (c.setReg r v).job = c.job := by unfold Core.setReg; split <;> rfl

/-! ### enterDrain -/

@[simp] theorem Core.enterDrain_id (c : Core)  : (c.enterDrain).id = c.id := rfl
@[simp] theorem Core.enterDrain_running (c : Core)  : (c.enterDrain).running = c.running := rfl
@[simp] theorem Core.enterDrain_engS (c : Core)  : (c.enterDrain).engS = c.engS := rfl
@[simp] theorem Core.enterDrain_engV (c : Core)  : (c.enterDrain).engV = c.engV := rfl
@[simp] theorem Core.enterDrain_engM (c : Core)  : (c.enterDrain).engM = c.engM := rfl
@[simp] theorem Core.enterDrain_engX (c : Core)  : (c.enterDrain).engX = c.engX := rfl
@[simp] theorem Core.enterDrain_scalar (c : Core)  : (c.enterDrain).scalar = c.scalar := rfl
@[simp] theorem Core.enterDrain_vec (c : Core)  : (c.enterDrain).vec = c.vec := rfl
@[simp] theorem Core.enterDrain_queues (c : Core)  : (c.enterDrain).queues = c.queues := rfl
@[simp] theorem Core.enterDrain_store (c : Core)  : (c.enterDrain).store = c.store := rfl
@[simp] theorem Core.enterDrain_active (c : Core)  : (c.enterDrain).active = c.active := rfl
@[simp] theorem Core.enterDrain_shadow (c : Core)  : (c.enterDrain).shadow = c.shadow := rfl
@[simp] theorem Core.enterDrain_idx (c : Core)  : (c.enterDrain).idx = c.idx := rfl
@[simp] theorem Core.enterDrain_nest (c : Core)  : (c.enterDrain).nest = c.nest := rfl
@[simp] theorem Core.enterDrain_walk (c : Core)  : (c.enterDrain).walk = c.walk := rfl
@[simp] theorem Core.enterDrain_fails (c : Core)  : (c.enterDrain).fails = c.fails := rfl
@[simp] theorem Core.enterDrain_fatal (c : Core)  : (c.enterDrain).fatal = c.fatal := rfl
@[simp] theorem Core.enterDrain_stopped (c : Core)  : (c.enterDrain).stopped = c.stopped := rfl
@[simp] theorem Core.enterDrain_deque (c : Core)  : (c.enterDrain).deque = c.deque := rfl
@[simp] theorem Core.enterDrain_job (c : Core)  : (c.enterDrain).job = c.job := rfl

/-! ### endTurn -/

@[simp] theorem Core.endTurn_id (c : Core) (e : Engine) : (c.endTurn e).id = c.id := by cases e <;> rfl
@[simp] theorem Core.endTurn_running (c : Core) (e : Engine) : (c.endTurn e).running = c.running := by cases e <;> rfl
@[simp] theorem Core.endTurn_engS (c : Core) (e : Engine) : (c.endTurn e).engS = c.engS := by cases e <;> rfl
@[simp] theorem Core.endTurn_engV (c : Core) (e : Engine) : (c.endTurn e).engV = c.engV := by cases e <;> rfl
@[simp] theorem Core.endTurn_engM (c : Core) (e : Engine) : (c.endTurn e).engM = c.engM := by cases e <;> rfl
@[simp] theorem Core.endTurn_engX (c : Core) (e : Engine) : (c.endTurn e).engX = c.engX := by cases e <;> rfl
@[simp] theorem Core.endTurn_scalar (c : Core) (e : Engine) : (c.endTurn e).scalar = c.scalar := by cases e <;> rfl
@[simp] theorem Core.endTurn_vec (c : Core) (e : Engine) : (c.endTurn e).vec = c.vec := by cases e <;> rfl
@[simp] theorem Core.endTurn_queues (c : Core) (e : Engine) : (c.endTurn e).queues = c.queues := by cases e <;> rfl
@[simp] theorem Core.endTurn_store (c : Core) (e : Engine) : (c.endTurn e).store = c.store := by cases e <;> rfl
@[simp] theorem Core.endTurn_active (c : Core) (e : Engine) : (c.endTurn e).active = c.active := by cases e <;> rfl
@[simp] theorem Core.endTurn_shadow (c : Core) (e : Engine) : (c.endTurn e).shadow = c.shadow := by cases e <;> rfl
@[simp] theorem Core.endTurn_idx (c : Core) (e : Engine) : (c.endTurn e).idx = c.idx := by cases e <;> rfl
@[simp] theorem Core.endTurn_nest (c : Core) (e : Engine) : (c.endTurn e).nest = c.nest := by cases e <;> rfl
@[simp] theorem Core.endTurn_walk (c : Core) (e : Engine) : (c.endTurn e).walk = c.walk := by cases e <;> rfl
@[simp] theorem Core.endTurn_fails (c : Core) (e : Engine) : (c.endTurn e).fails = c.fails := by cases e <;> rfl
@[simp] theorem Core.endTurn_fatal (c : Core) (e : Engine) : (c.endTurn e).fatal = c.fatal := by cases e <;> rfl
@[simp] theorem Core.endTurn_stopped (c : Core) (e : Engine) : (c.endTurn e).stopped = c.stopped := by cases e <;> rfl
@[simp] theorem Core.endTurn_deque (c : Core) (e : Engine) : (c.endTurn e).deque = c.deque := by cases e <;> rfl
@[simp] theorem Core.endTurn_job (c : Core) (e : Engine) : (c.endTurn e).job = c.job := by cases e <;> rfl

/-! ### addFlight -/

@[simp] theorem Core.addFlight_id (c : Core) (b n : Nat) (w : SWork) (t : BitVec 3) (h : Option (BitVec 4)) : (c.addFlight b n w t h).id = c.id := rfl
@[simp] theorem Core.addFlight_running (c : Core) (b n : Nat) (w : SWork) (t : BitVec 3) (h : Option (BitVec 4)) : (c.addFlight b n w t h).running = c.running := rfl
@[simp] theorem Core.addFlight_phase (c : Core) (b n : Nat) (w : SWork) (t : BitVec 3) (h : Option (BitVec 4)) : (c.addFlight b n w t h).phase = c.phase := rfl
@[simp] theorem Core.addFlight_engS (c : Core) (b n : Nat) (w : SWork) (t : BitVec 3) (h : Option (BitVec 4)) : (c.addFlight b n w t h).engS = c.engS := rfl
@[simp] theorem Core.addFlight_engV (c : Core) (b n : Nat) (w : SWork) (t : BitVec 3) (h : Option (BitVec 4)) : (c.addFlight b n w t h).engV = c.engV := rfl
@[simp] theorem Core.addFlight_engM (c : Core) (b n : Nat) (w : SWork) (t : BitVec 3) (h : Option (BitVec 4)) : (c.addFlight b n w t h).engM = c.engM := rfl
@[simp] theorem Core.addFlight_engX (c : Core) (b n : Nat) (w : SWork) (t : BitVec 3) (h : Option (BitVec 4)) : (c.addFlight b n w t h).engX = c.engX := rfl
@[simp] theorem Core.addFlight_vec (c : Core) (b n : Nat) (w : SWork) (t : BitVec 3) (h : Option (BitVec 4)) : (c.addFlight b n w t h).vec = c.vec := rfl
@[simp] theorem Core.addFlight_mat (c : Core) (b n : Nat) (w : SWork) (t : BitVec 3) (h : Option (BitVec 4)) : (c.addFlight b n w t h).mat = c.mat := rfl
@[simp] theorem Core.addFlight_xfer (c : Core) (b n : Nat) (w : SWork) (t : BitVec 3) (h : Option (BitVec 4)) : (c.addFlight b n w t h).xfer = c.xfer := rfl
@[simp] theorem Core.addFlight_queues (c : Core) (b n : Nat) (w : SWork) (t : BitVec 3) (h : Option (BitVec 4)) : (c.addFlight b n w t h).queues = c.queues := rfl
@[simp] theorem Core.addFlight_store (c : Core) (b n : Nat) (w : SWork) (t : BitVec 3) (h : Option (BitVec 4)) : (c.addFlight b n w t h).store = c.store := rfl
@[simp] theorem Core.addFlight_active (c : Core) (b n : Nat) (w : SWork) (t : BitVec 3) (h : Option (BitVec 4)) : (c.addFlight b n w t h).active = c.active := rfl
@[simp] theorem Core.addFlight_shadow (c : Core) (b n : Nat) (w : SWork) (t : BitVec 3) (h : Option (BitVec 4)) : (c.addFlight b n w t h).shadow = c.shadow := rfl
@[simp] theorem Core.addFlight_idx (c : Core) (b n : Nat) (w : SWork) (t : BitVec 3) (h : Option (BitVec 4)) : (c.addFlight b n w t h).idx = c.idx := rfl
@[simp] theorem Core.addFlight_nest (c : Core) (b n : Nat) (w : SWork) (t : BitVec 3) (h : Option (BitVec 4)) : (c.addFlight b n w t h).nest = c.nest := rfl
@[simp] theorem Core.addFlight_walk (c : Core) (b n : Nat) (w : SWork) (t : BitVec 3) (h : Option (BitVec 4)) : (c.addFlight b n w t h).walk = c.walk := rfl
@[simp] theorem Core.addFlight_fails (c : Core) (b n : Nat) (w : SWork) (t : BitVec 3) (h : Option (BitVec 4)) : (c.addFlight b n w t h).fails = c.fails := rfl
@[simp] theorem Core.addFlight_fatal (c : Core) (b n : Nat) (w : SWork) (t : BitVec 3) (h : Option (BitVec 4)) : (c.addFlight b n w t h).fatal = c.fatal := rfl
@[simp] theorem Core.addFlight_stopped (c : Core) (b n : Nat) (w : SWork) (t : BitVec 3) (h : Option (BitVec 4)) : (c.addFlight b n w t h).stopped = c.stopped := rfl
@[simp] theorem Core.addFlight_deque (c : Core) (b n : Nat) (w : SWork) (t : BitVec 3) (h : Option (BitVec 4)) : (c.addFlight b n w t h).deque = c.deque := rfl
@[simp] theorem Core.addFlight_job (c : Core) (b n : Nat) (w : SWork) (t : BitVec 3) (h : Option (BitVec 4)) : (c.addFlight b n w t h).job = c.job := rfl

/-! ### fly -/

@[simp] theorem Core.fly_id (c : Core) (t : BitVec 3) (n : Nat) (fs : List Flight) : (c.fly t n fs).id = c.id := rfl
@[simp] theorem Core.fly_running (c : Core) (t : BitVec 3) (n : Nat) (fs : List Flight) : (c.fly t n fs).running = c.running := rfl
@[simp] theorem Core.fly_phase (c : Core) (t : BitVec 3) (n : Nat) (fs : List Flight) : (c.fly t n fs).phase = c.phase := rfl
@[simp] theorem Core.fly_engS (c : Core) (t : BitVec 3) (n : Nat) (fs : List Flight) : (c.fly t n fs).engS = c.engS := rfl
@[simp] theorem Core.fly_engV (c : Core) (t : BitVec 3) (n : Nat) (fs : List Flight) : (c.fly t n fs).engV = c.engV := rfl
@[simp] theorem Core.fly_engM (c : Core) (t : BitVec 3) (n : Nat) (fs : List Flight) : (c.fly t n fs).engM = c.engM := rfl
@[simp] theorem Core.fly_engX (c : Core) (t : BitVec 3) (n : Nat) (fs : List Flight) : (c.fly t n fs).engX = c.engX := rfl
@[simp] theorem Core.fly_scalar (c : Core) (t : BitVec 3) (n : Nat) (fs : List Flight) : (c.fly t n fs).scalar = c.scalar := rfl
@[simp] theorem Core.fly_mat (c : Core) (t : BitVec 3) (n : Nat) (fs : List Flight) : (c.fly t n fs).mat = c.mat := rfl
@[simp] theorem Core.fly_xfer (c : Core) (t : BitVec 3) (n : Nat) (fs : List Flight) : (c.fly t n fs).xfer = c.xfer := rfl
@[simp] theorem Core.fly_queues (c : Core) (t : BitVec 3) (n : Nat) (fs : List Flight) : (c.fly t n fs).queues = c.queues := rfl
@[simp] theorem Core.fly_store (c : Core) (t : BitVec 3) (n : Nat) (fs : List Flight) : (c.fly t n fs).store = c.store := rfl
@[simp] theorem Core.fly_active (c : Core) (t : BitVec 3) (n : Nat) (fs : List Flight) : (c.fly t n fs).active = c.active := rfl
@[simp] theorem Core.fly_shadow (c : Core) (t : BitVec 3) (n : Nat) (fs : List Flight) : (c.fly t n fs).shadow = c.shadow := rfl
@[simp] theorem Core.fly_idx (c : Core) (t : BitVec 3) (n : Nat) (fs : List Flight) : (c.fly t n fs).idx = c.idx := rfl
@[simp] theorem Core.fly_nest (c : Core) (t : BitVec 3) (n : Nat) (fs : List Flight) : (c.fly t n fs).nest = c.nest := rfl
@[simp] theorem Core.fly_walk (c : Core) (t : BitVec 3) (n : Nat) (fs : List Flight) : (c.fly t n fs).walk = c.walk := rfl
@[simp] theorem Core.fly_fails (c : Core) (t : BitVec 3) (n : Nat) (fs : List Flight) : (c.fly t n fs).fails = c.fails := rfl
@[simp] theorem Core.fly_fatal (c : Core) (t : BitVec 3) (n : Nat) (fs : List Flight) : (c.fly t n fs).fatal = c.fatal := rfl
@[simp] theorem Core.fly_stopped (c : Core) (t : BitVec 3) (n : Nat) (fs : List Flight) : (c.fly t n fs).stopped = c.stopped := rfl
@[simp] theorem Core.fly_deque (c : Core) (t : BitVec 3) (n : Nat) (fs : List Flight) : (c.fly t n fs).deque = c.deque := rfl
@[simp] theorem Core.fly_job (c : Core) (t : BitVec 3) (n : Nat) (fs : List Flight) : (c.fly t n fs).job = c.job := rfl

/-! ### touch -/

@[simp] theorem Core.touch_id (c : Core) (lo n : Nat) : (c.touch lo n).id = c.id := by unfold Core.touch; split <;> rfl
@[simp] theorem Core.touch_running (c : Core) (lo n : Nat) : (c.touch lo n).running = c.running := by unfold Core.touch; split <;> rfl
@[simp] theorem Core.touch_phase (c : Core) (lo n : Nat) : (c.touch lo n).phase = c.phase := by unfold Core.touch; split <;> rfl
@[simp] theorem Core.touch_engS (c : Core) (lo n : Nat) : (c.touch lo n).engS = c.engS := by unfold Core.touch; split <;> rfl
@[simp] theorem Core.touch_engV (c : Core) (lo n : Nat) : (c.touch lo n).engV = c.engV := by unfold Core.touch; split <;> rfl
@[simp] theorem Core.touch_engM (c : Core) (lo n : Nat) : (c.touch lo n).engM = c.engM := by unfold Core.touch; split <;> rfl
@[simp] theorem Core.touch_engX (c : Core) (lo n : Nat) : (c.touch lo n).engX = c.engX := by unfold Core.touch; split <;> rfl
@[simp] theorem Core.touch_scalar (c : Core) (lo n : Nat) : (c.touch lo n).scalar = c.scalar := by unfold Core.touch; split <;> rfl
@[simp] theorem Core.touch_vec (c : Core) (lo n : Nat) : (c.touch lo n).vec = c.vec := by unfold Core.touch; split <;> rfl
@[simp] theorem Core.touch_mat (c : Core) (lo n : Nat) : (c.touch lo n).mat = c.mat := by unfold Core.touch; split <;> rfl
@[simp] theorem Core.touch_xfer (c : Core) (lo n : Nat) : (c.touch lo n).xfer = c.xfer := by unfold Core.touch; split <;> rfl
@[simp] theorem Core.touch_queues (c : Core) (lo n : Nat) : (c.touch lo n).queues = c.queues := by unfold Core.touch; split <;> rfl
@[simp] theorem Core.touch_active (c : Core) (lo n : Nat) : (c.touch lo n).active = c.active := by unfold Core.touch; split <;> rfl
@[simp] theorem Core.touch_shadow (c : Core) (lo n : Nat) : (c.touch lo n).shadow = c.shadow := by unfold Core.touch; split <;> rfl
@[simp] theorem Core.touch_idx (c : Core) (lo n : Nat) : (c.touch lo n).idx = c.idx := by unfold Core.touch; split <;> rfl
@[simp] theorem Core.touch_nest (c : Core) (lo n : Nat) : (c.touch lo n).nest = c.nest := by unfold Core.touch; split <;> rfl
@[simp] theorem Core.touch_walk (c : Core) (lo n : Nat) : (c.touch lo n).walk = c.walk := by unfold Core.touch; split <;> rfl
@[simp] theorem Core.touch_fails (c : Core) (lo n : Nat) : (c.touch lo n).fails = c.fails := by unfold Core.touch; split <;> rfl
@[simp] theorem Core.touch_fatal (c : Core) (lo n : Nat) : (c.touch lo n).fatal = c.fatal := by unfold Core.touch; split <;> rfl
@[simp] theorem Core.touch_stopped (c : Core) (lo n : Nat) : (c.touch lo n).stopped = c.stopped := by unfold Core.touch; split <;> rfl
@[simp] theorem Core.touch_deque (c : Core) (lo n : Nat) : (c.touch lo n).deque = c.deque := by unfold Core.touch; split <;> rfl
@[simp] theorem Core.touch_job (c : Core) (lo n : Nat) : (c.touch lo n).job = c.job := by unfold Core.touch; split <;> rfl

/-! ### writeSpad -/

@[simp] theorem Core.writeSpad_id (c : Core) (o : Nat) (bs : List Byte) : (c.writeSpad o bs).id = c.id := by simp [Core.writeSpad]
@[simp] theorem Core.writeSpad_running (c : Core) (o : Nat) (bs : List Byte) : (c.writeSpad o bs).running = c.running := by simp [Core.writeSpad]
@[simp] theorem Core.writeSpad_phase (c : Core) (o : Nat) (bs : List Byte) : (c.writeSpad o bs).phase = c.phase := by simp [Core.writeSpad]
@[simp] theorem Core.writeSpad_engS (c : Core) (o : Nat) (bs : List Byte) : (c.writeSpad o bs).engS = c.engS := by simp [Core.writeSpad]
@[simp] theorem Core.writeSpad_engV (c : Core) (o : Nat) (bs : List Byte) : (c.writeSpad o bs).engV = c.engV := by simp [Core.writeSpad]
@[simp] theorem Core.writeSpad_engM (c : Core) (o : Nat) (bs : List Byte) : (c.writeSpad o bs).engM = c.engM := by simp [Core.writeSpad]
@[simp] theorem Core.writeSpad_engX (c : Core) (o : Nat) (bs : List Byte) : (c.writeSpad o bs).engX = c.engX := by simp [Core.writeSpad]
@[simp] theorem Core.writeSpad_scalar (c : Core) (o : Nat) (bs : List Byte) : (c.writeSpad o bs).scalar = c.scalar := by simp [Core.writeSpad]
@[simp] theorem Core.writeSpad_vec (c : Core) (o : Nat) (bs : List Byte) : (c.writeSpad o bs).vec = c.vec := by simp [Core.writeSpad]
@[simp] theorem Core.writeSpad_mat (c : Core) (o : Nat) (bs : List Byte) : (c.writeSpad o bs).mat = c.mat := by simp [Core.writeSpad]
@[simp] theorem Core.writeSpad_xfer (c : Core) (o : Nat) (bs : List Byte) : (c.writeSpad o bs).xfer = c.xfer := by simp [Core.writeSpad]
@[simp] theorem Core.writeSpad_queues (c : Core) (o : Nat) (bs : List Byte) : (c.writeSpad o bs).queues = c.queues := by simp [Core.writeSpad]
@[simp] theorem Core.writeSpad_active (c : Core) (o : Nat) (bs : List Byte) : (c.writeSpad o bs).active = c.active := by simp [Core.writeSpad]
@[simp] theorem Core.writeSpad_shadow (c : Core) (o : Nat) (bs : List Byte) : (c.writeSpad o bs).shadow = c.shadow := by simp [Core.writeSpad]
@[simp] theorem Core.writeSpad_idx (c : Core) (o : Nat) (bs : List Byte) : (c.writeSpad o bs).idx = c.idx := by simp [Core.writeSpad]
@[simp] theorem Core.writeSpad_nest (c : Core) (o : Nat) (bs : List Byte) : (c.writeSpad o bs).nest = c.nest := by simp [Core.writeSpad]
@[simp] theorem Core.writeSpad_walk (c : Core) (o : Nat) (bs : List Byte) : (c.writeSpad o bs).walk = c.walk := by simp [Core.writeSpad]
@[simp] theorem Core.writeSpad_fails (c : Core) (o : Nat) (bs : List Byte) : (c.writeSpad o bs).fails = c.fails := by simp [Core.writeSpad]
@[simp] theorem Core.writeSpad_fatal (c : Core) (o : Nat) (bs : List Byte) : (c.writeSpad o bs).fatal = c.fatal := by simp [Core.writeSpad]
@[simp] theorem Core.writeSpad_stopped (c : Core) (o : Nat) (bs : List Byte) : (c.writeSpad o bs).stopped = c.stopped := by simp [Core.writeSpad]
@[simp] theorem Core.writeSpad_deque (c : Core) (o : Nat) (bs : List Byte) : (c.writeSpad o bs).deque = c.deque := by simp [Core.writeSpad]
@[simp] theorem Core.writeSpad_job (c : Core) (o : Nat) (bs : List Byte) : (c.writeSpad o bs).job = c.job := by simp [Core.writeSpad]

/-! ### setFlags -/

@[simp] theorem Core.setFlags_id (c : Core) (f : BitVec 6) : (c.setFlags f).id = c.id := rfl
@[simp] theorem Core.setFlags_running (c : Core) (f : BitVec 6) : (c.setFlags f).running = c.running := rfl
@[simp] theorem Core.setFlags_phase (c : Core) (f : BitVec 6) : (c.setFlags f).phase = c.phase := rfl
@[simp] theorem Core.setFlags_engS (c : Core) (f : BitVec 6) : (c.setFlags f).engS = c.engS := rfl
@[simp] theorem Core.setFlags_engV (c : Core) (f : BitVec 6) : (c.setFlags f).engV = c.engV := rfl
@[simp] theorem Core.setFlags_engM (c : Core) (f : BitVec 6) : (c.setFlags f).engM = c.engM := rfl
@[simp] theorem Core.setFlags_engX (c : Core) (f : BitVec 6) : (c.setFlags f).engX = c.engX := rfl
@[simp] theorem Core.setFlags_vec (c : Core) (f : BitVec 6) : (c.setFlags f).vec = c.vec := rfl
@[simp] theorem Core.setFlags_mat (c : Core) (f : BitVec 6) : (c.setFlags f).mat = c.mat := rfl
@[simp] theorem Core.setFlags_xfer (c : Core) (f : BitVec 6) : (c.setFlags f).xfer = c.xfer := rfl
@[simp] theorem Core.setFlags_queues (c : Core) (f : BitVec 6) : (c.setFlags f).queues = c.queues := rfl
@[simp] theorem Core.setFlags_store (c : Core) (f : BitVec 6) : (c.setFlags f).store = c.store := rfl
@[simp] theorem Core.setFlags_active (c : Core) (f : BitVec 6) : (c.setFlags f).active = c.active := rfl
@[simp] theorem Core.setFlags_shadow (c : Core) (f : BitVec 6) : (c.setFlags f).shadow = c.shadow := rfl
@[simp] theorem Core.setFlags_idx (c : Core) (f : BitVec 6) : (c.setFlags f).idx = c.idx := rfl
@[simp] theorem Core.setFlags_nest (c : Core) (f : BitVec 6) : (c.setFlags f).nest = c.nest := rfl
@[simp] theorem Core.setFlags_walk (c : Core) (f : BitVec 6) : (c.setFlags f).walk = c.walk := rfl
@[simp] theorem Core.setFlags_fails (c : Core) (f : BitVec 6) : (c.setFlags f).fails = c.fails := rfl
@[simp] theorem Core.setFlags_fatal (c : Core) (f : BitVec 6) : (c.setFlags f).fatal = c.fatal := rfl
@[simp] theorem Core.setFlags_stopped (c : Core) (f : BitVec 6) : (c.setFlags f).stopped = c.stopped := rfl
@[simp] theorem Core.setFlags_deque (c : Core) (f : BitVec 6) : (c.setFlags f).deque = c.deque := rfl
@[simp] theorem Core.setFlags_job (c : Core) (f : BitVec 6) : (c.setFlags f).job = c.job := rfl

/-! ### setTile -/

@[simp] theorem Core.setTile_id (c : Core) (i : BitVec 6) (x : Tile) : (c.setTile i x).id = c.id := rfl
@[simp] theorem Core.setTile_running (c : Core) (i : BitVec 6) (x : Tile) : (c.setTile i x).running = c.running := rfl
@[simp] theorem Core.setTile_phase (c : Core) (i : BitVec 6) (x : Tile) : (c.setTile i x).phase = c.phase := rfl
@[simp] theorem Core.setTile_engS (c : Core) (i : BitVec 6) (x : Tile) : (c.setTile i x).engS = c.engS := rfl
@[simp] theorem Core.setTile_engV (c : Core) (i : BitVec 6) (x : Tile) : (c.setTile i x).engV = c.engV := rfl
@[simp] theorem Core.setTile_engM (c : Core) (i : BitVec 6) (x : Tile) : (c.setTile i x).engM = c.engM := rfl
@[simp] theorem Core.setTile_engX (c : Core) (i : BitVec 6) (x : Tile) : (c.setTile i x).engX = c.engX := rfl
@[simp] theorem Core.setTile_scalar (c : Core) (i : BitVec 6) (x : Tile) : (c.setTile i x).scalar = c.scalar := rfl
@[simp] theorem Core.setTile_vec (c : Core) (i : BitVec 6) (x : Tile) : (c.setTile i x).vec = c.vec := rfl
@[simp] theorem Core.setTile_mat (c : Core) (i : BitVec 6) (x : Tile) : (c.setTile i x).mat = c.mat := rfl
@[simp] theorem Core.setTile_xfer (c : Core) (i : BitVec 6) (x : Tile) : (c.setTile i x).xfer = c.xfer := rfl
@[simp] theorem Core.setTile_queues (c : Core) (i : BitVec 6) (x : Tile) : (c.setTile i x).queues = c.queues := rfl
@[simp] theorem Core.setTile_active (c : Core) (i : BitVec 6) (x : Tile) : (c.setTile i x).active = c.active := rfl
@[simp] theorem Core.setTile_shadow (c : Core) (i : BitVec 6) (x : Tile) : (c.setTile i x).shadow = c.shadow := rfl
@[simp] theorem Core.setTile_idx (c : Core) (i : BitVec 6) (x : Tile) : (c.setTile i x).idx = c.idx := rfl
@[simp] theorem Core.setTile_nest (c : Core) (i : BitVec 6) (x : Tile) : (c.setTile i x).nest = c.nest := rfl
@[simp] theorem Core.setTile_walk (c : Core) (i : BitVec 6) (x : Tile) : (c.setTile i x).walk = c.walk := rfl
@[simp] theorem Core.setTile_fails (c : Core) (i : BitVec 6) (x : Tile) : (c.setTile i x).fails = c.fails := rfl
@[simp] theorem Core.setTile_fatal (c : Core) (i : BitVec 6) (x : Tile) : (c.setTile i x).fatal = c.fatal := rfl
@[simp] theorem Core.setTile_stopped (c : Core) (i : BitVec 6) (x : Tile) : (c.setTile i x).stopped = c.stopped := rfl
@[simp] theorem Core.setTile_deque (c : Core) (i : BitVec 6) (x : Tile) : (c.setTile i x).deque = c.deque := rfl
@[simp] theorem Core.setTile_job (c : Core) (i : BitVec 6) (x : Tile) : (c.setTile i x).job = c.job := rfl

/-! ### setHandle -/

@[simp] theorem Core.setHandle_id (c : Core) (h : BitVec 4) (x : Handle) : (c.setHandle h x).id = c.id := rfl
@[simp] theorem Core.setHandle_running (c : Core) (h : BitVec 4) (x : Handle) : (c.setHandle h x).running = c.running := rfl
@[simp] theorem Core.setHandle_phase (c : Core) (h : BitVec 4) (x : Handle) : (c.setHandle h x).phase = c.phase := rfl
@[simp] theorem Core.setHandle_engS (c : Core) (h : BitVec 4) (x : Handle) : (c.setHandle h x).engS = c.engS := rfl
@[simp] theorem Core.setHandle_engV (c : Core) (h : BitVec 4) (x : Handle) : (c.setHandle h x).engV = c.engV := rfl
@[simp] theorem Core.setHandle_engM (c : Core) (h : BitVec 4) (x : Handle) : (c.setHandle h x).engM = c.engM := rfl
@[simp] theorem Core.setHandle_engX (c : Core) (h : BitVec 4) (x : Handle) : (c.setHandle h x).engX = c.engX := rfl
@[simp] theorem Core.setHandle_scalar (c : Core) (h : BitVec 4) (x : Handle) : (c.setHandle h x).scalar = c.scalar := rfl
@[simp] theorem Core.setHandle_vec (c : Core) (h : BitVec 4) (x : Handle) : (c.setHandle h x).vec = c.vec := rfl
@[simp] theorem Core.setHandle_mat (c : Core) (h : BitVec 4) (x : Handle) : (c.setHandle h x).mat = c.mat := rfl
@[simp] theorem Core.setHandle_xfer (c : Core) (h : BitVec 4) (x : Handle) : (c.setHandle h x).xfer = c.xfer := rfl
@[simp] theorem Core.setHandle_queues (c : Core) (h : BitVec 4) (x : Handle) : (c.setHandle h x).queues = c.queues := rfl
@[simp] theorem Core.setHandle_active (c : Core) (h : BitVec 4) (x : Handle) : (c.setHandle h x).active = c.active := rfl
@[simp] theorem Core.setHandle_shadow (c : Core) (h : BitVec 4) (x : Handle) : (c.setHandle h x).shadow = c.shadow := rfl
@[simp] theorem Core.setHandle_idx (c : Core) (h : BitVec 4) (x : Handle) : (c.setHandle h x).idx = c.idx := rfl
@[simp] theorem Core.setHandle_nest (c : Core) (h : BitVec 4) (x : Handle) : (c.setHandle h x).nest = c.nest := rfl
@[simp] theorem Core.setHandle_walk (c : Core) (h : BitVec 4) (x : Handle) : (c.setHandle h x).walk = c.walk := rfl
@[simp] theorem Core.setHandle_fails (c : Core) (h : BitVec 4) (x : Handle) : (c.setHandle h x).fails = c.fails := rfl
@[simp] theorem Core.setHandle_fatal (c : Core) (h : BitVec 4) (x : Handle) : (c.setHandle h x).fatal = c.fatal := rfl
@[simp] theorem Core.setHandle_stopped (c : Core) (h : BitVec 4) (x : Handle) : (c.setHandle h x).stopped = c.stopped := rfl
@[simp] theorem Core.setHandle_deque (c : Core) (h : BitVec 4) (x : Handle) : (c.setHandle h x).deque = c.deque := rfl
@[simp] theorem Core.setHandle_job (c : Core) (h : BitVec 4) (x : Handle) : (c.setHandle h x).job = c.job := rfl

/-! ### addFail -/

@[simp] theorem Core.addFail_id (c : Core) (e : Engine) (k : BitVec 8) (v : Word) : (c.addFail e k v).id = c.id := rfl
@[simp] theorem Core.addFail_running (c : Core) (e : Engine) (k : BitVec 8) (v : Word) : (c.addFail e k v).running = c.running := rfl
@[simp] theorem Core.addFail_phase (c : Core) (e : Engine) (k : BitVec 8) (v : Word) : (c.addFail e k v).phase = c.phase := rfl
@[simp] theorem Core.addFail_engS (c : Core) (e : Engine) (k : BitVec 8) (v : Word) : (c.addFail e k v).engS = c.engS := rfl
@[simp] theorem Core.addFail_engV (c : Core) (e : Engine) (k : BitVec 8) (v : Word) : (c.addFail e k v).engV = c.engV := rfl
@[simp] theorem Core.addFail_engM (c : Core) (e : Engine) (k : BitVec 8) (v : Word) : (c.addFail e k v).engM = c.engM := rfl
@[simp] theorem Core.addFail_engX (c : Core) (e : Engine) (k : BitVec 8) (v : Word) : (c.addFail e k v).engX = c.engX := rfl
@[simp] theorem Core.addFail_scalar (c : Core) (e : Engine) (k : BitVec 8) (v : Word) : (c.addFail e k v).scalar = c.scalar := rfl
@[simp] theorem Core.addFail_vec (c : Core) (e : Engine) (k : BitVec 8) (v : Word) : (c.addFail e k v).vec = c.vec := rfl
@[simp] theorem Core.addFail_mat (c : Core) (e : Engine) (k : BitVec 8) (v : Word) : (c.addFail e k v).mat = c.mat := rfl
@[simp] theorem Core.addFail_xfer (c : Core) (e : Engine) (k : BitVec 8) (v : Word) : (c.addFail e k v).xfer = c.xfer := rfl
@[simp] theorem Core.addFail_queues (c : Core) (e : Engine) (k : BitVec 8) (v : Word) : (c.addFail e k v).queues = c.queues := rfl
@[simp] theorem Core.addFail_store (c : Core) (e : Engine) (k : BitVec 8) (v : Word) : (c.addFail e k v).store = c.store := rfl
@[simp] theorem Core.addFail_active (c : Core) (e : Engine) (k : BitVec 8) (v : Word) : (c.addFail e k v).active = c.active := rfl
@[simp] theorem Core.addFail_shadow (c : Core) (e : Engine) (k : BitVec 8) (v : Word) : (c.addFail e k v).shadow = c.shadow := rfl
@[simp] theorem Core.addFail_idx (c : Core) (e : Engine) (k : BitVec 8) (v : Word) : (c.addFail e k v).idx = c.idx := rfl
@[simp] theorem Core.addFail_nest (c : Core) (e : Engine) (k : BitVec 8) (v : Word) : (c.addFail e k v).nest = c.nest := rfl
@[simp] theorem Core.addFail_walk (c : Core) (e : Engine) (k : BitVec 8) (v : Word) : (c.addFail e k v).walk = c.walk := rfl
@[simp] theorem Core.addFail_fatal (c : Core) (e : Engine) (k : BitVec 8) (v : Word) : (c.addFail e k v).fatal = c.fatal := rfl
@[simp] theorem Core.addFail_stopped (c : Core) (e : Engine) (k : BitVec 8) (v : Word) : (c.addFail e k v).stopped = c.stopped := rfl
@[simp] theorem Core.addFail_deque (c : Core) (e : Engine) (k : BitVec 8) (v : Word) : (c.addFail e k v).deque = c.deque := rfl
@[simp] theorem Core.addFail_job (c : Core) (e : Engine) (k : BitVec 8) (v : Word) : (c.addFail e k v).job = c.job := rfl

@[simp] theorem Core.setReg_scalar_flights (c : Core) (r : BitVec 6) (v : Word) :
    (c.setReg r v).scalar.flights = c.scalar.flights := by unfold Core.setReg; split <;> rfl
@[simp] theorem Core.setReg_scalar_hold (c : Core) (r : BitVec 6) (v : Word) :
    (c.setReg r v).scalar.hold = c.scalar.hold := by unfold Core.setReg; split <;> rfl
@[simp] theorem Core.setReg_scalar_slip (c : Core) (r : BitVec 6) (v : Word) :
    (c.setReg r v).scalar.slip = c.scalar.slip := by unfold Core.setReg; split <;> rfl
@[simp] theorem Core.setReg_scalar_fpmode (c : Core) (r : BitVec 6) (v : Word) :
    (c.setReg r v).scalar.fpmode = c.scalar.fpmode := by unfold Core.setReg; split <;> rfl
@[simp] theorem Core.setReg_scalar_fpflags (c : Core) (r : BitVec 6) (v : Word) :
    (c.setReg r v).scalar.fpflags = c.scalar.fpflags := by unfold Core.setReg; split <;> rfl
@[simp] theorem Core.setReg_scalar_tvec (c : Core) (r : BitVec 6) (v : Word) :
    (c.setReg r v).scalar.tvec = c.scalar.tvec := by unfold Core.setReg; split <;> rfl
@[simp] theorem Core.setReg_scalar_tcause (c : Core) (r : BitVec 6) (v : Word) :
    (c.setReg r v).scalar.tcause = c.scalar.tcause := by unfold Core.setReg; split <;> rfl
@[simp] theorem Core.setReg_scalar_tval (c : Core) (r : BitVec 6) (v : Word) :
    (c.setReg r v).scalar.tval = c.scalar.tval := by unfold Core.setReg; split <;> rfl
@[simp] theorem Core.setReg_scalar_timer (c : Core) (r : BitVec 6) (v : Word) :
    (c.setReg r v).scalar.timer = c.scalar.timer := by unfold Core.setReg; split <;> rfl
@[simp] theorem Core.setReg_scalar_armed (c : Core) (r : BitVec 6) (v : Word) :
    (c.setReg r v).scalar.armed = c.scalar.armed := by unfold Core.setReg; split <;> rfl
@[simp] theorem Core.setReg_scalar_ien (c : Core) (r : BitVec 6) (v : Word) :
    (c.setReg r v).scalar.ien = c.scalar.ien := by unfold Core.setReg; split <;> rfl
@[simp] theorem Core.setReg_scalar_ipend (c : Core) (r : BitVec 6) (v : Word) :
    (c.setReg r v).scalar.ipend = c.scalar.ipend := by unfold Core.setReg; split <;> rfl
@[simp] theorem Core.setReg_scalar_handler (c : Core) (r : BitVec 6) (v : Word) :
    (c.setReg r v).scalar.handler = c.scalar.handler := by unfold Core.setReg; split <;> rfl
@[simp] theorem Core.setReg_scalar_late (c : Core) (r : BitVec 6) (v : Word) :
    (c.setReg r v).scalar.late = c.scalar.late := by unfold Core.setReg; split <;> rfl
@[simp] theorem Core.setReg_scalar_stash (c : Core) (r : BitVec 6) (v : Word) :
    (c.setReg r v).scalar.stash = c.scalar.stash := by unfold Core.setReg; split <;> rfl
@[simp] theorem Core.setReg_scalar_sent (c : Core) (r : BitVec 6) (v : Word) :
    (c.setReg r v).scalar.sent = c.scalar.sent := by unfold Core.setReg; split <;> rfl
@[simp] theorem Core.setReg_scalar_sentOut (c : Core) (r : BitVec 6) (v : Word) :
    (c.setReg r v).scalar.sentOut = c.scalar.sentOut := by unfold Core.setReg; split <;> rfl
@[simp] theorem Core.setReg_scalar_raised (c : Core) (r : BitVec 6) (v : Word) :
    (c.setReg r v).scalar.raised = c.scalar.raised := by unfold Core.setReg; split <;> rfl
@[simp] theorem Core.setReg_scalar_deferred (c : Core) (r : BitVec 6) (v : Word) :
    (c.setReg r v).scalar.deferred = c.scalar.deferred := by unfold Core.setReg; split <;> rfl

@[simp] theorem Core.addFlight_scalar_regs (c : Core) (b n : Nat) (w : SWork) (t : BitVec 3)
    (h : Option (BitVec 4)) : (c.addFlight b n w t h).scalar.regs = c.scalar.regs := rfl
@[simp] theorem Core.addFlight_scalar_hold (c : Core) (b n : Nat) (w : SWork) (t : BitVec 3)
    (h : Option (BitVec 4)) : (c.addFlight b n w t h).scalar.hold = c.scalar.hold := rfl
@[simp] theorem Core.addFlight_scalar_slip (c : Core) (b n : Nat) (w : SWork) (t : BitVec 3)
    (h : Option (BitVec 4)) : (c.addFlight b n w t h).scalar.slip = c.scalar.slip := rfl
@[simp] theorem Core.addFlight_scalar_fpmode (c : Core) (b n : Nat) (w : SWork) (t : BitVec 3)
    (h : Option (BitVec 4)) : (c.addFlight b n w t h).scalar.fpmode = c.scalar.fpmode := rfl
@[simp] theorem Core.addFlight_scalar_fpflags (c : Core) (b n : Nat) (w : SWork) (t : BitVec 3)
    (h : Option (BitVec 4)) : (c.addFlight b n w t h).scalar.fpflags = c.scalar.fpflags := rfl
@[simp] theorem Core.addFlight_scalar_tvec (c : Core) (b n : Nat) (w : SWork) (t : BitVec 3)
    (h : Option (BitVec 4)) : (c.addFlight b n w t h).scalar.tvec = c.scalar.tvec := rfl
@[simp] theorem Core.addFlight_scalar_tcause (c : Core) (b n : Nat) (w : SWork) (t : BitVec 3)
    (h : Option (BitVec 4)) : (c.addFlight b n w t h).scalar.tcause = c.scalar.tcause := rfl
@[simp] theorem Core.addFlight_scalar_tval (c : Core) (b n : Nat) (w : SWork) (t : BitVec 3)
    (h : Option (BitVec 4)) : (c.addFlight b n w t h).scalar.tval = c.scalar.tval := rfl
@[simp] theorem Core.addFlight_scalar_timer (c : Core) (b n : Nat) (w : SWork) (t : BitVec 3)
    (h : Option (BitVec 4)) : (c.addFlight b n w t h).scalar.timer = c.scalar.timer := rfl
@[simp] theorem Core.addFlight_scalar_armed (c : Core) (b n : Nat) (w : SWork) (t : BitVec 3)
    (h : Option (BitVec 4)) : (c.addFlight b n w t h).scalar.armed = c.scalar.armed := rfl
@[simp] theorem Core.addFlight_scalar_ien (c : Core) (b n : Nat) (w : SWork) (t : BitVec 3)
    (h : Option (BitVec 4)) : (c.addFlight b n w t h).scalar.ien = c.scalar.ien := rfl
@[simp] theorem Core.addFlight_scalar_ipend (c : Core) (b n : Nat) (w : SWork) (t : BitVec 3)
    (h : Option (BitVec 4)) : (c.addFlight b n w t h).scalar.ipend = c.scalar.ipend := rfl
@[simp] theorem Core.addFlight_scalar_handler (c : Core) (b n : Nat) (w : SWork) (t : BitVec 3)
    (h : Option (BitVec 4)) : (c.addFlight b n w t h).scalar.handler = c.scalar.handler := rfl
@[simp] theorem Core.addFlight_scalar_late (c : Core) (b n : Nat) (w : SWork) (t : BitVec 3)
    (h : Option (BitVec 4)) : (c.addFlight b n w t h).scalar.late = c.scalar.late := rfl
@[simp] theorem Core.addFlight_scalar_stash (c : Core) (b n : Nat) (w : SWork) (t : BitVec 3)
    (h : Option (BitVec 4)) : (c.addFlight b n w t h).scalar.stash = c.scalar.stash := rfl
@[simp] theorem Core.addFlight_scalar_sent (c : Core) (b n : Nat) (w : SWork) (t : BitVec 3)
    (h : Option (BitVec 4)) : (c.addFlight b n w t h).scalar.sent = c.scalar.sent := rfl
@[simp] theorem Core.addFlight_scalar_sentOut (c : Core) (b n : Nat) (w : SWork) (t : BitVec 3)
    (h : Option (BitVec 4)) : (c.addFlight b n w t h).scalar.sentOut = c.scalar.sentOut := rfl
@[simp] theorem Core.addFlight_scalar_raised (c : Core) (b n : Nat) (w : SWork) (t : BitVec 3)
    (h : Option (BitVec 4)) : (c.addFlight b n w t h).scalar.raised = c.scalar.raised := rfl
@[simp] theorem Core.addFlight_scalar_deferred (c : Core) (b n : Nat) (w : SWork) (t : BitVec 3)
    (h : Option (BitVec 4)) : (c.addFlight b n w t h).scalar.deferred = c.scalar.deferred := rfl

@[simp] theorem Core.fly_vec_regs (c : Core) (t : BitVec 3) (n : Nat) (fs : List Flight) :
    (c.fly t n fs).vec.regs = c.vec.regs := rfl
@[simp] theorem Core.fly_vec_masks (c : Core) (t : BitVec 3) (n : Nat) (fs : List Flight) :
    (c.fly t n fs).vec.masks = c.vec.masks := rfl
@[simp] theorem Core.fly_vec_window (c : Core) (t : BitVec 3) (n : Nat) (fs : List Flight) :
    (c.fly t n fs).vec.window = c.vec.window := rfl
@[simp] theorem Core.fly_vec_latch (c : Core) (t : BitVec 3) (n : Nat) (fs : List Flight) :
    (c.fly t n fs).vec.latch = c.vec.latch := rfl
@[simp] theorem Core.fly_vec_replay (c : Core) (t : BitVec 3) (n : Nat) (fs : List Flight) :
    (c.fly t n fs).vec.replay = c.vec.replay := rfl
@[simp] theorem Core.addPushes_tok (c : Core) (ps : List Push) : (c.addPushes ps).queues.tok = c.queues.tok := rfl
@[simp] theorem Core.signal_tok (c : Core) (n : Nat) (e : Engine) (m t : BitVec 3) :
    (c.signal n e m t).queues.tok = c.queues.tok := by cases e <;> rfl
@[simp] theorem Core.addPushes_pend (c : Core) (ps : List Push) : (c.addPushes ps).queues.pend = c.queues.pend := rfl
@[simp] theorem Core.signal_pend (c : Core) (n : Nat) (e : Engine) (m t : BitVec 3) :
    (c.signal n e m t).queues.pend = c.queues.pend := by cases e <;> rfl
@[simp] theorem Core.addPushes_cond (c : Core) (ps : List Push) : (c.addPushes ps).queues.cond = c.queues.cond := rfl
@[simp] theorem Core.signal_cond (c : Core) (n : Nat) (e : Engine) (m t : BitVec 3) :
    (c.signal n e m t).queues.cond = c.queues.cond := by cases e <;> rfl
@[simp] theorem Core.addPushes_held (c : Core) (ps : List Push) : (c.addPushes ps).queues.held = c.queues.held := rfl
@[simp] theorem Core.signal_held (c : Core) (n : Nat) (e : Engine) (m t : BitVec 3) :
    (c.signal n e m t).queues.held = c.queues.held := by cases e <;> rfl
@[simp] theorem Core.addPushes_pathV (c : Core) (ps : List Push) : (c.addPushes ps).queues.pathV = c.queues.pathV := rfl
@[simp] theorem Core.signal_pathV (c : Core) (n : Nat) (e : Engine) (m t : BitVec 3) :
    (c.signal n e m t).queues.pathV = c.queues.pathV := by cases e <;> rfl
@[simp] theorem Core.addPushes_pathM (c : Core) (ps : List Push) : (c.addPushes ps).queues.pathM = c.queues.pathM := rfl
@[simp] theorem Core.signal_pathM (c : Core) (n : Nat) (e : Engine) (m t : BitVec 3) :
    (c.signal n e m t).queues.pathM = c.queues.pathM := by cases e <;> rfl
@[simp] theorem Core.addPushes_pathX (c : Core) (ps : List Push) : (c.addPushes ps).queues.pathX = c.queues.pathX := rfl
@[simp] theorem Core.signal_pathX (c : Core) (n : Nat) (e : Engine) (m t : BitVec 3) :
    (c.signal n e m t).queues.pathX = c.queues.pathX := by cases e <;> rfl
@[simp] theorem Core.takeTokens_pend (c : Core) (e : Engine) (t m : BitVec 3) :
    (c.takeTokens e t m).queues.pend = c.queues.pend := rfl
@[simp] theorem Core.takeTokens_cond (c : Core) (e : Engine) (t m : BitVec 3) :
    (c.takeTokens e t m).queues.cond = c.queues.cond := rfl
@[simp] theorem Core.takeTokens_held (c : Core) (e : Engine) (t m : BitVec 3) :
    (c.takeTokens e t m).queues.held = c.queues.held := rfl
@[simp] theorem Core.takeTokens_pathV (c : Core) (e : Engine) (t m : BitVec 3) :
    (c.takeTokens e t m).queues.pathV = c.queues.pathV := rfl
@[simp] theorem Core.takeTokens_pathM (c : Core) (e : Engine) (t m : BitVec 3) :
    (c.takeTokens e t m).queues.pathM = c.queues.pathM := rfl
@[simp] theorem Core.takeTokens_pathX (c : Core) (e : Engine) (t m : BitVec 3) :
    (c.takeTokens e t m).queues.pathX = c.queues.pathX := rfl
@[simp] theorem Core.takeTokens_pushes (c : Core) (e : Engine) (t m : BitVec 3) :
    (c.takeTokens e t m).queues.pushes = c.queues.pushes := rfl

@[simp] theorem State.onCore_core (s : State) (f : Core → Core) : (s.onCore f).core = f s.core := rfl
@[simp] theorem State.onCore_others (s : State) (f : Core → Core) : (s.onCore f).others = s.others := rfl
@[simp] theorem State.onCore_dev (s : State) (f : Core → Core) : (s.onCore f).dev = s.dev := rfl

@[simp] theorem Core.addPushes_pushes (c : Core) (ps : List Push) :
    (c.addPushes ps).queues.pushes = c.queues.pushes ++ ps := rfl
@[simp] theorem Core.signal_pushes_s (c : Core) (n : Nat) (m t : BitVec 3) :
    (c.signal n .s m t).queues.pushes = c.queues.pushes ++ retirePush n m (sigMask t) .none := rfl
theorem Core.signal_pushes (c : Core) (n : Nat) (e : Engine) (m t : BitVec 3) (h : e ≠ .s) :
    (c.signal n e m t).queues.pushes = c.queues.pushes ++ (tokenPushes n e m ++ tokenPushes n e (sigMask t)) := by
  cases e <;> first | rfl | exact absurd rfl h
@[simp] theorem tokenPushes_zero (n : Nat) (e : Engine) : tokenPushes n e 0#3 = [] := by simp [tokenPushes]

@[simp] theorem Core.endTurn_accs (c : Core) (e : Engine) : (c.endTurn e).mat.accs = c.mat.accs := by cases e <;> rfl
@[simp] theorem Core.endTurn_sigs (c : Core) (e : Engine) : (c.endTurn e).mat.sigs = c.mat.sigs := by cases e <;> rfl
@[simp] theorem Core.endTurn_saved (c : Core) (e : Engine) : (c.endTurn e).xfer.saved = c.xfer.saved := by cases e <;> rfl

/-- The words in M's queue keep their order through a turn; the head spends a cycle. -/
@[simp] theorem Core.endTurn_queue (c : Core) (e : Engine) :
    (c.endTurn e).mat.queue.map (·.instr) = c.mat.queue.map (·.instr) := by
  cases e <;> simp only [Core.endTurn, Core.enterDrain]
  cases c.mat.queue <;> rfl

/-- The commands in X's journal keep their order through a turn. -/
@[simp] theorem Core.endTurn_journal (c : Core) (e : Engine) :
    (c.endTurn e).xfer.journal.map (·.word) = c.xfer.journal.map (·.word) := by
  cases e <;> simp only [Core.endTurn, Core.enterDrain]
  cases c.xfer.journal with
  | nil => rfl
  | cons e es => cases h : c.returning <;> simp

/-- Only the engine's own turn of S spends a cycle of M and X. -/
@[simp] theorem Core.endTurn_mat (c : Core) (e : Engine) (h : e ≠ .s) : (c.endTurn e).mat = c.mat := by
  cases e <;> first | rfl | exact absurd rfl h
@[simp] theorem Core.endTurn_xfer (c : Core) (e : Engine) (h : e ≠ .s) : (c.endTurn e).xfer = c.xfer := by
  cases e <;> first | rfl | exact absurd rfl h

/-! ### Registers -/

theorem Core.reg_eq (c k : Core) (h : k.scalar.regs = c.scalar.regs) (r : BitVec 6) : k.reg r = c.reg r := by
  simp [Core.reg, h]

theorem Core.reg_pos (c : Core) (r : BitVec 6) (h : r ≠ 0) : c.reg r = c.scalar.regs[r.toNat]'r.isLt := if_neg h

@[simp] theorem Core.reg_zero (c : Core) : c.reg 0 = 0 := rfl
@[simp] theorem Core.setReg_zero (c : Core) (v : Word) : c.setReg 0 v = c := rfl

theorem Core.setReg_pos (c : Core) (d : BitVec 6) (v : Word) (h : d ≠ 0) :
    c.setReg d v = { c with scalar := { c.scalar with regs := c.scalar.regs.set d.toNat v d.isLt } } := if_neg h

/-- Reading after a write (R128). -/
theorem Core.reg_setReg (c : Core) (d r : BitVec 6) (v : Word) :
    (c.setReg d v).reg r = if r = d then (if d = 0 then 0 else v) else c.reg r := by
  by_cases hd : d = 0
  · subst hd
    by_cases hr : r = 0
    · subst hr; rfl
    · rw [if_neg hr, Core.setReg_zero]
  · rw [Core.setReg_pos c d v hd]
    by_cases hr : r = d
    · subst hr
      rw [Core.reg_pos _ _ hd, if_pos rfl, if_neg hd]
      exact Vector.getElem_set_self _
    · rw [if_neg hr]
      by_cases h0 : r = 0
      · subst h0; rfl
      · rw [Core.reg_pos _ _ h0, Core.reg_pos _ _ h0]
        exact Vector.getElem_set_ne d.isLt r.isLt (fun h => hr (BitVec.eq_of_toNat_eq h).symm)

@[simp] theorem Core.setReg_self (c : Core) (d : BitVec 6) (v : Word) :
    (c.setReg d v).reg d = if d = 0 then 0 else v := by simp [Core.reg_setReg]
theorem Core.setReg_other (c : Core) (d r : BitVec 6) (v : Word) (h : r ≠ d) : (c.setReg d v).reg r = c.reg r := by
  simp [Core.reg_setReg, h]

end Sys2Proof.Machine
end

