-- ==== Sys2Proof/Laws/Issue.lean ====
section
/-! SUPPORT. Gates that the conditions of Safety.lean open, the issue of a word: what its turn does besides its
effect, and the retirement of an S word. -/
namespace Sys2Proof.Machine

/-! ### Gates -/

@[simp] theorem Gate.then_go (g : Gate) : Gate.go.then g = g := rfl
@[simp] theorem Gate.need_true (k : Option Nat) : Gate.need k true = .go := rfl
@[simp] theorem Gate.check_true (c : BitVec 8) (v : Word) : Gate.check c v true = .go := rfl
@[simp] theorem Gate.check_false (c : BitVec 8) (v : Word) : Gate.check c v false = .fail c v := rfl
@[simp] theorem Gate.all_nil : Gate.all [] = .go := rfl
@[simp] theorem Gate.all_go (gs : List Gate) : Gate.all (.go :: gs) = Gate.all gs := rfl
@[simp] theorem Gate.fail_then (c : BitVec 8) (v : Word) (g : Gate) : (Gate.fail c v).then g = .fail c v := rfl
@[simp] theorem Gate.all_fail (c : BitVec 8) (v : Word) (gs : List Gate) : Gate.all (.fail c v :: gs) = .fail c v := rfl

/-- A list of gates all of which are open. -/
theorem Gate.all_open (gs : List Gate) (h : ∀ g ∈ gs, g = .go) : Gate.all gs = .go := by
  induction gs with
  | nil => rfl
  | cons g gs ih =>
    rw [h g (List.mem_cons_self ..), Gate.all_go]
    exact ih (fun g hg => h g (List.mem_cons_of_mem _ hg))

theorem CanIssue.base {c : Core} {e : Engine} {t m : BitVec 3} (h : CanIssue c e t m) : c.baseGate e t m = .go := by
  simp [Core.baseGate, h.noWalk, h.pushed, h.inWindow, h.tokens]

theorem SReady.gate {c : Core} {t m : BitVec 3} {rs : List (BitVec 6)} (h : SReady c t m rs) : c.sGate t m rs = .go := by
  have hr : rs.all c.ready = true := List.all_eq_true.mpr h.clear
  simp [Core.sGate, Core.sFree, Core.lateGate, h.free, h.done, h.calm, hr, h.issue.base]

theorem PathReady.gate {c : Core} {t : BitVec 3} {rs : List (BitVec 6)} (h : PathReady c t rs) : c.pathGate t rs = .go := by
  have hb : (c.scalar.handler || c.pathRoom) = true := by cases h.room <;> simp_all
  rw [Core.pathGate, h.word.gate, hb]; rfl

theorem VReady.gate {c : Core} {t m : BitVec 3} (h : VReady c t m) : c.vGate t m = .go := by
  simp [Core.vGate, h.idle, h.noBit, h.issue.base]

theorem MReady.gate {c : Core} {t : BitVec 3} (h : MReady c t) : c.mGate t = .go := by
  rw [Core.mGate, Core.mWordGate, h.issue.base, Gate.then_go, decide_eq_true h.room]; rfl

theorem XReady.gate {c : Core} {t : BitVec 3} (h : XReady c t) : c.xGate t = .go := by
  rw [Core.xGate, h.issue.base, Gate.then_go, decide_eq_true h.room]; rfl

/-! ### Issue -/

/-- A word whose gate is open issues: it takes its tokens, passes, has its effect, and its turn ends. -/
theorem State.issue_go (s : State) (e : Engine) (t m : BitVec 3) (g : Gate) (eff : State → State) (h : g = .go) :
    s.issue e t m g eff = (eff (s.onCore (fun c => (c.takeTokens e t m).pass e))).onCore (·.endTurn e) := by
  subst h; simp [State.issue]

/-- The same for a word whose effect moves the program counter itself. -/
theorem State.issueAt_go (s : State) (e : Engine) (t m : BitVec 3) (g : Gate) (eff : State → State) (h : g = .go) :
    s.issueAt e t m g eff = (eff (s.onCore (fun c => (c.takeTokens e t m).unstall e))).onCore (·.endTurn e) := by
  subst h; simp [State.issueAt]

/-- A word whose gate fails records the fault, unissued (R181). -/
theorem State.issue_fail (s : State) (e : Engine) (t m : BitVec 3) (k : BitVec 8) (v : Word) (eff : State → State)
    (h : s.core.cleared = false) :
    s.issue e t m (.fail k v) eff = s.onCore (fun c => (c.addFail e k v).endTurn e) := by
  simp [State.issue, h]

/-! ### Program counters and tokens -/

@[simp] theorem Core.eng_setEng (c : Core) (e : Engine) (x : EngineState) : (c.setEng e x).eng e = x := by cases e <;> rfl
@[simp] theorem Core.eng_unstall (c : Core) (e : Engine) :
    (c.unstall e).eng e = { c.eng e with stall := 0 } := by simp [Core.unstall]
@[simp] theorem Core.eng_addPushes (c : Core) (ps : List Push) (e : Engine) : (c.addPushes ps).eng e = c.eng e := by
  cases e <;> rfl
@[simp] theorem Core.eng_signal (c : Core) (n : Nat) (e f : Engine) (m t : BitVec 3) :
    (c.signal n e m t).eng f = c.eng f := by cases e <;> cases f <;> rfl
@[simp] theorem Core.eng_endTurn (c : Core) (e f : Engine) : (c.endTurn e).eng f = c.eng f := by
  cases e <;> cases f <;> rfl
@[simp] theorem Core.eng_takeTokens (c : Core) (e f : Engine) (t m : BitVec 3) : (c.takeTokens e t m).eng f = c.eng f := by
  cases f <;> rfl
@[simp] theorem Core.eng_setReg (c : Core) (r : BitVec 6) (v : Word) (e : Engine) : (c.setReg r v).eng e = c.eng e := by
  cases e <;> simp [Core.eng]
@[simp] theorem Core.eng_addFlight (c : Core) (b n : Nat) (w : SWork) (t : BitVec 3) (h : Option (BitVec 4)) (e : Engine) :
    (c.addFlight b n w t h).eng e = c.eng e := by cases e <;> rfl
@[simp] theorem Core.eng_fly (c : Core) (t : BitVec 3) (n : Nat) (fs : List Flight) (e : Engine) :
    (c.fly t n fs).eng e = c.eng e := by cases e <;> rfl
@[simp] theorem Core.eng_moveTo (c : Core) (e : Engine) (a : Word) :
    (c.moveTo e a).eng e = ⟨a, (c.eng e).walk + 1, 0, (c.eng e).code⟩ := by simp [Core.moveTo]

/-- Outside a nest a passed word leaves its engine at the next one (R15, R17). -/
theorem Core.pass_next (c : Core) (e : Engine) (h : c.nest = none) :
    ((c.pass e).eng e).pc = (c.eng e).pc + 4 ∧ ((c.pass e).eng e).walk = (c.eng e).walk + 1 := by
  simp [Core.pass, h]

@[simp] theorem Core.pass_queues_tok (c : Core) (e : Engine) : (c.pass e).queues.tok = c.queues.tok := by simp

theorem queueNum_ne (e : Engine) {p q : Fin 3} (h : p ≠ q) : queueNum e p.val ≠ queueNum e q.val := by
  unfold queueNum; omega

/-- Each wait takes its token from its own queue (R24). -/
theorem Core.tokens_takeTokens (c : Core) (e : Engine) (t m : BitVec 3) (p : Fin 3) :
    (c.takeTokens e t m).tokens e p = c.tokens e p - tokenNeed t m p := by
  have self : ∀ (c : Core) (q : Fin 3), (c.takeToken e t m q).tokens e q = c.tokens e q - tokenNeed t m q :=
    fun c q => Vector.getElem_set_self _
  have other : ∀ (c : Core) (q r : Fin 3), q ≠ r → (c.takeToken e t m q).tokens e r = c.tokens e r :=
    fun c q r h => Vector.getElem_set_ne (queueNum_lt e q) (queueNum_lt e r) (queueNum_ne e h)
  unfold Core.takeTokens
  match p with
  | 0 => rw [other _ 2 0 (by decide), other _ 1 0 (by decide), self]
  | 1 => rw [other _ 2 1 (by decide), self, other _ 0 1 (by decide)]
  | 2 => rw [self, other _ 1 2 (by decide), other _ 0 2 (by decide)]

theorem Core.tokens_congr {c k : Core} (h : k.queues.tok = c.queues.tok) (e : Engine) (p : Fin 3) :
    k.tokens e p = c.tokens e p := by simp [Core.tokens, h]

/-! ### Retirement of S words (R25 to R27) -/

/-- The queues toward V, M and X are different: a push of S to one of them leaves room in the others as it was. -/
theorem Core.tokens_pushToken_ne (c : Core) {p q : Fin 3} (h : p ≠ q) :
    (c.pushToken .s (Engine.s.partner p)).tokens (Engine.s.partner q) 0 = c.tokens (Engine.s.partner q) 0 := by
  obtain ⟨p, hp⟩ := p
  obtain ⟨q, hq⟩ := q
  match p, q, hp, hq with
  | 0, 0, _, _ => simp at h
  | 1, 1, _, _ => simp at h
  | 2, 2, _, _ => simp at h
  | 0, 1, _, _ | 0, 2, _, _ | 1, 0, _, _ | 1, 2, _, _ | 2, 0, _, _ | 2, 1, _, _ =>
    simp only [Core.pushToken, Core.tokens, Engine.partner, Queues.pushToken, queueNum, Engine.num, Engine.letter]
    simp
    split <;> simp

@[simp] theorem Core.late_act (c : Core) (e : SEffect) : (c.act e).scalar.late = c.scalar.late := by
  cases e <;> simp [Core.act, Core.pushPath, Core.writeControl, Core.record]
  split <;> rfl

@[simp] theorem Core.late_pushToken (c : Core) (e f : Engine) : (c.pushToken e f).scalar.late = c.scalar.late := by
  simp only [Core.pushToken]
  split
  · simp only [Core.wake]
    split <;> rfl
  · rfl

@[simp] theorem Core.late_pushTokens (c : Core) (e : Engine) (m : BitVec 3) :
    (c.pushTokens e m).scalar.late = c.scalar.late := by
  simp only [Core.pushTokens]
  repeat' split
  all_goals simp

/-- Where each partner of a mask has room, the tokens of the mask are pushed at once, and none is left (R26). -/
theorem Core.tryTokens_room (c : Core) (m : BitVec 3)
    (h : ∀ p : Fin 3, m.getLsbD p.val = true → c.tokens (Engine.s.partner p) 0 < 15) :
    c.tryTokens m = (c.pushTokens .s m, 0) := by
  have h0 := h 0
  have h1 := h 1
  have h2 := h 2
  have ne : ∀ (c : Core) (p q : Fin 3), p ≠ q →
      (c.pushToken .s (Engine.s.partner p)).tokens (Engine.s.partner q) 0 = c.tokens (Engine.s.partner q) 0 :=
    fun c _ _ h => c.tokens_pushToken_ne h
  have h01 := fun c => ne c 0 1 (by decide)
  have h02 := fun c => ne c 0 2 (by decide)
  have h12 := fun c => ne c 1 2 (by decide)
  have cases8 : m = 0 ∨ m = 1 ∨ m = 2 ∨ m = 3 ∨ m = 4 ∨ m = 5 ∨ m = 6 ∨ m = 7 := by
    clear h h0 h1 h2; revert m; decide
  clear h ne
  rcases cases8 with rfl | rfl | rfl | rfl | rfl | rfl | rfl | rfl <;>
    simp_all [Core.tryTokens, Core.tryToken, Core.pushTokens]

/-- An S word whose tokens all find room, and whose effect nothing holds up, pushes them and has its effect (R25, R131). -/
theorem Core.retire_room (c : Core) (w : Retire) (hb : w.blocked c = false) (hl : c.scalar.late.any Retire.ordered = false)
    (h1 : ∀ p : Fin 3, w.sig1.getLsbD p.val = true → c.tokens (Engine.s.partner p) 0 < 15)
    (h2 : ∀ p : Fin 3, w.sig2.getLsbD p.val = true → (c.pushTokens .s w.sig1).tokens (Engine.s.partner p) 0 < 15) :
    c.retire w = ((c.pushTokens .s w.sig1).pushTokens .s w.sig2).act w.effect := by
  have hd : (w.ordered && (c.scalar.late.any Retire.ordered || w.blocked c)) = false := by rw [hb, hl]; simp
  have late : ∀ k : Core, k.scalar.late = c.scalar.late → k.setLate (c.scalar.late ++ []) = k := by
    intro k hk
    rw [List.append_nil, ← hk]
    rfl
  simp only [Core.retire, Core.tryRetire, hd, Core.tryTokens_room c _ h1, Core.tryTokens_room _ _ h2]
  exact late _ (by simp)

end Sys2Proof.Machine
end

