-- ==== Sys2Proof/Laws/Memory.lean ====
section
/-! SUPPORT. Memory: a read after a write, and that every operation keeps the canonical form (log 3). -/
namespace Sys2Proof.Machine

theorem Mem.wfFrom_mono {m : Mem} {lo hi : Nat} (h : Mem.wfFrom hi m = true) (l : lo ≤ hi) : Mem.wfFrom lo m = true := by
  cases m with
  | nil => rfl
  | cons x m =>
    simp only [Mem.wfFrom, Bool.and_eq_true, decide_eq_true_eq] at h ⊢
    exact ⟨⟨Nat.le_trans l h.1.1, h.1.2⟩, h.2⟩

/-- Below its first address a memory lists nothing. -/
theorem Mem.get_below {m : Mem} {lo a : Nat} (h : Mem.wfFrom lo m = true) (l : a < lo) : m.get a = unlisted := by
  induction m generalizing lo with
  | nil => rfl
  | cons x m ih =>
    simp only [Mem.wfFrom, Bool.and_eq_true, decide_eq_true_eq] at h
    rw [Mem.get, if_neg (by omega)]
    exact ih h.2 (by omega)

theorem Mem.get_cell {m : Mem} {a : Nat} {b : Byte} (h : Mem.wfFrom (a + 1) m = true) (x : Nat) :
    (Mem.cell a b m).get x = if x = a then b else m.get x := by
  unfold Mem.cell
  split
  · rename_i hb
    split
    · rename_i hx
      rw [hx, Mem.get_below h (Nat.lt_succ_self a), hb]
    · rfl
  · rw [Mem.get]
    by_cases hx : x = a
    · simp [hx]
    · rw [if_neg (Ne.symm hx), if_neg hx]

/-- A read after a write. -/
theorem Mem.get_set {m : Mem} {lo : Nat} (h : Mem.wfFrom lo m = true) (a : Nat) (b : Byte) (x : Nat) :
    (m.set a b).get x = if x = a then b else m.get x := by
  induction m generalizing lo with
  | nil => exact Mem.get_cell rfl x
  | cons y m ih =>
    obtain ⟨k, v⟩ := y
    simp only [Mem.wfFrom, Bool.and_eq_true, decide_eq_true_eq] at h
    rw [Mem.set]
    split
    · rename_i hk
      exact Mem.get_cell (by simp only [Mem.wfFrom, h, Bool.and_true, decide_eq_true_eq]; omega) x
    · split
      · rename_i hk
        rw [hk, Mem.get_cell h.2 x, Mem.get]
        by_cases hx : x = k
        · simp [hx]
        · rw [if_neg (Ne.symm hx)]
      · rename_i hk
        rw [Mem.get, Mem.get, ih h.2]
        by_cases hx : k = x
        · rw [if_pos hx, if_pos hx, if_neg (by omega)]
        · rw [if_neg hx, if_neg hx]

theorem Mem.wfFrom_cell {m : Mem} {lo a : Nat} {b : Byte} (l : lo ≤ a) (h : Mem.wfFrom (a + 1) m = true) :
    Mem.wfFrom lo (Mem.cell a b m) = true := by
  unfold Mem.cell
  split
  · exact Mem.wfFrom_mono h (by omega)
  · simp [Mem.wfFrom, l, h, *]

theorem Mem.wfFrom_set {m : Mem} {lo : Nat} (h : Mem.wfFrom lo m = true) (a : Nat) (b : Byte) (l : lo ≤ a) :
    Mem.wfFrom lo (m.set a b) = true := by
  induction m generalizing lo with
  | nil => exact Mem.wfFrom_cell l rfl
  | cons y m ih =>
    obtain ⟨k, v⟩ := y
    simp only [Mem.wfFrom, Bool.and_eq_true, decide_eq_true_eq] at h
    rw [Mem.set]
    split
    · refine Mem.wfFrom_cell l ?_
      simp only [Mem.wfFrom, h, Bool.and_true, decide_eq_true_eq]
      omega
    · split
      · rename_i hk
        exact Mem.wfFrom_cell l (hk ▸ h.2)
      · simp only [Mem.wfFrom, h, Bool.and_true, Bool.true_and, decide_eq_true_eq, decide_true, Bool.and_eq_true]
        exact ih h.2 (by omega)

/-- A write keeps the canonical form. -/
theorem Mem.wf_set {m : Mem} (h : m.wf = true) (a : Nat) (b : Byte) : (m.set a b).wf = true :=
  Mem.wfFrom_set h a b (Nat.zero_le a)

theorem Mem.wf_write {m : Mem} (h : m.wf = true) (a : Nat) (bs : List Byte) : (m.write a bs).wf = true := by
  induction bs generalizing m a with
  | nil => exact h
  | cons b bs ih => exact ih (Mem.wf_set h a b) _

theorem Mem.wf_store {m : Mem} (h : m.wf = true) (a n v : Nat) : (m.store a n v).wf = true := Mem.wf_write h a _

/-- Bytes read after bytes are written. -/
theorem Mem.get_write {m : Mem} (h : m.wf = true) (a : Nat) (bs : List Byte) (x : Nat) :
    (m.write a bs).get x = if a ≤ x ∧ x < a + bs.length then (bs[x - a]?).getD 0 else m.get x := by
  induction bs generalizing m a with
  | nil => rw [if_neg (by simp only [List.length_nil]; omega)]; rfl
  | cons b bs ih =>
    rw [Mem.write, ih (Mem.wf_set h a b), Mem.get_set h, List.length_cons]
    by_cases hx : x = a
    · subst hx
      rw [if_neg (by omega), if_pos rfl, if_pos (by omega)]
      simp
    · by_cases hr : a + 1 ≤ x ∧ x < a + 1 + bs.length
      · rw [if_pos hr, if_pos (by omega)]
        have : x - a = x - (a + 1) + 1 := by omega
        rw [this, List.getElem?_cons_succ]
      · rw [if_neg hr, if_neg hx, if_neg (by omega)]

/-- As many bytes are read as are asked for. -/
@[simp] theorem Mem.length_bytes (m : Mem) (a n : Nat) : (m.bytes a n).length = n := by
  induction n generalizing a with
  | zero => rfl
  | succ n ih => rw [Mem.bytes, List.length_cons, ih]

/-- Cells dropped from a memory leave it canonical. -/
theorem Mem.wf_filter {m : Mem} {lo : Nat} (h : Mem.wfFrom lo m = true) (p : Host.Cell → Bool) :
    Mem.wfFrom lo (m.filter p) = true := by
  induction m generalizing lo with
  | nil => rfl
  | cons x m ih =>
    obtain ⟨k, v⟩ := x
    simp only [Mem.wfFrom, Bool.and_eq_true, decide_eq_true_eq] at h
    rw [List.filter_cons]
    split
    · simp only [Mem.wfFrom, Bool.and_eq_true, decide_eq_true_eq]
      exact ⟨h.1, ih h.2⟩
    · exact Mem.wfFrom_mono (ih h.2) (by omega)

theorem Mem.wf_clear {m : Mem} (h : m.wf = true) (lo n : Nat) : (m.clear lo n).wf = true := Mem.wf_filter h _

theorem Mem.wf_writeFields {m : Mem} (h : m.wf = true) (base len : Nat) (fs : List Field) :
    (m.writeFields base len fs).wf = true := by
  unfold Mem.writeFields
  have := Mem.wf_clear h base len
  generalize m.clear base len = k at this
  induction fs generalizing k with
  | nil => exact this
  | cons f fs ih => exact ih _ (Mem.wf_store this _ _ _)

/-- Memory is in its canonical form at reset. -/
theorem MemoryOk.reset : MemoryOk State.reset := ⟨rfl, rfl, by simp [State.reset]⟩

end Sys2Proof.Machine
end

