-- ==== Sys2Proof/Laws/PerInstr.lean ====
section
/-! SUPPORT. The round trip of the encoder and the decoder, one lemma per constructor of `Instr`. -/
namespace Sys2Proof.Laws

/-- What the encoder writes for a well-formed instruction, the decoder reads back (R37, R38). -/
def RoundTrip.Statement (i : Instr) : Prop :=
  ∀ w, encode i = some w → i.wellFormed = true → decodeWord w = .ok i

/-- A vector is its upper part and its lower part. -/
theorem RoundTrip.split_bits {m n : Nat} (v : BitVec (m + n)) :
    BitVec.extractLsb' n m v ++ BitVec.extractLsb' 0 n v = v := by
  apply BitVec.eq_of_getLsbD_eq
  intro i hi
  rw [BitVec.getLsbD_append]
  simp only [BitVec.getLsbD_extractLsb']
  split
  · simp [*]
  · simp [show i - n < m by omega, show n + (i - n) = i by omega]

theorem RoundTrip.high_bits {m n : Nat} (v : BitVec (m + n)) (k : Nat) (hk : 2 ^ n = k) :
    (BitVec.extractLsb' n m v).toNat = v.toNat / k := by
  subst hk
  rw [BitVec.extractLsb'_toNat, Nat.shiftRight_eq_div_pow]
  refine Nat.mod_eq_of_lt (Nat.div_lt_of_lt_mul ?_)
  rw [Nat.mul_comm, ← Nat.pow_add]
  exact v.isLt

theorem RoundTrip.low_bits {m n : Nat} (v : BitVec (m + n)) (k : Nat) (hk : 2 ^ n = k) :
    (BitVec.extractLsb' 0 n v).toNat = v.toNat % k := by
  subst hk
  rw [BitVec.extractLsb'_toNat, Nat.shiftRight_zero]

theorem RoundTrip.add (t : BitVec 3) (d : BitVec 6) (a : BitVec 6) (b : BitVec 6) : RoundTrip.Statement (.add t d a b) := by
  intro w0 h0 hf0
  have g0 {x : Field} := @Field.get w0 [⟨27, t⟩, ⟨21, 1#6⟩, ⟨15, d⟩, ⟨9, a⟩, ⟨3, b⟩] (Option.some.inj h0).symm rfl x
  have he : wordEngine w0 = .s := by rw [wordEngine, show fld w0 30 2 = 0#2 from Field.zero (fs := [⟨27, t⟩, ⟨21, 1#6⟩, ⟨15, d⟩, ⟨9, a⟩, ⟨3, b⟩]) (Option.some.inj h0).symm rfl 30 2 rfl]; rfl
  refine decodeWord_of .s he ?_ hf0
  show decodeS w0 = _
  unfold decodeS
  rw [show wordOp w0 = 1 from congrArg BitVec.toNat (g0 1 rfl)]
  refine (if_pos ?_).trans ?_
  · exact Field.zero (fs := [⟨27, t⟩, ⟨21, 1#6⟩, ⟨15, d⟩, ⟨9, a⟩, ⟨3, b⟩]) (Option.some.inj h0).symm rfl 0 3 rfl
  show (Except.ok (.add (fld w0 27 3) (fld w0 15 6) (fld w0 9 6) (fld w0 3 6)) : Except Reject Instr) = _
  rw [show fld w0 27 3 = t from g0 0 rfl, show fld w0 15 6 = d from g0 2 rfl, show fld w0 9 6 = a from g0 3 rfl, show fld w0 3 6 = b from g0 4 rfl]

theorem RoundTrip.sub (t : BitVec 3) (d : BitVec 6) (a : BitVec 6) (b : BitVec 6) : RoundTrip.Statement (.sub t d a b) := by
  intro w0 h0 hf0
  have g0 {x : Field} := @Field.get w0 [⟨27, t⟩, ⟨21, 1#6⟩, ⟨15, d⟩, ⟨9, a⟩, ⟨3, b⟩, ⟨0, 1#3⟩] (Option.some.inj h0).symm rfl x
  have he : wordEngine w0 = .s := by rw [wordEngine, show fld w0 30 2 = 0#2 from Field.zero (fs := [⟨27, t⟩, ⟨21, 1#6⟩, ⟨15, d⟩, ⟨9, a⟩, ⟨3, b⟩, ⟨0, 1#3⟩]) (Option.some.inj h0).symm rfl 30 2 rfl]; rfl
  refine decodeWord_of .s he ?_ hf0
  show decodeS w0 = _
  unfold decodeS
  rw [show wordOp w0 = 1 from congrArg BitVec.toNat (g0 1 rfl)]
  refine (if_neg ?_).trans ?_
  · exact fun h1 => absurd h1 (fun e => absurd ((show fld w0 0 3 = 1#3 from g0 5 rfl).symm.trans e) (by decide))
  refine (if_pos ?_).trans ?_
  · exact g0 5 rfl
  show (Except.ok (.sub (fld w0 27 3) (fld w0 15 6) (fld w0 9 6) (fld w0 3 6)) : Except Reject Instr) = _
  rw [show fld w0 27 3 = t from g0 0 rfl, show fld w0 15 6 = d from g0 2 rfl, show fld w0 9 6 = a from g0 3 rfl, show fld w0 3 6 = b from g0 4 rfl]

theorem RoundTrip.and (t : BitVec 3) (d : BitVec 6) (a : BitVec 6) (b : BitVec 6) : RoundTrip.Statement (.and t d a b) := by
  intro w0 h0 hf0
  have g0 {x : Field} := @Field.get w0 [⟨27, t⟩, ⟨21, 1#6⟩, ⟨15, d⟩, ⟨9, a⟩, ⟨3, b⟩, ⟨0, 2#3⟩] (Option.some.inj h0).symm rfl x
  have he : wordEngine w0 = .s := by rw [wordEngine, show fld w0 30 2 = 0#2 from Field.zero (fs := [⟨27, t⟩, ⟨21, 1#6⟩, ⟨15, d⟩, ⟨9, a⟩, ⟨3, b⟩, ⟨0, 2#3⟩]) (Option.some.inj h0).symm rfl 30 2 rfl]; rfl
  refine decodeWord_of .s he ?_ hf0
  show decodeS w0 = _
  unfold decodeS
  rw [show wordOp w0 = 1 from congrArg BitVec.toNat (g0 1 rfl)]
  refine (if_neg ?_).trans ?_
  · exact fun h1 => absurd h1 (fun e => absurd ((show fld w0 0 3 = 2#3 from g0 5 rfl).symm.trans e) (by decide))
  refine (if_neg ?_).trans ?_
  · exact fun h1 => absurd h1 (fun e => absurd ((show fld w0 0 3 = 2#3 from g0 5 rfl).symm.trans e) (by decide))
  refine (if_pos ?_).trans ?_
  · exact g0 5 rfl
  show (Except.ok (.and (fld w0 27 3) (fld w0 15 6) (fld w0 9 6) (fld w0 3 6)) : Except Reject Instr) = _
  rw [show fld w0 27 3 = t from g0 0 rfl, show fld w0 15 6 = d from g0 2 rfl, show fld w0 9 6 = a from g0 3 rfl, show fld w0 3 6 = b from g0 4 rfl]

theorem RoundTrip.or (t : BitVec 3) (d : BitVec 6) (a : BitVec 6) (b : BitVec 6) : RoundTrip.Statement (.or t d a b) := by
  intro w0 h0 hf0
  have g0 {x : Field} := @Field.get w0 [⟨27, t⟩, ⟨21, 1#6⟩, ⟨15, d⟩, ⟨9, a⟩, ⟨3, b⟩, ⟨0, 3#3⟩] (Option.some.inj h0).symm rfl x
  have he : wordEngine w0 = .s := by rw [wordEngine, show fld w0 30 2 = 0#2 from Field.zero (fs := [⟨27, t⟩, ⟨21, 1#6⟩, ⟨15, d⟩, ⟨9, a⟩, ⟨3, b⟩, ⟨0, 3#3⟩]) (Option.some.inj h0).symm rfl 30 2 rfl]; rfl
  refine decodeWord_of .s he ?_ hf0
  show decodeS w0 = _
  unfold decodeS
  rw [show wordOp w0 = 1 from congrArg BitVec.toNat (g0 1 rfl)]
  refine (if_neg ?_).trans ?_
  · exact fun h1 => absurd h1 (fun e => absurd ((show fld w0 0 3 = 3#3 from g0 5 rfl).symm.trans e) (by decide))
  refine (if_neg ?_).trans ?_
  · exact fun h1 => absurd h1 (fun e => absurd ((show fld w0 0 3 = 3#3 from g0 5 rfl).symm.trans e) (by decide))
  refine (if_neg ?_).trans ?_
  · exact fun h1 => absurd h1 (fun e => absurd ((show fld w0 0 3 = 3#3 from g0 5 rfl).symm.trans e) (by decide))
  refine (if_pos ?_).trans ?_
  · exact g0 5 rfl
  show (Except.ok (.or (fld w0 27 3) (fld w0 15 6) (fld w0 9 6) (fld w0 3 6)) : Except Reject Instr) = _
  rw [show fld w0 27 3 = t from g0 0 rfl, show fld w0 15 6 = d from g0 2 rfl, show fld w0 9 6 = a from g0 3 rfl, show fld w0 3 6 = b from g0 4 rfl]

theorem RoundTrip.xor (t : BitVec 3) (d : BitVec 6) (a : BitVec 6) (b : BitVec 6) : RoundTrip.Statement (.xor t d a b) := by
  intro w0 h0 hf0
  have g0 {x : Field} := @Field.get w0 [⟨27, t⟩, ⟨21, 1#6⟩, ⟨15, d⟩, ⟨9, a⟩, ⟨3, b⟩, ⟨0, 4#3⟩] (Option.some.inj h0).symm rfl x
  have he : wordEngine w0 = .s := by rw [wordEngine, show fld w0 30 2 = 0#2 from Field.zero (fs := [⟨27, t⟩, ⟨21, 1#6⟩, ⟨15, d⟩, ⟨9, a⟩, ⟨3, b⟩, ⟨0, 4#3⟩]) (Option.some.inj h0).symm rfl 30 2 rfl]; rfl
  refine decodeWord_of .s he ?_ hf0
  show decodeS w0 = _
  unfold decodeS
  rw [show wordOp w0 = 1 from congrArg BitVec.toNat (g0 1 rfl)]
  refine (if_neg ?_).trans ?_
  · exact fun h1 => absurd h1 (fun e => absurd ((show fld w0 0 3 = 4#3 from g0 5 rfl).symm.trans e) (by decide))
  refine (if_neg ?_).trans ?_
  · exact fun h1 => absurd h1 (fun e => absurd ((show fld w0 0 3 = 4#3 from g0 5 rfl).symm.trans e) (by decide))
  refine (if_neg ?_).trans ?_
  · exact fun h1 => absurd h1 (fun e => absurd ((show fld w0 0 3 = 4#3 from g0 5 rfl).symm.trans e) (by decide))
  refine (if_neg ?_).trans ?_
  · exact fun h1 => absurd h1 (fun e => absurd ((show fld w0 0 3 = 4#3 from g0 5 rfl).symm.trans e) (by decide))
  refine (if_pos ?_).trans ?_
  · exact g0 5 rfl
  show (Except.ok (.xor (fld w0 27 3) (fld w0 15 6) (fld w0 9 6) (fld w0 3 6)) : Except Reject Instr) = _
  rw [show fld w0 27 3 = t from g0 0 rfl, show fld w0 15 6 = d from g0 2 rfl, show fld w0 9 6 = a from g0 3 rfl, show fld w0 3 6 = b from g0 4 rfl]

theorem RoundTrip.shl (t : BitVec 3) (d : BitVec 6) (a : BitVec 6) (b : BitVec 6) : RoundTrip.Statement (.shl t d a b) := by
  intro w0 h0 hf0
  have g0 {x : Field} := @Field.get w0 [⟨27, t⟩, ⟨21, 1#6⟩, ⟨15, d⟩, ⟨9, a⟩, ⟨3, b⟩, ⟨0, 5#3⟩] (Option.some.inj h0).symm rfl x
  have he : wordEngine w0 = .s := by rw [wordEngine, show fld w0 30 2 = 0#2 from Field.zero (fs := [⟨27, t⟩, ⟨21, 1#6⟩, ⟨15, d⟩, ⟨9, a⟩, ⟨3, b⟩, ⟨0, 5#3⟩]) (Option.some.inj h0).symm rfl 30 2 rfl]; rfl
  refine decodeWord_of .s he ?_ hf0
  show decodeS w0 = _
  unfold decodeS
  rw [show wordOp w0 = 1 from congrArg BitVec.toNat (g0 1 rfl)]
  refine (if_neg ?_).trans ?_
  · exact fun h1 => absurd h1 (fun e => absurd ((show fld w0 0 3 = 5#3 from g0 5 rfl).symm.trans e) (by decide))
  refine (if_neg ?_).trans ?_
  · exact fun h1 => absurd h1 (fun e => absurd ((show fld w0 0 3 = 5#3 from g0 5 rfl).symm.trans e) (by decide))
  refine (if_neg ?_).trans ?_
  · exact fun h1 => absurd h1 (fun e => absurd ((show fld w0 0 3 = 5#3 from g0 5 rfl).symm.trans e) (by decide))
  refine (if_neg ?_).trans ?_
  · exact fun h1 => absurd h1 (fun e => absurd ((show fld w0 0 3 = 5#3 from g0 5 rfl).symm.trans e) (by decide))
  refine (if_neg ?_).trans ?_
  · exact fun h1 => absurd h1 (fun e => absurd ((show fld w0 0 3 = 5#3 from g0 5 rfl).symm.trans e) (by decide))
  refine (if_pos ?_).trans ?_
  · exact g0 5 rfl
  show (Except.ok (.shl (fld w0 27 3) (fld w0 15 6) (fld w0 9 6) (fld w0 3 6)) : Except Reject Instr) = _
  rw [show fld w0 27 3 = t from g0 0 rfl, show fld w0 15 6 = d from g0 2 rfl, show fld w0 9 6 = a from g0 3 rfl, show fld w0 3 6 = b from g0 4 rfl]

theorem RoundTrip.shr (t : BitVec 3) (d : BitVec 6) (a : BitVec 6) (b : BitVec 6) : RoundTrip.Statement (.shr t d a b) := by
  intro w0 h0 hf0
  have g0 {x : Field} := @Field.get w0 [⟨27, t⟩, ⟨21, 1#6⟩, ⟨15, d⟩, ⟨9, a⟩, ⟨3, b⟩, ⟨0, 6#3⟩] (Option.some.inj h0).symm rfl x
  have he : wordEngine w0 = .s := by rw [wordEngine, show fld w0 30 2 = 0#2 from Field.zero (fs := [⟨27, t⟩, ⟨21, 1#6⟩, ⟨15, d⟩, ⟨9, a⟩, ⟨3, b⟩, ⟨0, 6#3⟩]) (Option.some.inj h0).symm rfl 30 2 rfl]; rfl
  refine decodeWord_of .s he ?_ hf0
  show decodeS w0 = _
  unfold decodeS
  rw [show wordOp w0 = 1 from congrArg BitVec.toNat (g0 1 rfl)]
  refine (if_neg ?_).trans ?_
  · exact fun h1 => absurd h1 (fun e => absurd ((show fld w0 0 3 = 6#3 from g0 5 rfl).symm.trans e) (by decide))
  refine (if_neg ?_).trans ?_
  · exact fun h1 => absurd h1 (fun e => absurd ((show fld w0 0 3 = 6#3 from g0 5 rfl).symm.trans e) (by decide))
  refine (if_neg ?_).trans ?_
  · exact fun h1 => absurd h1 (fun e => absurd ((show fld w0 0 3 = 6#3 from g0 5 rfl).symm.trans e) (by decide))
  refine (if_neg ?_).trans ?_
  · exact fun h1 => absurd h1 (fun e => absurd ((show fld w0 0 3 = 6#3 from g0 5 rfl).symm.trans e) (by decide))
  refine (if_neg ?_).trans ?_
  · exact fun h1 => absurd h1 (fun e => absurd ((show fld w0 0 3 = 6#3 from g0 5 rfl).symm.trans e) (by decide))
  refine (if_neg ?_).trans ?_
  · exact fun h1 => absurd h1 (fun e => absurd ((show fld w0 0 3 = 6#3 from g0 5 rfl).symm.trans e) (by decide))
  refine (if_pos ?_).trans ?_
  · exact g0 5 rfl
  show (Except.ok (.shr (fld w0 27 3) (fld w0 15 6) (fld w0 9 6) (fld w0 3 6)) : Except Reject Instr) = _
  rw [show fld w0 27 3 = t from g0 0 rfl, show fld w0 15 6 = d from g0 2 rfl, show fld w0 9 6 = a from g0 3 rfl, show fld w0 3 6 = b from g0 4 rfl]

theorem RoundTrip.sra (t : BitVec 3) (d : BitVec 6) (a : BitVec 6) (b : BitVec 6) : RoundTrip.Statement (.sra t d a b) := by
  intro w0 h0 hf0
  have g0 {x : Field} := @Field.get w0 [⟨27, t⟩, ⟨21, 1#6⟩, ⟨15, d⟩, ⟨9, a⟩, ⟨3, b⟩, ⟨0, 7#3⟩] (Option.some.inj h0).symm rfl x
  have he : wordEngine w0 = .s := by rw [wordEngine, show fld w0 30 2 = 0#2 from Field.zero (fs := [⟨27, t⟩, ⟨21, 1#6⟩, ⟨15, d⟩, ⟨9, a⟩, ⟨3, b⟩, ⟨0, 7#3⟩]) (Option.some.inj h0).symm rfl 30 2 rfl]; rfl
  refine decodeWord_of .s he ?_ hf0
  show decodeS w0 = _
  unfold decodeS
  rw [show wordOp w0 = 1 from congrArg BitVec.toNat (g0 1 rfl)]
  refine (if_neg ?_).trans ?_
  · exact fun h1 => absurd h1 (fun e => absurd ((show fld w0 0 3 = 7#3 from g0 5 rfl).symm.trans e) (by decide))
  refine (if_neg ?_).trans ?_
  · exact fun h1 => absurd h1 (fun e => absurd ((show fld w0 0 3 = 7#3 from g0 5 rfl).symm.trans e) (by decide))
  refine (if_neg ?_).trans ?_
  · exact fun h1 => absurd h1 (fun e => absurd ((show fld w0 0 3 = 7#3 from g0 5 rfl).symm.trans e) (by decide))
  refine (if_neg ?_).trans ?_
  · exact fun h1 => absurd h1 (fun e => absurd ((show fld w0 0 3 = 7#3 from g0 5 rfl).symm.trans e) (by decide))
  refine (if_neg ?_).trans ?_
  · exact fun h1 => absurd h1 (fun e => absurd ((show fld w0 0 3 = 7#3 from g0 5 rfl).symm.trans e) (by decide))
  refine (if_neg ?_).trans ?_
  · exact fun h1 => absurd h1 (fun e => absurd ((show fld w0 0 3 = 7#3 from g0 5 rfl).symm.trans e) (by decide))
  refine (if_neg ?_).trans ?_
  · exact fun h1 => absurd h1 (fun e => absurd ((show fld w0 0 3 = 7#3 from g0 5 rfl).symm.trans e) (by decide))
  refine (if_pos ?_).trans ?_
  · exact g0 5 rfl
  show (Except.ok (.sra (fld w0 27 3) (fld w0 15 6) (fld w0 9 6) (fld w0 3 6)) : Except Reject Instr) = _
  rw [show fld w0 27 3 = t from g0 0 rfl, show fld w0 15 6 = d from g0 2 rfl, show fld w0 9 6 = a from g0 3 rfl, show fld w0 3 6 = b from g0 4 rfl]

theorem RoundTrip.mul (t : BitVec 3) (d : BitVec 6) (a : BitVec 6) (b : BitVec 6) : RoundTrip.Statement (.mul t d a b) := by
  intro w0 h0 hf0
  have g0 {x : Field} := @Field.get w0 [⟨27, t⟩, ⟨21, 2#6⟩, ⟨15, d⟩, ⟨9, a⟩, ⟨3, b⟩] (Option.some.inj h0).symm rfl x
  have he : wordEngine w0 = .s := by rw [wordEngine, show fld w0 30 2 = 0#2 from Field.zero (fs := [⟨27, t⟩, ⟨21, 2#6⟩, ⟨15, d⟩, ⟨9, a⟩, ⟨3, b⟩]) (Option.some.inj h0).symm rfl 30 2 rfl]; rfl
  refine decodeWord_of .s he ?_ hf0
  show decodeS w0 = _
  unfold decodeS
  rw [show wordOp w0 = 2 from congrArg BitVec.toNat (g0 1 rfl)]
  refine (if_pos ?_).trans ?_
  · exact Field.zero (fs := [⟨27, t⟩, ⟨21, 2#6⟩, ⟨15, d⟩, ⟨9, a⟩, ⟨3, b⟩]) (Option.some.inj h0).symm rfl 0 3 rfl
  show (Except.ok (.mul (fld w0 27 3) (fld w0 15 6) (fld w0 9 6) (fld w0 3 6)) : Except Reject Instr) = _
  rw [show fld w0 27 3 = t from g0 0 rfl, show fld w0 15 6 = d from g0 2 rfl, show fld w0 9 6 = a from g0 3 rfl, show fld w0 3 6 = b from g0 4 rfl]

theorem RoundTrip.mulh (t : BitVec 3) (d : BitVec 6) (a : BitVec 6) (b : BitVec 6) : RoundTrip.Statement (.mulh t d a b) := by
  intro w0 h0 hf0
  have g0 {x : Field} := @Field.get w0 [⟨27, t⟩, ⟨21, 2#6⟩, ⟨15, d⟩, ⟨9, a⟩, ⟨3, b⟩, ⟨0, 1#3⟩] (Option.some.inj h0).symm rfl x
  have he : wordEngine w0 = .s := by rw [wordEngine, show fld w0 30 2 = 0#2 from Field.zero (fs := [⟨27, t⟩, ⟨21, 2#6⟩, ⟨15, d⟩, ⟨9, a⟩, ⟨3, b⟩, ⟨0, 1#3⟩]) (Option.some.inj h0).symm rfl 30 2 rfl]; rfl
  refine decodeWord_of .s he ?_ hf0
  show decodeS w0 = _
  unfold decodeS
  rw [show wordOp w0 = 2 from congrArg BitVec.toNat (g0 1 rfl)]
  refine (if_neg ?_).trans ?_
  · exact fun h1 => absurd h1 (fun e => absurd ((show fld w0 0 3 = 1#3 from g0 5 rfl).symm.trans e) (by decide))
  refine (if_pos ?_).trans ?_
  · exact g0 5 rfl
  show (Except.ok (.mulh (fld w0 27 3) (fld w0 15 6) (fld w0 9 6) (fld w0 3 6)) : Except Reject Instr) = _
  rw [show fld w0 27 3 = t from g0 0 rfl, show fld w0 15 6 = d from g0 2 rfl, show fld w0 9 6 = a from g0 3 rfl, show fld w0 3 6 = b from g0 4 rfl]

theorem RoundTrip.mulhu (t : BitVec 3) (d : BitVec 6) (a : BitVec 6) (b : BitVec 6) : RoundTrip.Statement (.mulhu t d a b) := by
  intro w0 h0 hf0
  have g0 {x : Field} := @Field.get w0 [⟨27, t⟩, ⟨21, 2#6⟩, ⟨15, d⟩, ⟨9, a⟩, ⟨3, b⟩, ⟨0, 2#3⟩] (Option.some.inj h0).symm rfl x
  have he : wordEngine w0 = .s := by rw [wordEngine, show fld w0 30 2 = 0#2 from Field.zero (fs := [⟨27, t⟩, ⟨21, 2#6⟩, ⟨15, d⟩, ⟨9, a⟩, ⟨3, b⟩, ⟨0, 2#3⟩]) (Option.some.inj h0).symm rfl 30 2 rfl]; rfl
  refine decodeWord_of .s he ?_ hf0
  show decodeS w0 = _
  unfold decodeS
  rw [show wordOp w0 = 2 from congrArg BitVec.toNat (g0 1 rfl)]
  refine (if_neg ?_).trans ?_
  · exact fun h1 => absurd h1 (fun e => absurd ((show fld w0 0 3 = 2#3 from g0 5 rfl).symm.trans e) (by decide))
  refine (if_neg ?_).trans ?_
  · exact fun h1 => absurd h1 (fun e => absurd ((show fld w0 0 3 = 2#3 from g0 5 rfl).symm.trans e) (by decide))
  refine (if_pos ?_).trans ?_
  · exact g0 5 rfl
  show (Except.ok (.mulhu (fld w0 27 3) (fld w0 15 6) (fld w0 9 6) (fld w0 3 6)) : Except Reject Instr) = _
  rw [show fld w0 27 3 = t from g0 0 rfl, show fld w0 15 6 = d from g0 2 rfl, show fld w0 9 6 = a from g0 3 rfl, show fld w0 3 6 = b from g0 4 rfl]

theorem RoundTrip.div (t : BitVec 3) (d : BitVec 6) (a : BitVec 6) (b : BitVec 6) : RoundTrip.Statement (.div t d a b) := by
  intro w0 h0 hf0
  have g0 {x : Field} := @Field.get w0 [⟨27, t⟩, ⟨21, 2#6⟩, ⟨15, d⟩, ⟨9, a⟩, ⟨3, b⟩, ⟨0, 3#3⟩] (Option.some.inj h0).symm rfl x
  have he : wordEngine w0 = .s := by rw [wordEngine, show fld w0 30 2 = 0#2 from Field.zero (fs := [⟨27, t⟩, ⟨21, 2#6⟩, ⟨15, d⟩, ⟨9, a⟩, ⟨3, b⟩, ⟨0, 3#3⟩]) (Option.some.inj h0).symm rfl 30 2 rfl]; rfl
  refine decodeWord_of .s he ?_ hf0
  show decodeS w0 = _
  unfold decodeS
  rw [show wordOp w0 = 2 from congrArg BitVec.toNat (g0 1 rfl)]
  refine (if_neg ?_).trans ?_
  · exact fun h1 => absurd h1 (fun e => absurd ((show fld w0 0 3 = 3#3 from g0 5 rfl).symm.trans e) (by decide))
  refine (if_neg ?_).trans ?_
  · exact fun h1 => absurd h1 (fun e => absurd ((show fld w0 0 3 = 3#3 from g0 5 rfl).symm.trans e) (by decide))
  refine (if_neg ?_).trans ?_
  · exact fun h1 => absurd h1 (fun e => absurd ((show fld w0 0 3 = 3#3 from g0 5 rfl).symm.trans e) (by decide))
  refine (if_pos ?_).trans ?_
  · exact g0 5 rfl
  show (Except.ok (.div (fld w0 27 3) (fld w0 15 6) (fld w0 9 6) (fld w0 3 6)) : Except Reject Instr) = _
  rw [show fld w0 27 3 = t from g0 0 rfl, show fld w0 15 6 = d from g0 2 rfl, show fld w0 9 6 = a from g0 3 rfl, show fld w0 3 6 = b from g0 4 rfl]

theorem RoundTrip.divu (t : BitVec 3) (d : BitVec 6) (a : BitVec 6) (b : BitVec 6) : RoundTrip.Statement (.divu t d a b) := by
  intro w0 h0 hf0
  have g0 {x : Field} := @Field.get w0 [⟨27, t⟩, ⟨21, 2#6⟩, ⟨15, d⟩, ⟨9, a⟩, ⟨3, b⟩, ⟨0, 4#3⟩] (Option.some.inj h0).symm rfl x
  have he : wordEngine w0 = .s := by rw [wordEngine, show fld w0 30 2 = 0#2 from Field.zero (fs := [⟨27, t⟩, ⟨21, 2#6⟩, ⟨15, d⟩, ⟨9, a⟩, ⟨3, b⟩, ⟨0, 4#3⟩]) (Option.some.inj h0).symm rfl 30 2 rfl]; rfl
  refine decodeWord_of .s he ?_ hf0
  show decodeS w0 = _
  unfold decodeS
  rw [show wordOp w0 = 2 from congrArg BitVec.toNat (g0 1 rfl)]
  refine (if_neg ?_).trans ?_
  · exact fun h1 => absurd h1 (fun e => absurd ((show fld w0 0 3 = 4#3 from g0 5 rfl).symm.trans e) (by decide))
  refine (if_neg ?_).trans ?_
  · exact fun h1 => absurd h1 (fun e => absurd ((show fld w0 0 3 = 4#3 from g0 5 rfl).symm.trans e) (by decide))
  refine (if_neg ?_).trans ?_
  · exact fun h1 => absurd h1 (fun e => absurd ((show fld w0 0 3 = 4#3 from g0 5 rfl).symm.trans e) (by decide))
  refine (if_neg ?_).trans ?_
  · exact fun h1 => absurd h1 (fun e => absurd ((show fld w0 0 3 = 4#3 from g0 5 rfl).symm.trans e) (by decide))
  refine (if_pos ?_).trans ?_
  · exact g0 5 rfl
  show (Except.ok (.divu (fld w0 27 3) (fld w0 15 6) (fld w0 9 6) (fld w0 3 6)) : Except Reject Instr) = _
  rw [show fld w0 27 3 = t from g0 0 rfl, show fld w0 15 6 = d from g0 2 rfl, show fld w0 9 6 = a from g0 3 rfl, show fld w0 3 6 = b from g0 4 rfl]

theorem RoundTrip.rem (t : BitVec 3) (d : BitVec 6) (a : BitVec 6) (b : BitVec 6) : RoundTrip.Statement (.rem t d a b) := by
  intro w0 h0 hf0
  have g0 {x : Field} := @Field.get w0 [⟨27, t⟩, ⟨21, 2#6⟩, ⟨15, d⟩, ⟨9, a⟩, ⟨3, b⟩, ⟨0, 5#3⟩] (Option.some.inj h0).symm rfl x
  have he : wordEngine w0 = .s := by rw [wordEngine, show fld w0 30 2 = 0#2 from Field.zero (fs := [⟨27, t⟩, ⟨21, 2#6⟩, ⟨15, d⟩, ⟨9, a⟩, ⟨3, b⟩, ⟨0, 5#3⟩]) (Option.some.inj h0).symm rfl 30 2 rfl]; rfl
  refine decodeWord_of .s he ?_ hf0
  show decodeS w0 = _
  unfold decodeS
  rw [show wordOp w0 = 2 from congrArg BitVec.toNat (g0 1 rfl)]
  refine (if_neg ?_).trans ?_
  · exact fun h1 => absurd h1 (fun e => absurd ((show fld w0 0 3 = 5#3 from g0 5 rfl).symm.trans e) (by decide))
  refine (if_neg ?_).trans ?_
  · exact fun h1 => absurd h1 (fun e => absurd ((show fld w0 0 3 = 5#3 from g0 5 rfl).symm.trans e) (by decide))
  refine (if_neg ?_).trans ?_
  · exact fun h1 => absurd h1 (fun e => absurd ((show fld w0 0 3 = 5#3 from g0 5 rfl).symm.trans e) (by decide))
  refine (if_neg ?_).trans ?_
  · exact fun h1 => absurd h1 (fun e => absurd ((show fld w0 0 3 = 5#3 from g0 5 rfl).symm.trans e) (by decide))
  refine (if_neg ?_).trans ?_
  · exact fun h1 => absurd h1 (fun e => absurd ((show fld w0 0 3 = 5#3 from g0 5 rfl).symm.trans e) (by decide))
  refine (if_pos ?_).trans ?_
  · exact g0 5 rfl
  show (Except.ok (.rem (fld w0 27 3) (fld w0 15 6) (fld w0 9 6) (fld w0 3 6)) : Except Reject Instr) = _
  rw [show fld w0 27 3 = t from g0 0 rfl, show fld w0 15 6 = d from g0 2 rfl, show fld w0 9 6 = a from g0 3 rfl, show fld w0 3 6 = b from g0 4 rfl]

theorem RoundTrip.remu (t : BitVec 3) (d : BitVec 6) (a : BitVec 6) (b : BitVec 6) : RoundTrip.Statement (.remu t d a b) := by
  intro w0 h0 hf0
  have g0 {x : Field} := @Field.get w0 [⟨27, t⟩, ⟨21, 2#6⟩, ⟨15, d⟩, ⟨9, a⟩, ⟨3, b⟩, ⟨0, 6#3⟩] (Option.some.inj h0).symm rfl x
  have he : wordEngine w0 = .s := by rw [wordEngine, show fld w0 30 2 = 0#2 from Field.zero (fs := [⟨27, t⟩, ⟨21, 2#6⟩, ⟨15, d⟩, ⟨9, a⟩, ⟨3, b⟩, ⟨0, 6#3⟩]) (Option.some.inj h0).symm rfl 30 2 rfl]; rfl
  refine decodeWord_of .s he ?_ hf0
  show decodeS w0 = _
  unfold decodeS
  rw [show wordOp w0 = 2 from congrArg BitVec.toNat (g0 1 rfl)]
  refine (if_neg ?_).trans ?_
  · exact fun h1 => absurd h1 (fun e => absurd ((show fld w0 0 3 = 6#3 from g0 5 rfl).symm.trans e) (by decide))
  refine (if_neg ?_).trans ?_
  · exact fun h1 => absurd h1 (fun e => absurd ((show fld w0 0 3 = 6#3 from g0 5 rfl).symm.trans e) (by decide))
  refine (if_neg ?_).trans ?_
  · exact fun h1 => absurd h1 (fun e => absurd ((show fld w0 0 3 = 6#3 from g0 5 rfl).symm.trans e) (by decide))
  refine (if_neg ?_).trans ?_
  · exact fun h1 => absurd h1 (fun e => absurd ((show fld w0 0 3 = 6#3 from g0 5 rfl).symm.trans e) (by decide))
  refine (if_neg ?_).trans ?_
  · exact fun h1 => absurd h1 (fun e => absurd ((show fld w0 0 3 = 6#3 from g0 5 rfl).symm.trans e) (by decide))
  refine (if_neg ?_).trans ?_
  · exact fun h1 => absurd h1 (fun e => absurd ((show fld w0 0 3 = 6#3 from g0 5 rfl).symm.trans e) (by decide))
  refine (if_pos ?_).trans ?_
  · exact g0 5 rfl
  show (Except.ok (.remu (fld w0 27 3) (fld w0 15 6) (fld w0 9 6) (fld w0 3 6)) : Except Reject Instr) = _
  rw [show fld w0 27 3 = t from g0 0 rfl, show fld w0 15 6 = d from g0 2 rfl, show fld w0 9 6 = a from g0 3 rfl, show fld w0 3 6 = b from g0 4 rfl]

theorem RoundTrip.min (t : BitVec 3) (d : BitVec 6) (a : BitVec 6) (b : BitVec 6) : RoundTrip.Statement (.min t d a b) := by
  intro w0 h0 hf0
  have g0 {x : Field} := @Field.get w0 [⟨27, t⟩, ⟨21, 3#6⟩, ⟨15, d⟩, ⟨9, a⟩, ⟨3, b⟩] (Option.some.inj h0).symm rfl x
  have he : wordEngine w0 = .s := by rw [wordEngine, show fld w0 30 2 = 0#2 from Field.zero (fs := [⟨27, t⟩, ⟨21, 3#6⟩, ⟨15, d⟩, ⟨9, a⟩, ⟨3, b⟩]) (Option.some.inj h0).symm rfl 30 2 rfl]; rfl
  refine decodeWord_of .s he ?_ hf0
  show decodeS w0 = _
  unfold decodeS
  rw [show wordOp w0 = 3 from congrArg BitVec.toNat (g0 1 rfl)]
  refine (if_pos ?_).trans ?_
  · exact Field.zero (fs := [⟨27, t⟩, ⟨21, 3#6⟩, ⟨15, d⟩, ⟨9, a⟩, ⟨3, b⟩]) (Option.some.inj h0).symm rfl 0 3 rfl
  show (Except.ok (.min (fld w0 27 3) (fld w0 15 6) (fld w0 9 6) (fld w0 3 6)) : Except Reject Instr) = _
  rw [show fld w0 27 3 = t from g0 0 rfl, show fld w0 15 6 = d from g0 2 rfl, show fld w0 9 6 = a from g0 3 rfl, show fld w0 3 6 = b from g0 4 rfl]

theorem RoundTrip.max (t : BitVec 3) (d : BitVec 6) (a : BitVec 6) (b : BitVec 6) : RoundTrip.Statement (.max t d a b) := by
  intro w0 h0 hf0
  have g0 {x : Field} := @Field.get w0 [⟨27, t⟩, ⟨21, 3#6⟩, ⟨15, d⟩, ⟨9, a⟩, ⟨3, b⟩, ⟨0, 1#3⟩] (Option.some.inj h0).symm rfl x
  have he : wordEngine w0 = .s := by rw [wordEngine, show fld w0 30 2 = 0#2 from Field.zero (fs := [⟨27, t⟩, ⟨21, 3#6⟩, ⟨15, d⟩, ⟨9, a⟩, ⟨3, b⟩, ⟨0, 1#3⟩]) (Option.some.inj h0).symm rfl 30 2 rfl]; rfl
  refine decodeWord_of .s he ?_ hf0
  show decodeS w0 = _
  unfold decodeS
  rw [show wordOp w0 = 3 from congrArg BitVec.toNat (g0 1 rfl)]
  refine (if_neg ?_).trans ?_
  · exact fun h1 => absurd h1 (fun e => absurd ((show fld w0 0 3 = 1#3 from g0 5 rfl).symm.trans e) (by decide))
  refine (if_pos ?_).trans ?_
  · exact g0 5 rfl
  show (Except.ok (.max (fld w0 27 3) (fld w0 15 6) (fld w0 9 6) (fld w0 3 6)) : Except Reject Instr) = _
  rw [show fld w0 27 3 = t from g0 0 rfl, show fld w0 15 6 = d from g0 2 rfl, show fld w0 9 6 = a from g0 3 rfl, show fld w0 3 6 = b from g0 4 rfl]

theorem RoundTrip.minu (t : BitVec 3) (d : BitVec 6) (a : BitVec 6) (b : BitVec 6) : RoundTrip.Statement (.minu t d a b) := by
  intro w0 h0 hf0
  have g0 {x : Field} := @Field.get w0 [⟨27, t⟩, ⟨21, 3#6⟩, ⟨15, d⟩, ⟨9, a⟩, ⟨3, b⟩, ⟨0, 2#3⟩] (Option.some.inj h0).symm rfl x
  have he : wordEngine w0 = .s := by rw [wordEngine, show fld w0 30 2 = 0#2 from Field.zero (fs := [⟨27, t⟩, ⟨21, 3#6⟩, ⟨15, d⟩, ⟨9, a⟩, ⟨3, b⟩, ⟨0, 2#3⟩]) (Option.some.inj h0).symm rfl 30 2 rfl]; rfl
  refine decodeWord_of .s he ?_ hf0
  show decodeS w0 = _
  unfold decodeS
  rw [show wordOp w0 = 3 from congrArg BitVec.toNat (g0 1 rfl)]
  refine (if_neg ?_).trans ?_
  · exact fun h1 => absurd h1 (fun e => absurd ((show fld w0 0 3 = 2#3 from g0 5 rfl).symm.trans e) (by decide))
  refine (if_neg ?_).trans ?_
  · exact fun h1 => absurd h1 (fun e => absurd ((show fld w0 0 3 = 2#3 from g0 5 rfl).symm.trans e) (by decide))
  refine (if_pos ?_).trans ?_
  · exact g0 5 rfl
  show (Except.ok (.minu (fld w0 27 3) (fld w0 15 6) (fld w0 9 6) (fld w0 3 6)) : Except Reject Instr) = _
  rw [show fld w0 27 3 = t from g0 0 rfl, show fld w0 15 6 = d from g0 2 rfl, show fld w0 9 6 = a from g0 3 rfl, show fld w0 3 6 = b from g0 4 rfl]

theorem RoundTrip.maxu (t : BitVec 3) (d : BitVec 6) (a : BitVec 6) (b : BitVec 6) : RoundTrip.Statement (.maxu t d a b) := by
  intro w0 h0 hf0
  have g0 {x : Field} := @Field.get w0 [⟨27, t⟩, ⟨21, 3#6⟩, ⟨15, d⟩, ⟨9, a⟩, ⟨3, b⟩, ⟨0, 3#3⟩] (Option.some.inj h0).symm rfl x
  have he : wordEngine w0 = .s := by rw [wordEngine, show fld w0 30 2 = 0#2 from Field.zero (fs := [⟨27, t⟩, ⟨21, 3#6⟩, ⟨15, d⟩, ⟨9, a⟩, ⟨3, b⟩, ⟨0, 3#3⟩]) (Option.some.inj h0).symm rfl 30 2 rfl]; rfl
  refine decodeWord_of .s he ?_ hf0
  show decodeS w0 = _
  unfold decodeS
  rw [show wordOp w0 = 3 from congrArg BitVec.toNat (g0 1 rfl)]
  refine (if_neg ?_).trans ?_
  · exact fun h1 => absurd h1 (fun e => absurd ((show fld w0 0 3 = 3#3 from g0 5 rfl).symm.trans e) (by decide))
  refine (if_neg ?_).trans ?_
  · exact fun h1 => absurd h1 (fun e => absurd ((show fld w0 0 3 = 3#3 from g0 5 rfl).symm.trans e) (by decide))
  refine (if_neg ?_).trans ?_
  · exact fun h1 => absurd h1 (fun e => absurd ((show fld w0 0 3 = 3#3 from g0 5 rfl).symm.trans e) (by decide))
  refine (if_pos ?_).trans ?_
  · exact g0 5 rfl
  show (Except.ok (.maxu (fld w0 27 3) (fld w0 15 6) (fld w0 9 6) (fld w0 3 6)) : Except Reject Instr) = _
  rw [show fld w0 27 3 = t from g0 0 rfl, show fld w0 15 6 = d from g0 2 rfl, show fld w0 9 6 = a from g0 3 rfl, show fld w0 3 6 = b from g0 4 rfl]

theorem RoundTrip.slt (t : BitVec 3) (d : BitVec 6) (a : BitVec 6) (b : BitVec 6) : RoundTrip.Statement (.slt t d a b) := by
  intro w0 h0 hf0
  have g0 {x : Field} := @Field.get w0 [⟨27, t⟩, ⟨21, 3#6⟩, ⟨15, d⟩, ⟨9, a⟩, ⟨3, b⟩, ⟨0, 4#3⟩] (Option.some.inj h0).symm rfl x
  have he : wordEngine w0 = .s := by rw [wordEngine, show fld w0 30 2 = 0#2 from Field.zero (fs := [⟨27, t⟩, ⟨21, 3#6⟩, ⟨15, d⟩, ⟨9, a⟩, ⟨3, b⟩, ⟨0, 4#3⟩]) (Option.some.inj h0).symm rfl 30 2 rfl]; rfl
  refine decodeWord_of .s he ?_ hf0
  show decodeS w0 = _
  unfold decodeS
  rw [show wordOp w0 = 3 from congrArg BitVec.toNat (g0 1 rfl)]
  refine (if_neg ?_).trans ?_
  · exact fun h1 => absurd h1 (fun e => absurd ((show fld w0 0 3 = 4#3 from g0 5 rfl).symm.trans e) (by decide))
  refine (if_neg ?_).trans ?_
  · exact fun h1 => absurd h1 (fun e => absurd ((show fld w0 0 3 = 4#3 from g0 5 rfl).symm.trans e) (by decide))
  refine (if_neg ?_).trans ?_
  · exact fun h1 => absurd h1 (fun e => absurd ((show fld w0 0 3 = 4#3 from g0 5 rfl).symm.trans e) (by decide))
  refine (if_neg ?_).trans ?_
  · exact fun h1 => absurd h1 (fun e => absurd ((show fld w0 0 3 = 4#3 from g0 5 rfl).symm.trans e) (by decide))
  refine (if_pos ?_).trans ?_
  · exact g0 5 rfl
  show (Except.ok (.slt (fld w0 27 3) (fld w0 15 6) (fld w0 9 6) (fld w0 3 6)) : Except Reject Instr) = _
  rw [show fld w0 27 3 = t from g0 0 rfl, show fld w0 15 6 = d from g0 2 rfl, show fld w0 9 6 = a from g0 3 rfl, show fld w0 3 6 = b from g0 4 rfl]

theorem RoundTrip.sltu (t : BitVec 3) (d : BitVec 6) (a : BitVec 6) (b : BitVec 6) : RoundTrip.Statement (.sltu t d a b) := by
  intro w0 h0 hf0
  have g0 {x : Field} := @Field.get w0 [⟨27, t⟩, ⟨21, 3#6⟩, ⟨15, d⟩, ⟨9, a⟩, ⟨3, b⟩, ⟨0, 5#3⟩] (Option.some.inj h0).symm rfl x
  have he : wordEngine w0 = .s := by rw [wordEngine, show fld w0 30 2 = 0#2 from Field.zero (fs := [⟨27, t⟩, ⟨21, 3#6⟩, ⟨15, d⟩, ⟨9, a⟩, ⟨3, b⟩, ⟨0, 5#3⟩]) (Option.some.inj h0).symm rfl 30 2 rfl]; rfl
  refine decodeWord_of .s he ?_ hf0
  show decodeS w0 = _
  unfold decodeS
  rw [show wordOp w0 = 3 from congrArg BitVec.toNat (g0 1 rfl)]
  refine (if_neg ?_).trans ?_
  · exact fun h1 => absurd h1 (fun e => absurd ((show fld w0 0 3 = 5#3 from g0 5 rfl).symm.trans e) (by decide))
  refine (if_neg ?_).trans ?_
  · exact fun h1 => absurd h1 (fun e => absurd ((show fld w0 0 3 = 5#3 from g0 5 rfl).symm.trans e) (by decide))
  refine (if_neg ?_).trans ?_
  · exact fun h1 => absurd h1 (fun e => absurd ((show fld w0 0 3 = 5#3 from g0 5 rfl).symm.trans e) (by decide))
  refine (if_neg ?_).trans ?_
  · exact fun h1 => absurd h1 (fun e => absurd ((show fld w0 0 3 = 5#3 from g0 5 rfl).symm.trans e) (by decide))
  refine (if_neg ?_).trans ?_
  · exact fun h1 => absurd h1 (fun e => absurd ((show fld w0 0 3 = 5#3 from g0 5 rfl).symm.trans e) (by decide))
  refine (if_pos ?_).trans ?_
  · exact g0 5 rfl
  show (Except.ok (.sltu (fld w0 27 3) (fld w0 15 6) (fld w0 9 6) (fld w0 3 6)) : Except Reject Instr) = _
  rw [show fld w0 27 3 = t from g0 0 rfl, show fld w0 15 6 = d from g0 2 rfl, show fld w0 9 6 = a from g0 3 rfl, show fld w0 3 6 = b from g0 4 rfl]

theorem RoundTrip.ceq (t : BitVec 3) (a : BitVec 6) (b : BitVec 6) : RoundTrip.Statement (.ceq t a b) := by
  intro w0 h0 hf0
  have g0 {x : Field} := @Field.get w0 [⟨27, t⟩, ⟨21, 4#6⟩, ⟨9, a⟩, ⟨3, b⟩] (Option.some.inj h0).symm rfl x
  have he : wordEngine w0 = .s := by rw [wordEngine, show fld w0 30 2 = 0#2 from Field.zero (fs := [⟨27, t⟩, ⟨21, 4#6⟩, ⟨9, a⟩, ⟨3, b⟩]) (Option.some.inj h0).symm rfl 30 2 rfl]; rfl
  refine decodeWord_of .s he ?_ hf0
  show decodeS w0 = _
  unfold decodeS
  rw [show wordOp w0 = 4 from congrArg BitVec.toNat (g0 1 rfl)]
  refine (if_pos ?_).trans ?_
  · exact ⟨Field.zero (fs := [⟨27, t⟩, ⟨21, 4#6⟩, ⟨9, a⟩, ⟨3, b⟩]) (Option.some.inj h0).symm rfl 15 6 rfl, Field.zero (fs := [⟨27, t⟩, ⟨21, 4#6⟩, ⟨9, a⟩, ⟨3, b⟩]) (Option.some.inj h0).symm rfl 0 3 rfl⟩
  show (Except.ok (.ceq (fld w0 27 3) (fld w0 9 6) (fld w0 3 6)) : Except Reject Instr) = _
  rw [show fld w0 27 3 = t from g0 0 rfl, show fld w0 9 6 = a from g0 2 rfl, show fld w0 3 6 = b from g0 3 rfl]

theorem RoundTrip.cne (t : BitVec 3) (a : BitVec 6) (b : BitVec 6) : RoundTrip.Statement (.cne t a b) := by
  intro w0 h0 hf0
  have g0 {x : Field} := @Field.get w0 [⟨27, t⟩, ⟨21, 4#6⟩, ⟨9, a⟩, ⟨3, b⟩, ⟨0, 1#3⟩] (Option.some.inj h0).symm rfl x
  have he : wordEngine w0 = .s := by rw [wordEngine, show fld w0 30 2 = 0#2 from Field.zero (fs := [⟨27, t⟩, ⟨21, 4#6⟩, ⟨9, a⟩, ⟨3, b⟩, ⟨0, 1#3⟩]) (Option.some.inj h0).symm rfl 30 2 rfl]; rfl
  refine decodeWord_of .s he ?_ hf0
  show decodeS w0 = _
  unfold decodeS
  rw [show wordOp w0 = 4 from congrArg BitVec.toNat (g0 1 rfl)]
  refine (if_neg ?_).trans ?_
  · exact fun h1 => absurd h1.2 (fun e => absurd ((show fld w0 0 3 = 1#3 from g0 4 rfl).symm.trans e) (by decide))
  refine (if_pos ?_).trans ?_
  · exact ⟨Field.zero (fs := [⟨27, t⟩, ⟨21, 4#6⟩, ⟨9, a⟩, ⟨3, b⟩, ⟨0, 1#3⟩]) (Option.some.inj h0).symm rfl 15 6 rfl, g0 4 rfl⟩
  show (Except.ok (.cne (fld w0 27 3) (fld w0 9 6) (fld w0 3 6)) : Except Reject Instr) = _
  rw [show fld w0 27 3 = t from g0 0 rfl, show fld w0 9 6 = a from g0 2 rfl, show fld w0 3 6 = b from g0 3 rfl]

theorem RoundTrip.clt (t : BitVec 3) (a : BitVec 6) (b : BitVec 6) : RoundTrip.Statement (.clt t a b) := by
  intro w0 h0 hf0
  have g0 {x : Field} := @Field.get w0 [⟨27, t⟩, ⟨21, 4#6⟩, ⟨9, a⟩, ⟨3, b⟩, ⟨0, 2#3⟩] (Option.some.inj h0).symm rfl x
  have he : wordEngine w0 = .s := by rw [wordEngine, show fld w0 30 2 = 0#2 from Field.zero (fs := [⟨27, t⟩, ⟨21, 4#6⟩, ⟨9, a⟩, ⟨3, b⟩, ⟨0, 2#3⟩]) (Option.some.inj h0).symm rfl 30 2 rfl]; rfl
  refine decodeWord_of .s he ?_ hf0
  show decodeS w0 = _
  unfold decodeS
  rw [show wordOp w0 = 4 from congrArg BitVec.toNat (g0 1 rfl)]
  refine (if_neg ?_).trans ?_
  · exact fun h1 => absurd h1.2 (fun e => absurd ((show fld w0 0 3 = 2#3 from g0 4 rfl).symm.trans e) (by decide))
  refine (if_neg ?_).trans ?_
  · exact fun h1 => absurd h1.2 (fun e => absurd ((show fld w0 0 3 = 2#3 from g0 4 rfl).symm.trans e) (by decide))
  refine (if_pos ?_).trans ?_
  · exact ⟨Field.zero (fs := [⟨27, t⟩, ⟨21, 4#6⟩, ⟨9, a⟩, ⟨3, b⟩, ⟨0, 2#3⟩]) (Option.some.inj h0).symm rfl 15 6 rfl, g0 4 rfl⟩
  show (Except.ok (.clt (fld w0 27 3) (fld w0 9 6) (fld w0 3 6)) : Except Reject Instr) = _
  rw [show fld w0 27 3 = t from g0 0 rfl, show fld w0 9 6 = a from g0 2 rfl, show fld w0 3 6 = b from g0 3 rfl]

theorem RoundTrip.cge (t : BitVec 3) (a : BitVec 6) (b : BitVec 6) : RoundTrip.Statement (.cge t a b) := by
  intro w0 h0 hf0
  have g0 {x : Field} := @Field.get w0 [⟨27, t⟩, ⟨21, 4#6⟩, ⟨9, a⟩, ⟨3, b⟩, ⟨0, 3#3⟩] (Option.some.inj h0).symm rfl x
  have he : wordEngine w0 = .s := by rw [wordEngine, show fld w0 30 2 = 0#2 from Field.zero (fs := [⟨27, t⟩, ⟨21, 4#6⟩, ⟨9, a⟩, ⟨3, b⟩, ⟨0, 3#3⟩]) (Option.some.inj h0).symm rfl 30 2 rfl]; rfl
  refine decodeWord_of .s he ?_ hf0
  show decodeS w0 = _
  unfold decodeS
  rw [show wordOp w0 = 4 from congrArg BitVec.toNat (g0 1 rfl)]
  refine (if_neg ?_).trans ?_
  · exact fun h1 => absurd h1.2 (fun e => absurd ((show fld w0 0 3 = 3#3 from g0 4 rfl).symm.trans e) (by decide))
  refine (if_neg ?_).trans ?_
  · exact fun h1 => absurd h1.2 (fun e => absurd ((show fld w0 0 3 = 3#3 from g0 4 rfl).symm.trans e) (by decide))
  refine (if_neg ?_).trans ?_
  · exact fun h1 => absurd h1.2 (fun e => absurd ((show fld w0 0 3 = 3#3 from g0 4 rfl).symm.trans e) (by decide))
  refine (if_pos ?_).trans ?_
  · exact ⟨Field.zero (fs := [⟨27, t⟩, ⟨21, 4#6⟩, ⟨9, a⟩, ⟨3, b⟩, ⟨0, 3#3⟩]) (Option.some.inj h0).symm rfl 15 6 rfl, g0 4 rfl⟩
  show (Except.ok (.cge (fld w0 27 3) (fld w0 9 6) (fld w0 3 6)) : Except Reject Instr) = _
  rw [show fld w0 27 3 = t from g0 0 rfl, show fld w0 9 6 = a from g0 2 rfl, show fld w0 3 6 = b from g0 3 rfl]

theorem RoundTrip.cltu (t : BitVec 3) (a : BitVec 6) (b : BitVec 6) : RoundTrip.Statement (.cltu t a b) := by
  intro w0 h0 hf0
  have g0 {x : Field} := @Field.get w0 [⟨27, t⟩, ⟨21, 4#6⟩, ⟨9, a⟩, ⟨3, b⟩, ⟨0, 4#3⟩] (Option.some.inj h0).symm rfl x
  have he : wordEngine w0 = .s := by rw [wordEngine, show fld w0 30 2 = 0#2 from Field.zero (fs := [⟨27, t⟩, ⟨21, 4#6⟩, ⟨9, a⟩, ⟨3, b⟩, ⟨0, 4#3⟩]) (Option.some.inj h0).symm rfl 30 2 rfl]; rfl
  refine decodeWord_of .s he ?_ hf0
  show decodeS w0 = _
  unfold decodeS
  rw [show wordOp w0 = 4 from congrArg BitVec.toNat (g0 1 rfl)]
  refine (if_neg ?_).trans ?_
  · exact fun h1 => absurd h1.2 (fun e => absurd ((show fld w0 0 3 = 4#3 from g0 4 rfl).symm.trans e) (by decide))
  refine (if_neg ?_).trans ?_
  · exact fun h1 => absurd h1.2 (fun e => absurd ((show fld w0 0 3 = 4#3 from g0 4 rfl).symm.trans e) (by decide))
  refine (if_neg ?_).trans ?_
  · exact fun h1 => absurd h1.2 (fun e => absurd ((show fld w0 0 3 = 4#3 from g0 4 rfl).symm.trans e) (by decide))
  refine (if_neg ?_).trans ?_
  · exact fun h1 => absurd h1.2 (fun e => absurd ((show fld w0 0 3 = 4#3 from g0 4 rfl).symm.trans e) (by decide))
  refine (if_pos ?_).trans ?_
  · exact ⟨Field.zero (fs := [⟨27, t⟩, ⟨21, 4#6⟩, ⟨9, a⟩, ⟨3, b⟩, ⟨0, 4#3⟩]) (Option.some.inj h0).symm rfl 15 6 rfl, g0 4 rfl⟩
  show (Except.ok (.cltu (fld w0 27 3) (fld w0 9 6) (fld w0 3 6)) : Except Reject Instr) = _
  rw [show fld w0 27 3 = t from g0 0 rfl, show fld w0 9 6 = a from g0 2 rfl, show fld w0 3 6 = b from g0 3 rfl]

theorem RoundTrip.cgeu (t : BitVec 3) (a : BitVec 6) (b : BitVec 6) : RoundTrip.Statement (.cgeu t a b) := by
  intro w0 h0 hf0
  have g0 {x : Field} := @Field.get w0 [⟨27, t⟩, ⟨21, 4#6⟩, ⟨9, a⟩, ⟨3, b⟩, ⟨0, 5#3⟩] (Option.some.inj h0).symm rfl x
  have he : wordEngine w0 = .s := by rw [wordEngine, show fld w0 30 2 = 0#2 from Field.zero (fs := [⟨27, t⟩, ⟨21, 4#6⟩, ⟨9, a⟩, ⟨3, b⟩, ⟨0, 5#3⟩]) (Option.some.inj h0).symm rfl 30 2 rfl]; rfl
  refine decodeWord_of .s he ?_ hf0
  show decodeS w0 = _
  unfold decodeS
  rw [show wordOp w0 = 4 from congrArg BitVec.toNat (g0 1 rfl)]
  refine (if_neg ?_).trans ?_
  · exact fun h1 => absurd h1.2 (fun e => absurd ((show fld w0 0 3 = 5#3 from g0 4 rfl).symm.trans e) (by decide))
  refine (if_neg ?_).trans ?_
  · exact fun h1 => absurd h1.2 (fun e => absurd ((show fld w0 0 3 = 5#3 from g0 4 rfl).symm.trans e) (by decide))
  refine (if_neg ?_).trans ?_
  · exact fun h1 => absurd h1.2 (fun e => absurd ((show fld w0 0 3 = 5#3 from g0 4 rfl).symm.trans e) (by decide))
  refine (if_neg ?_).trans ?_
  · exact fun h1 => absurd h1.2 (fun e => absurd ((show fld w0 0 3 = 5#3 from g0 4 rfl).symm.trans e) (by decide))
  refine (if_neg ?_).trans ?_
  · exact fun h1 => absurd h1.2 (fun e => absurd ((show fld w0 0 3 = 5#3 from g0 4 rfl).symm.trans e) (by decide))
  refine (if_pos ?_).trans ?_
  · exact ⟨Field.zero (fs := [⟨27, t⟩, ⟨21, 4#6⟩, ⟨9, a⟩, ⟨3, b⟩, ⟨0, 5#3⟩]) (Option.some.inj h0).symm rfl 15 6 rfl, g0 4 rfl⟩
  show (Except.ok (.cgeu (fld w0 27 3) (fld w0 9 6) (fld w0 3 6)) : Except Reject Instr) = _
  rw [show fld w0 27 3 = t from g0 0 rfl, show fld w0 9 6 = a from g0 2 rfl, show fld w0 3 6 = b from g0 3 rfl]

theorem RoundTrip.addi (t : BitVec 3) (d : BitVec 6) (a : BitVec 6) (i : BitVec 9) : RoundTrip.Statement (.addi t d a i) := by
  intro w0 h0 hf0
  have g0 {x : Field} := @Field.get w0 [⟨27, t⟩, ⟨21, 5#6⟩, ⟨15, d⟩, ⟨9, a⟩, ⟨0, i⟩] (Option.some.inj h0).symm rfl x
  have he : wordEngine w0 = .s := by rw [wordEngine, show fld w0 30 2 = 0#2 from Field.zero (fs := [⟨27, t⟩, ⟨21, 5#6⟩, ⟨15, d⟩, ⟨9, a⟩, ⟨0, i⟩]) (Option.some.inj h0).symm rfl 30 2 rfl]; rfl
  refine decodeWord_of .s he ?_ hf0
  show decodeS w0 = _
  unfold decodeS
  rw [show wordOp w0 = 5 from congrArg BitVec.toNat (g0 1 rfl)]
  show (Except.ok (.addi (fld w0 27 3) (fld w0 15 6) (fld w0 9 6) (fld w0 0 9)) : Except Reject Instr) = _
  rw [show fld w0 27 3 = t from g0 0 rfl, show fld w0 15 6 = d from g0 2 rfl, show fld w0 9 6 = a from g0 3 rfl, show fld w0 0 9 = i from g0 4 rfl]

theorem RoundTrip.andi (t : BitVec 3) (d : BitVec 6) (a : BitVec 6) (i : BitVec 9) : RoundTrip.Statement (.andi t d a i) := by
  intro w0 h0 hf0
  have g0 {x : Field} := @Field.get w0 [⟨27, t⟩, ⟨21, 6#6⟩, ⟨15, d⟩, ⟨9, a⟩, ⟨0, i⟩] (Option.some.inj h0).symm rfl x
  have he : wordEngine w0 = .s := by rw [wordEngine, show fld w0 30 2 = 0#2 from Field.zero (fs := [⟨27, t⟩, ⟨21, 6#6⟩, ⟨15, d⟩, ⟨9, a⟩, ⟨0, i⟩]) (Option.some.inj h0).symm rfl 30 2 rfl]; rfl
  refine decodeWord_of .s he ?_ hf0
  show decodeS w0 = _
  unfold decodeS
  rw [show wordOp w0 = 6 from congrArg BitVec.toNat (g0 1 rfl)]
  show (Except.ok (.andi (fld w0 27 3) (fld w0 15 6) (fld w0 9 6) (fld w0 0 9)) : Except Reject Instr) = _
  rw [show fld w0 27 3 = t from g0 0 rfl, show fld w0 15 6 = d from g0 2 rfl, show fld w0 9 6 = a from g0 3 rfl, show fld w0 0 9 = i from g0 4 rfl]

theorem RoundTrip.ori (t : BitVec 3) (d : BitVec 6) (a : BitVec 6) (i : BitVec 9) : RoundTrip.Statement (.ori t d a i) := by
  intro w0 h0 hf0
  have g0 {x : Field} := @Field.get w0 [⟨27, t⟩, ⟨21, 7#6⟩, ⟨15, d⟩, ⟨9, a⟩, ⟨0, i⟩] (Option.some.inj h0).symm rfl x
  have he : wordEngine w0 = .s := by rw [wordEngine, show fld w0 30 2 = 0#2 from Field.zero (fs := [⟨27, t⟩, ⟨21, 7#6⟩, ⟨15, d⟩, ⟨9, a⟩, ⟨0, i⟩]) (Option.some.inj h0).symm rfl 30 2 rfl]; rfl
  refine decodeWord_of .s he ?_ hf0
  show decodeS w0 = _
  unfold decodeS
  rw [show wordOp w0 = 7 from congrArg BitVec.toNat (g0 1 rfl)]
  show (Except.ok (.ori (fld w0 27 3) (fld w0 15 6) (fld w0 9 6) (fld w0 0 9)) : Except Reject Instr) = _
  rw [show fld w0 27 3 = t from g0 0 rfl, show fld w0 15 6 = d from g0 2 rfl, show fld w0 9 6 = a from g0 3 rfl, show fld w0 0 9 = i from g0 4 rfl]

theorem RoundTrip.xori (t : BitVec 3) (d : BitVec 6) (a : BitVec 6) (i : BitVec 9) : RoundTrip.Statement (.xori t d a i) := by
  intro w0 h0 hf0
  have g0 {x : Field} := @Field.get w0 [⟨27, t⟩, ⟨21, 8#6⟩, ⟨15, d⟩, ⟨9, a⟩, ⟨0, i⟩] (Option.some.inj h0).symm rfl x
  have he : wordEngine w0 = .s := by rw [wordEngine, show fld w0 30 2 = 0#2 from Field.zero (fs := [⟨27, t⟩, ⟨21, 8#6⟩, ⟨15, d⟩, ⟨9, a⟩, ⟨0, i⟩]) (Option.some.inj h0).symm rfl 30 2 rfl]; rfl
  refine decodeWord_of .s he ?_ hf0
  show decodeS w0 = _
  unfold decodeS
  rw [show wordOp w0 = 8 from congrArg BitVec.toNat (g0 1 rfl)]
  show (Except.ok (.xori (fld w0 27 3) (fld w0 15 6) (fld w0 9 6) (fld w0 0 9)) : Except Reject Instr) = _
  rw [show fld w0 27 3 = t from g0 0 rfl, show fld w0 15 6 = d from g0 2 rfl, show fld w0 9 6 = a from g0 3 rfl, show fld w0 0 9 = i from g0 4 rfl]

theorem RoundTrip.shli (t : BitVec 3) (d : BitVec 6) (a : BitVec 6) (i : BitVec 6) : RoundTrip.Statement (.shli t d a i) := by
  intro w0 h0 hf0
  have g0 {x : Field} := @Field.get w0 [⟨27, t⟩, ⟨21, 9#6⟩, ⟨15, d⟩, ⟨9, a⟩, ⟨0, i⟩] (Option.some.inj h0).symm rfl x
  have he : wordEngine w0 = .s := by rw [wordEngine, show fld w0 30 2 = 0#2 from Field.zero (fs := [⟨27, t⟩, ⟨21, 9#6⟩, ⟨15, d⟩, ⟨9, a⟩, ⟨0, i⟩]) (Option.some.inj h0).symm rfl 30 2 rfl]; rfl
  refine decodeWord_of .s he ?_ hf0
  show decodeS w0 = _
  unfold decodeS
  rw [show wordOp w0 = 9 from congrArg BitVec.toNat (g0 1 rfl)]
  refine (if_pos ?_).trans ?_
  · exact Field.zero (fs := [⟨27, t⟩, ⟨21, 9#6⟩, ⟨15, d⟩, ⟨9, a⟩, ⟨0, i⟩]) (Option.some.inj h0).symm rfl 6 3 rfl
  show (Except.ok (.shli (fld w0 27 3) (fld w0 15 6) (fld w0 9 6) (fld w0 0 6)) : Except Reject Instr) = _
  rw [show fld w0 27 3 = t from g0 0 rfl, show fld w0 15 6 = d from g0 2 rfl, show fld w0 9 6 = a from g0 3 rfl, show fld w0 0 6 = i from g0 4 rfl]

theorem RoundTrip.shri (t : BitVec 3) (d : BitVec 6) (a : BitVec 6) (i : BitVec 6) : RoundTrip.Statement (.shri t d a i) := by
  intro w0 h0 hf0
  have g0 {x : Field} := @Field.get w0 [⟨27, t⟩, ⟨21, 10#6⟩, ⟨15, d⟩, ⟨9, a⟩, ⟨0, i⟩] (Option.some.inj h0).symm rfl x
  have he : wordEngine w0 = .s := by rw [wordEngine, show fld w0 30 2 = 0#2 from Field.zero (fs := [⟨27, t⟩, ⟨21, 10#6⟩, ⟨15, d⟩, ⟨9, a⟩, ⟨0, i⟩]) (Option.some.inj h0).symm rfl 30 2 rfl]; rfl
  refine decodeWord_of .s he ?_ hf0
  show decodeS w0 = _
  unfold decodeS
  rw [show wordOp w0 = 10 from congrArg BitVec.toNat (g0 1 rfl)]
  refine (if_pos ?_).trans ?_
  · exact Field.zero (fs := [⟨27, t⟩, ⟨21, 10#6⟩, ⟨15, d⟩, ⟨9, a⟩, ⟨0, i⟩]) (Option.some.inj h0).symm rfl 6 3 rfl
  show (Except.ok (.shri (fld w0 27 3) (fld w0 15 6) (fld w0 9 6) (fld w0 0 6)) : Except Reject Instr) = _
  rw [show fld w0 27 3 = t from g0 0 rfl, show fld w0 15 6 = d from g0 2 rfl, show fld w0 9 6 = a from g0 3 rfl, show fld w0 0 6 = i from g0 4 rfl]

theorem RoundTrip.srai (t : BitVec 3) (d : BitVec 6) (a : BitVec 6) (i : BitVec 6) : RoundTrip.Statement (.srai t d a i) := by
  intro w0 h0 hf0
  have g0 {x : Field} := @Field.get w0 [⟨27, t⟩, ⟨21, 11#6⟩, ⟨15, d⟩, ⟨9, a⟩, ⟨0, i⟩] (Option.some.inj h0).symm rfl x
  have he : wordEngine w0 = .s := by rw [wordEngine, show fld w0 30 2 = 0#2 from Field.zero (fs := [⟨27, t⟩, ⟨21, 11#6⟩, ⟨15, d⟩, ⟨9, a⟩, ⟨0, i⟩]) (Option.some.inj h0).symm rfl 30 2 rfl]; rfl
  refine decodeWord_of .s he ?_ hf0
  show decodeS w0 = _
  unfold decodeS
  rw [show wordOp w0 = 11 from congrArg BitVec.toNat (g0 1 rfl)]
  refine (if_pos ?_).trans ?_
  · exact Field.zero (fs := [⟨27, t⟩, ⟨21, 11#6⟩, ⟨15, d⟩, ⟨9, a⟩, ⟨0, i⟩]) (Option.some.inj h0).symm rfl 6 3 rfl
  show (Except.ok (.srai (fld w0 27 3) (fld w0 15 6) (fld w0 9 6) (fld w0 0 6)) : Except Reject Instr) = _
  rw [show fld w0 27 3 = t from g0 0 rfl, show fld w0 15 6 = d from g0 2 rfl, show fld w0 9 6 = a from g0 3 rfl, show fld w0 0 6 = i from g0 4 rfl]

theorem RoundTrip.ceqi (t : BitVec 3) (a : BitVec 6) (i : BitVec 9) : RoundTrip.Statement (.ceqi t a i) := by
  intro w0 h0 hf0
  have g0 {x : Field} := @Field.get w0 [⟨27, t⟩, ⟨21, 12#6⟩, ⟨9, a⟩, ⟨0, i⟩] (Option.some.inj h0).symm rfl x
  have he : wordEngine w0 = .s := by rw [wordEngine, show fld w0 30 2 = 0#2 from Field.zero (fs := [⟨27, t⟩, ⟨21, 12#6⟩, ⟨9, a⟩, ⟨0, i⟩]) (Option.some.inj h0).symm rfl 30 2 rfl]; rfl
  refine decodeWord_of .s he ?_ hf0
  show decodeS w0 = _
  unfold decodeS
  rw [show wordOp w0 = 12 from congrArg BitVec.toNat (g0 1 rfl)]
  refine (if_pos ?_).trans ?_
  · exact Field.zero (fs := [⟨27, t⟩, ⟨21, 12#6⟩, ⟨9, a⟩, ⟨0, i⟩]) (Option.some.inj h0).symm rfl 15 6 rfl
  show (Except.ok (.ceqi (fld w0 27 3) (fld w0 9 6) (fld w0 0 9)) : Except Reject Instr) = _
  rw [show fld w0 27 3 = t from g0 0 rfl, show fld w0 9 6 = a from g0 2 rfl, show fld w0 0 9 = i from g0 3 rfl]

theorem RoundTrip.clti (t : BitVec 3) (a : BitVec 6) (i : BitVec 9) : RoundTrip.Statement (.clti t a i) := by
  intro w0 h0 hf0
  have g0 {x : Field} := @Field.get w0 [⟨27, t⟩, ⟨21, 13#6⟩, ⟨9, a⟩, ⟨0, i⟩] (Option.some.inj h0).symm rfl x
  have he : wordEngine w0 = .s := by rw [wordEngine, show fld w0 30 2 = 0#2 from Field.zero (fs := [⟨27, t⟩, ⟨21, 13#6⟩, ⟨9, a⟩, ⟨0, i⟩]) (Option.some.inj h0).symm rfl 30 2 rfl]; rfl
  refine decodeWord_of .s he ?_ hf0
  show decodeS w0 = _
  unfold decodeS
  rw [show wordOp w0 = 13 from congrArg BitVec.toNat (g0 1 rfl)]
  refine (if_pos ?_).trans ?_
  · exact Field.zero (fs := [⟨27, t⟩, ⟨21, 13#6⟩, ⟨9, a⟩, ⟨0, i⟩]) (Option.some.inj h0).symm rfl 15 6 rfl
  show (Except.ok (.clti (fld w0 27 3) (fld w0 9 6) (fld w0 0 9)) : Except Reject Instr) = _
  rw [show fld w0 27 3 = t from g0 0 rfl, show fld w0 9 6 = a from g0 2 rfl, show fld w0 0 9 = i from g0 3 rfl]

theorem RoundTrip.lui (t : BitVec 3) (d : BitVec 6) (i : BitVec 15) : RoundTrip.Statement (.lui t d i) := by
  intro w0 h0 hf0
  have g0 {x : Field} := @Field.get w0 [⟨27, t⟩, ⟨21, 14#6⟩, ⟨15, d⟩, ⟨0, i⟩] (Option.some.inj h0).symm rfl x
  have he : wordEngine w0 = .s := by rw [wordEngine, show fld w0 30 2 = 0#2 from Field.zero (fs := [⟨27, t⟩, ⟨21, 14#6⟩, ⟨15, d⟩, ⟨0, i⟩]) (Option.some.inj h0).symm rfl 30 2 rfl]; rfl
  refine decodeWord_of .s he ?_ hf0
  show decodeS w0 = _
  unfold decodeS
  rw [show wordOp w0 = 14 from congrArg BitVec.toNat (g0 1 rfl)]
  show (Except.ok (.lui (fld w0 27 3) (fld w0 15 6) (fld w0 0 15)) : Except Reject Instr) = _
  rw [show fld w0 27 3 = t from g0 0 rfl, show fld w0 15 6 = d from g0 2 rfl, show fld w0 0 15 = i from g0 3 rfl]

theorem RoundTrip.lsh (t : BitVec 3) (d : BitVec 6) (i : BitVec 15) : RoundTrip.Statement (.lsh t d i) := by
  intro w0 h0 hf0
  have g0 {x : Field} := @Field.get w0 [⟨27, t⟩, ⟨21, 15#6⟩, ⟨15, d⟩, ⟨0, i⟩] (Option.some.inj h0).symm rfl x
  have he : wordEngine w0 = .s := by rw [wordEngine, show fld w0 30 2 = 0#2 from Field.zero (fs := [⟨27, t⟩, ⟨21, 15#6⟩, ⟨15, d⟩, ⟨0, i⟩]) (Option.some.inj h0).symm rfl 30 2 rfl]; rfl
  refine decodeWord_of .s he ?_ hf0
  show decodeS w0 = _
  unfold decodeS
  rw [show wordOp w0 = 15 from congrArg BitVec.toNat (g0 1 rfl)]
  show (Except.ok (.lsh (fld w0 27 3) (fld w0 15 6) (fld w0 0 15)) : Except Reject Instr) = _
  rw [show fld w0 27 3 = t from g0 0 rfl, show fld w0 15 6 = d from g0 2 rfl, show fld w0 0 15 = i from g0 3 rfl]

theorem RoundTrip.addpc (t : BitVec 3) (d : BitVec 6) (i : BitVec 15) : RoundTrip.Statement (.addpc t d i) := by
  intro w0 h0 hf0
  have g0 {x : Field} := @Field.get w0 [⟨27, t⟩, ⟨21, 16#6⟩, ⟨15, d⟩, ⟨0, i⟩] (Option.some.inj h0).symm rfl x
  have he : wordEngine w0 = .s := by rw [wordEngine, show fld w0 30 2 = 0#2 from Field.zero (fs := [⟨27, t⟩, ⟨21, 16#6⟩, ⟨15, d⟩, ⟨0, i⟩]) (Option.some.inj h0).symm rfl 30 2 rfl]; rfl
  refine decodeWord_of .s he ?_ hf0
  show decodeS w0 = _
  unfold decodeS
  rw [show wordOp w0 = 16 from congrArg BitVec.toNat (g0 1 rfl)]
  show (Except.ok (.addpc (fld w0 27 3) (fld w0 15 6) (fld w0 0 15)) : Except Reject Instr) = _
  rw [show fld w0 27 3 = t from g0 0 rfl, show fld w0 15 6 = d from g0 2 rfl, show fld w0 0 15 = i from g0 3 rfl]

theorem RoundTrip.bcq (t : BitVec 3) (o : BitVec 21) : RoundTrip.Statement (.bcq t o) := by
  intro w0 h0 hf0
  have g0 {x : Field} := @Field.get w0 [⟨27, t⟩, ⟨21, 17#6⟩, ⟨0, o⟩] (Option.some.inj h0).symm rfl x
  have he : wordEngine w0 = .s := by rw [wordEngine, show fld w0 30 2 = 0#2 from Field.zero (fs := [⟨27, t⟩, ⟨21, 17#6⟩, ⟨0, o⟩]) (Option.some.inj h0).symm rfl 30 2 rfl]; rfl
  refine decodeWord_of .s he ?_ hf0
  show decodeS w0 = _
  unfold decodeS
  rw [show wordOp w0 = 17 from congrArg BitVec.toNat (g0 1 rfl)]
  show (Except.ok (.bcq (fld w0 27 3) (fld w0 0 21)) : Except Reject Instr) = _
  rw [show fld w0 27 3 = t from g0 0 rfl, show fld w0 0 21 = o from g0 2 rfl]

theorem RoundTrip.bcqn (t : BitVec 3) (o : BitVec 21) : RoundTrip.Statement (.bcqn t o) := by
  intro w0 h0 hf0
  have g0 {x : Field} := @Field.get w0 [⟨27, t⟩, ⟨21, 18#6⟩, ⟨0, o⟩] (Option.some.inj h0).symm rfl x
  have he : wordEngine w0 = .s := by rw [wordEngine, show fld w0 30 2 = 0#2 from Field.zero (fs := [⟨27, t⟩, ⟨21, 18#6⟩, ⟨0, o⟩]) (Option.some.inj h0).symm rfl 30 2 rfl]; rfl
  refine decodeWord_of .s he ?_ hf0
  show decodeS w0 = _
  unfold decodeS
  rw [show wordOp w0 = 18 from congrArg BitVec.toNat (g0 1 rfl)]
  show (Except.ok (.bcqn (fld w0 27 3) (fld w0 0 21)) : Except Reject Instr) = _
  rw [show fld w0 27 3 = t from g0 0 rfl, show fld w0 0 21 = o from g0 2 rfl]

theorem RoundTrip.jmp (t : BitVec 3) (o : BitVec 21) : RoundTrip.Statement (.jmp t o) := by
  intro w0 h0 hf0
  have g0 {x : Field} := @Field.get w0 [⟨27, t⟩, ⟨21, 19#6⟩, ⟨0, o⟩] (Option.some.inj h0).symm rfl x
  have he : wordEngine w0 = .s := by rw [wordEngine, show fld w0 30 2 = 0#2 from Field.zero (fs := [⟨27, t⟩, ⟨21, 19#6⟩, ⟨0, o⟩]) (Option.some.inj h0).symm rfl 30 2 rfl]; rfl
  refine decodeWord_of .s he ?_ hf0
  show decodeS w0 = _
  unfold decodeS
  rw [show wordOp w0 = 19 from congrArg BitVec.toNat (g0 1 rfl)]
  show (Except.ok (.jmp (fld w0 27 3) (fld w0 0 21)) : Except Reject Instr) = _
  rw [show fld w0 27 3 = t from g0 0 rfl, show fld w0 0 21 = o from g0 2 rfl]

theorem RoundTrip.call (t : BitVec 3) (o : BitVec 21) : RoundTrip.Statement (.call t o) := by
  intro w0 h0 hf0
  have g0 {x : Field} := @Field.get w0 [⟨27, t⟩, ⟨21, 20#6⟩, ⟨0, o⟩] (Option.some.inj h0).symm rfl x
  have he : wordEngine w0 = .s := by rw [wordEngine, show fld w0 30 2 = 0#2 from Field.zero (fs := [⟨27, t⟩, ⟨21, 20#6⟩, ⟨0, o⟩]) (Option.some.inj h0).symm rfl 30 2 rfl]; rfl
  refine decodeWord_of .s he ?_ hf0
  show decodeS w0 = _
  unfold decodeS
  rw [show wordOp w0 = 20 from congrArg BitVec.toNat (g0 1 rfl)]
  show (Except.ok (.call (fld w0 27 3) (fld w0 0 21)) : Except Reject Instr) = _
  rw [show fld w0 27 3 = t from g0 0 rfl, show fld w0 0 21 = o from g0 2 rfl]

theorem RoundTrip.jr (t : BitVec 3) (a : BitVec 6) : RoundTrip.Statement (.jr t a) := by
  intro w0 h0 hf0
  have g0 {x : Field} := @Field.get w0 [⟨27, t⟩, ⟨21, 21#6⟩, ⟨9, a⟩] (Option.some.inj h0).symm rfl x
  have he : wordEngine w0 = .s := by rw [wordEngine, show fld w0 30 2 = 0#2 from Field.zero (fs := [⟨27, t⟩, ⟨21, 21#6⟩, ⟨9, a⟩]) (Option.some.inj h0).symm rfl 30 2 rfl]; rfl
  refine decodeWord_of .s he ?_ hf0
  show decodeS w0 = _
  unfold decodeS
  rw [show wordOp w0 = 21 from congrArg BitVec.toNat (g0 1 rfl)]
  refine (if_pos ?_).trans ?_
  · exact ⟨Field.zero (fs := [⟨27, t⟩, ⟨21, 21#6⟩, ⟨9, a⟩]) (Option.some.inj h0).symm rfl 15 6 rfl, Field.zero (fs := [⟨27, t⟩, ⟨21, 21#6⟩, ⟨9, a⟩]) (Option.some.inj h0).symm rfl 0 9 rfl⟩
  show (Except.ok (.jr (fld w0 27 3) (fld w0 9 6)) : Except Reject Instr) = _
  rw [show fld w0 27 3 = t from g0 0 rfl, show fld w0 9 6 = a from g0 2 rfl]

theorem RoundTrip.callr (t : BitVec 3) (a : BitVec 6) : RoundTrip.Statement (.callr t a) := by
  intro w0 h0 hf0
  have g0 {x : Field} := @Field.get w0 [⟨27, t⟩, ⟨21, 21#6⟩, ⟨9, a⟩, ⟨0, 1#9⟩] (Option.some.inj h0).symm rfl x
  have he : wordEngine w0 = .s := by rw [wordEngine, show fld w0 30 2 = 0#2 from Field.zero (fs := [⟨27, t⟩, ⟨21, 21#6⟩, ⟨9, a⟩, ⟨0, 1#9⟩]) (Option.some.inj h0).symm rfl 30 2 rfl]; rfl
  refine decodeWord_of .s he ?_ hf0
  show decodeS w0 = _
  unfold decodeS
  rw [show wordOp w0 = 21 from congrArg BitVec.toNat (g0 1 rfl)]
  refine (if_neg ?_).trans ?_
  · exact fun h1 => absurd h1.2 (fun e => absurd ((show fld w0 0 9 = 1#9 from g0 3 rfl).symm.trans e) (by decide))
  refine (if_pos ?_).trans ?_
  · exact ⟨Field.zero (fs := [⟨27, t⟩, ⟨21, 21#6⟩, ⟨9, a⟩, ⟨0, 1#9⟩]) (Option.some.inj h0).symm rfl 15 6 rfl, g0 3 rfl⟩
  show (Except.ok (.callr (fld w0 27 3) (fld w0 9 6)) : Except Reject Instr) = _
  rw [show fld w0 27 3 = t from g0 0 rfl, show fld w0 9 6 = a from g0 2 rfl]

theorem RoundTrip.callk (t : BitVec 3) (a : BitVec 5) (b : BitVec 6) : RoundTrip.Statement (.callk t a b) := by
  intro w0 h0 hf0
  have g0 {x : Field} := @Field.get w0 [⟨27, t⟩, ⟨21, 22#6⟩, ⟨10, a⟩, ⟨3, b⟩] (Option.some.inj h0).symm rfl x
  have he : wordEngine w0 = .s := by rw [wordEngine, show fld w0 30 2 = 0#2 from Field.zero (fs := [⟨27, t⟩, ⟨21, 22#6⟩, ⟨10, a⟩, ⟨3, b⟩]) (Option.some.inj h0).symm rfl 30 2 rfl]; rfl
  refine decodeWord_of .s he ?_ hf0
  show decodeS w0 = _
  unfold decodeS
  rw [show wordOp w0 = 22 from congrArg BitVec.toNat (g0 1 rfl)]
  refine (if_pos ?_).trans ?_
  · exact ⟨Field.zero (fs := [⟨27, t⟩, ⟨21, 22#6⟩, ⟨10, a⟩, ⟨3, b⟩]) (Option.some.inj h0).symm rfl 15 6 rfl, Field.zero (fs := [⟨27, t⟩, ⟨21, 22#6⟩, ⟨10, a⟩, ⟨3, b⟩]) (Option.some.inj h0).symm rfl 9 1 rfl, Field.zero (fs := [⟨27, t⟩, ⟨21, 22#6⟩, ⟨10, a⟩, ⟨3, b⟩]) (Option.some.inj h0).symm rfl 0 3 rfl⟩
  show (Except.ok (.callk (fld w0 27 3) (fld w0 10 5) (fld w0 3 6)) : Except Reject Instr) = _
  rw [show fld w0 27 3 = t from g0 0 rfl, show fld w0 10 5 = a from g0 2 rfl, show fld w0 3 6 = b from g0 3 rfl]

theorem RoundTrip.crr (t : BitVec 3) (d : BitVec 6) (n : BitVec 9) : RoundTrip.Statement (.crr t d n) := by
  intro w0 h0 hf0
  have g0 {x : Field} := @Field.get w0 [⟨27, t⟩, ⟨21, 23#6⟩, ⟨15, d⟩, ⟨0, n⟩] (Option.some.inj h0).symm rfl x
  have he : wordEngine w0 = .s := by rw [wordEngine, show fld w0 30 2 = 0#2 from Field.zero (fs := [⟨27, t⟩, ⟨21, 23#6⟩, ⟨15, d⟩, ⟨0, n⟩]) (Option.some.inj h0).symm rfl 30 2 rfl]; rfl
  refine decodeWord_of .s he ?_ hf0
  show decodeS w0 = _
  unfold decodeS
  rw [show wordOp w0 = 23 from congrArg BitVec.toNat (g0 1 rfl)]
  refine (if_pos ?_).trans ?_
  · exact Field.zero (fs := [⟨27, t⟩, ⟨21, 23#6⟩, ⟨15, d⟩, ⟨0, n⟩]) (Option.some.inj h0).symm rfl 9 6 rfl
  show (Except.ok (.crr (fld w0 27 3) (fld w0 15 6) (fld w0 0 9)) : Except Reject Instr) = _
  rw [show fld w0 27 3 = t from g0 0 rfl, show fld w0 15 6 = d from g0 2 rfl, show fld w0 0 9 = n from g0 3 rfl]

theorem RoundTrip.crw (t : BitVec 3) (a : BitVec 6) (n : BitVec 9) : RoundTrip.Statement (.crw t a n) := by
  intro w0 h0 hf0
  have g0 {x : Field} := @Field.get w0 [⟨27, t⟩, ⟨21, 24#6⟩, ⟨9, a⟩, ⟨0, n⟩] (Option.some.inj h0).symm rfl x
  have he : wordEngine w0 = .s := by rw [wordEngine, show fld w0 30 2 = 0#2 from Field.zero (fs := [⟨27, t⟩, ⟨21, 24#6⟩, ⟨9, a⟩, ⟨0, n⟩]) (Option.some.inj h0).symm rfl 30 2 rfl]; rfl
  refine decodeWord_of .s he ?_ hf0
  show decodeS w0 = _
  unfold decodeS
  rw [show wordOp w0 = 24 from congrArg BitVec.toNat (g0 1 rfl)]
  refine (if_neg ?_).trans ?_
  · intro h1
    have h2 : n = 12#9 := (show fld w0 0 9 = n from g0 3 rfl).symm.trans h1.2
    subst h2; simp [Instr.wellFormed, crPlainWritable] at hf0
  refine (if_neg ?_).trans ?_
  · intro h1
    have h2 : n = 4#9 := (show fld w0 0 9 = n from g0 3 rfl).symm.trans h1.2
    subst h2; simp [Instr.wellFormed, crPlainWritable] at hf0
  refine (if_neg ?_).trans ?_
  · intro h1
    have h2 : n = 6#9 := (show fld w0 0 9 = n from g0 3 rfl).symm.trans h1.2
    subst h2; simp [Instr.wellFormed, crPlainWritable] at hf0
  refine (if_neg ?_).trans ?_
  · intro h1
    have h2 : n = 16#9 := (show fld w0 0 9 = n from g0 3 rfl).symm.trans h1.2
    subst h2; simp [Instr.wellFormed, crPlainWritable] at hf0
  refine (if_pos ?_).trans ?_
  · exact Field.zero (fs := [⟨27, t⟩, ⟨21, 24#6⟩, ⟨9, a⟩, ⟨0, n⟩]) (Option.some.inj h0).symm rfl 15 6 rfl
  show (Except.ok (.crw (fld w0 27 3) (fld w0 9 6) (fld w0 0 9)) : Except Reject Instr) = _
  rw [show fld w0 27 3 = t from g0 0 rfl, show fld w0 9 6 = a from g0 2 rfl, show fld w0 0 9 = n from g0 3 rfl]

theorem RoundTrip.crwTimer (t : BitVec 3) (a : BitVec 6) : RoundTrip.Statement (.crwTimer t a) := by
  intro w0 h0 hf0
  have g0 {x : Field} := @Field.get w0 [⟨27, t⟩, ⟨21, 24#6⟩, ⟨9, a⟩, ⟨0, 12#9⟩] (Option.some.inj h0).symm rfl x
  have he : wordEngine w0 = .s := by rw [wordEngine, show fld w0 30 2 = 0#2 from Field.zero (fs := [⟨27, t⟩, ⟨21, 24#6⟩, ⟨9, a⟩, ⟨0, 12#9⟩]) (Option.some.inj h0).symm rfl 30 2 rfl]; rfl
  refine decodeWord_of .s he ?_ hf0
  show decodeS w0 = _
  unfold decodeS
  rw [show wordOp w0 = 24 from congrArg BitVec.toNat (g0 1 rfl)]
  refine (if_pos ?_).trans ?_
  · exact ⟨Field.zero (fs := [⟨27, t⟩, ⟨21, 24#6⟩, ⟨9, a⟩, ⟨0, 12#9⟩]) (Option.some.inj h0).symm rfl 15 6 rfl, g0 3 rfl⟩
  show (Except.ok (.crwTimer (fld w0 27 3) (fld w0 9 6)) : Except Reject Instr) = _
  rw [show fld w0 27 3 = t from g0 0 rfl, show fld w0 9 6 = a from g0 2 rfl]

theorem RoundTrip.crwSlip (t : BitVec 3) (a : BitVec 6) : RoundTrip.Statement (.crwSlip t a) := by
  intro w0 h0 hf0
  have g0 {x : Field} := @Field.get w0 [⟨27, t⟩, ⟨21, 24#6⟩, ⟨9, a⟩, ⟨0, 4#9⟩] (Option.some.inj h0).symm rfl x
  have he : wordEngine w0 = .s := by rw [wordEngine, show fld w0 30 2 = 0#2 from Field.zero (fs := [⟨27, t⟩, ⟨21, 24#6⟩, ⟨9, a⟩, ⟨0, 4#9⟩]) (Option.some.inj h0).symm rfl 30 2 rfl]; rfl
  refine decodeWord_of .s he ?_ hf0
  show decodeS w0 = _
  unfold decodeS
  rw [show wordOp w0 = 24 from congrArg BitVec.toNat (g0 1 rfl)]
  refine (if_neg ?_).trans ?_
  · exact fun h1 => absurd h1.2 (fun e => absurd ((show fld w0 0 9 = 4#9 from g0 3 rfl).symm.trans e) (by decide))
  refine (if_pos ?_).trans ?_
  · exact ⟨Field.zero (fs := [⟨27, t⟩, ⟨21, 24#6⟩, ⟨9, a⟩, ⟨0, 4#9⟩]) (Option.some.inj h0).symm rfl 15 6 rfl, g0 3 rfl⟩
  show (Except.ok (.crwSlip (fld w0 27 3) (fld w0 9 6)) : Except Reject Instr) = _
  rw [show fld w0 27 3 = t from g0 0 rfl, show fld w0 9 6 = a from g0 2 rfl]

theorem RoundTrip.crwFpflags (t : BitVec 3) (a : BitVec 6) : RoundTrip.Statement (.crwFpflags t a) := by
  intro w0 h0 hf0
  have g0 {x : Field} := @Field.get w0 [⟨27, t⟩, ⟨21, 24#6⟩, ⟨9, a⟩, ⟨0, 6#9⟩] (Option.some.inj h0).symm rfl x
  have he : wordEngine w0 = .s := by rw [wordEngine, show fld w0 30 2 = 0#2 from Field.zero (fs := [⟨27, t⟩, ⟨21, 24#6⟩, ⟨9, a⟩, ⟨0, 6#9⟩]) (Option.some.inj h0).symm rfl 30 2 rfl]; rfl
  refine decodeWord_of .s he ?_ hf0
  show decodeS w0 = _
  unfold decodeS
  rw [show wordOp w0 = 24 from congrArg BitVec.toNat (g0 1 rfl)]
  refine (if_neg ?_).trans ?_
  · exact fun h1 => absurd h1.2 (fun e => absurd ((show fld w0 0 9 = 6#9 from g0 3 rfl).symm.trans e) (by decide))
  refine (if_neg ?_).trans ?_
  · exact fun h1 => absurd h1.2 (fun e => absurd ((show fld w0 0 9 = 6#9 from g0 3 rfl).symm.trans e) (by decide))
  refine (if_pos ?_).trans ?_
  · exact ⟨Field.zero (fs := [⟨27, t⟩, ⟨21, 24#6⟩, ⟨9, a⟩, ⟨0, 6#9⟩]) (Option.some.inj h0).symm rfl 15 6 rfl, g0 3 rfl⟩
  show (Except.ok (.crwFpflags (fld w0 27 3) (fld w0 9 6)) : Except Reject Instr) = _
  rw [show fld w0 27 3 = t from g0 0 rfl, show fld w0 9 6 = a from g0 2 rfl]

theorem RoundTrip.crwIen (t : BitVec 3) (a : BitVec 6) : RoundTrip.Statement (.crwIen t a) := by
  intro w0 h0 hf0
  have g0 {x : Field} := @Field.get w0 [⟨27, t⟩, ⟨21, 24#6⟩, ⟨9, a⟩, ⟨0, 16#9⟩] (Option.some.inj h0).symm rfl x
  have he : wordEngine w0 = .s := by rw [wordEngine, show fld w0 30 2 = 0#2 from Field.zero (fs := [⟨27, t⟩, ⟨21, 24#6⟩, ⟨9, a⟩, ⟨0, 16#9⟩]) (Option.some.inj h0).symm rfl 30 2 rfl]; rfl
  refine decodeWord_of .s he ?_ hf0
  show decodeS w0 = _
  unfold decodeS
  rw [show wordOp w0 = 24 from congrArg BitVec.toNat (g0 1 rfl)]
  refine (if_neg ?_).trans ?_
  · exact fun h1 => absurd h1.2 (fun e => absurd ((show fld w0 0 9 = 16#9 from g0 3 rfl).symm.trans e) (by decide))
  refine (if_neg ?_).trans ?_
  · exact fun h1 => absurd h1.2 (fun e => absurd ((show fld w0 0 9 = 16#9 from g0 3 rfl).symm.trans e) (by decide))
  refine (if_neg ?_).trans ?_
  · exact fun h1 => absurd h1.2 (fun e => absurd ((show fld w0 0 9 = 16#9 from g0 3 rfl).symm.trans e) (by decide))
  refine (if_pos ?_).trans ?_
  · exact ⟨Field.zero (fs := [⟨27, t⟩, ⟨21, 24#6⟩, ⟨9, a⟩, ⟨0, 16#9⟩]) (Option.some.inj h0).symm rfl 15 6 rfl, g0 3 rfl⟩
  show (Except.ok (.crwIen (fld w0 27 3) (fld w0 9 6)) : Except Reject Instr) = _
  rw [show fld w0 27 3 = t from g0 0 rfl, show fld w0 9 6 = a from g0 2 rfl]

theorem RoundTrip.trap (t : BitVec 3) (i : BitVec 9) : RoundTrip.Statement (.trap t i) := by
  intro w0 h0 hf0
  have g0 {x : Field} := @Field.get w0 [⟨27, t⟩, ⟨21, 25#6⟩, ⟨0, i⟩] (Option.some.inj h0).symm rfl x
  have he : wordEngine w0 = .s := by rw [wordEngine, show fld w0 30 2 = 0#2 from Field.zero (fs := [⟨27, t⟩, ⟨21, 25#6⟩, ⟨0, i⟩]) (Option.some.inj h0).symm rfl 30 2 rfl]; rfl
  refine decodeWord_of .s he ?_ hf0
  show decodeS w0 = _
  unfold decodeS
  rw [show wordOp w0 = 25 from congrArg BitVec.toNat (g0 1 rfl)]
  refine (if_pos ?_).trans ?_
  · exact Field.zero (fs := [⟨27, t⟩, ⟨21, 25#6⟩, ⟨0, i⟩]) (Option.some.inj h0).symm rfl 9 12 rfl
  show (Except.ok (.trap (fld w0 27 3) (fld w0 0 9)) : Except Reject Instr) = _
  rw [show fld w0 27 3 = t from g0 0 rfl, show fld w0 0 9 = i from g0 2 rfl]

theorem RoundTrip.nop (t : BitVec 3) : RoundTrip.Statement (.nop t) := by
  intro w0 h0 hf0
  have g0 {x : Field} := @Field.get w0 [⟨27, t⟩, ⟨21, 26#6⟩] (Option.some.inj h0).symm rfl x
  have he : wordEngine w0 = .s := by rw [wordEngine, show fld w0 30 2 = 0#2 from Field.zero (fs := [⟨27, t⟩, ⟨21, 26#6⟩]) (Option.some.inj h0).symm rfl 30 2 rfl]; rfl
  refine decodeWord_of .s he ?_ hf0
  show decodeS w0 = _
  unfold decodeS
  rw [show wordOp w0 = 26 from congrArg BitVec.toNat (g0 1 rfl)]
  refine (if_pos ?_).trans ?_
  · exact Field.zero (fs := [⟨27, t⟩, ⟨21, 26#6⟩]) (Option.some.inj h0).symm rfl 0 21 rfl
  show (Except.ok (.nop (fld w0 27 3)) : Except Reject Instr) = _
  rw [show fld w0 27 3 = t from g0 0 rfl]

theorem RoundTrip.tret (t : BitVec 3) : RoundTrip.Statement (.tret t) := by
  intro w0 h0 hf0
  have g0 {x : Field} := @Field.get w0 [⟨27, t⟩, ⟨21, 26#6⟩, ⟨0, 1#21⟩] (Option.some.inj h0).symm rfl x
  have he : wordEngine w0 = .s := by rw [wordEngine, show fld w0 30 2 = 0#2 from Field.zero (fs := [⟨27, t⟩, ⟨21, 26#6⟩, ⟨0, 1#21⟩]) (Option.some.inj h0).symm rfl 30 2 rfl]; rfl
  refine decodeWord_of .s he ?_ hf0
  show decodeS w0 = _
  unfold decodeS
  rw [show wordOp w0 = 26 from congrArg BitVec.toNat (g0 1 rfl)]
  refine (if_neg ?_).trans ?_
  · exact fun h1 => absurd h1 (fun e => absurd ((show fld w0 0 21 = 1#21 from g0 2 rfl).symm.trans e) (by decide))
  refine (if_pos ?_).trans ?_
  · exact g0 2 rfl
  show (Except.ok (.tret (fld w0 27 3)) : Except Reject Instr) = _
  rw [show fld w0 27 3 = t from g0 0 rfl]

theorem RoundTrip.halt (t : BitVec 3) : RoundTrip.Statement (.halt t) := by
  intro w0 h0 hf0
  have g0 {x : Field} := @Field.get w0 [⟨27, t⟩, ⟨21, 26#6⟩, ⟨0, 2#21⟩] (Option.some.inj h0).symm rfl x
  have he : wordEngine w0 = .s := by rw [wordEngine, show fld w0 30 2 = 0#2 from Field.zero (fs := [⟨27, t⟩, ⟨21, 26#6⟩, ⟨0, 2#21⟩]) (Option.some.inj h0).symm rfl 30 2 rfl]; rfl
  refine decodeWord_of .s he ?_ hf0
  show decodeS w0 = _
  unfold decodeS
  rw [show wordOp w0 = 26 from congrArg BitVec.toNat (g0 1 rfl)]
  refine (if_neg ?_).trans ?_
  · exact fun h1 => absurd h1 (fun e => absurd ((show fld w0 0 21 = 2#21 from g0 2 rfl).symm.trans e) (by decide))
  refine (if_neg ?_).trans ?_
  · exact fun h1 => absurd h1 (fun e => absurd ((show fld w0 0 21 = 2#21 from g0 2 rfl).symm.trans e) (by decide))
  refine (if_pos ?_).trans ?_
  · exact g0 2 rfl
  show (Except.ok (.halt (fld w0 27 3)) : Except Reject Instr) = _
  rw [show fld w0 27 3 = t from g0 0 rfl]

theorem RoundTrip.pause (t : BitVec 3) : RoundTrip.Statement (.pause t) := by
  intro w0 h0 hf0
  have g0 {x : Field} := @Field.get w0 [⟨27, t⟩, ⟨21, 26#6⟩, ⟨0, 3#21⟩] (Option.some.inj h0).symm rfl x
  have he : wordEngine w0 = .s := by rw [wordEngine, show fld w0 30 2 = 0#2 from Field.zero (fs := [⟨27, t⟩, ⟨21, 26#6⟩, ⟨0, 3#21⟩]) (Option.some.inj h0).symm rfl 30 2 rfl]; rfl
  refine decodeWord_of .s he ?_ hf0
  show decodeS w0 = _
  unfold decodeS
  rw [show wordOp w0 = 26 from congrArg BitVec.toNat (g0 1 rfl)]
  refine (if_neg ?_).trans ?_
  · exact fun h1 => absurd h1 (fun e => absurd ((show fld w0 0 21 = 3#21 from g0 2 rfl).symm.trans e) (by decide))
  refine (if_neg ?_).trans ?_
  · exact fun h1 => absurd h1 (fun e => absurd ((show fld w0 0 21 = 3#21 from g0 2 rfl).symm.trans e) (by decide))
  refine (if_neg ?_).trans ?_
  · exact fun h1 => absurd h1 (fun e => absurd ((show fld w0 0 21 = 3#21 from g0 2 rfl).symm.trans e) (by decide))
  refine (if_pos ?_).trans ?_
  · exact g0 2 rfl
  show (Except.ok (.pause (fld w0 27 3)) : Except Reject Instr) = _
  rw [show fld w0 27 3 = t from g0 0 rfl]

theorem RoundTrip.twait (t : BitVec 3) (m : BitVec 3) : RoundTrip.Statement (.twait t m) := by
  intro w0 h0 hf0
  have g0 {x : Field} := @Field.get w0 [⟨27, t⟩, ⟨21, 27#6⟩, ⟨0, m⟩] (Option.some.inj h0).symm rfl x
  have he : wordEngine w0 = .s := by rw [wordEngine, show fld w0 30 2 = 0#2 from Field.zero (fs := [⟨27, t⟩, ⟨21, 27#6⟩, ⟨0, m⟩]) (Option.some.inj h0).symm rfl 30 2 rfl]; rfl
  refine decodeWord_of .s he ?_ hf0
  show decodeS w0 = _
  unfold decodeS
  rw [show wordOp w0 = 27 from congrArg BitVec.toNat (g0 1 rfl)]
  refine (if_pos ?_).trans ?_
  · exact Field.zero (fs := [⟨27, t⟩, ⟨21, 27#6⟩, ⟨0, m⟩]) (Option.some.inj h0).symm rfl 3 18 rfl
  show (Except.ok (.twait (fld w0 27 3) (fld w0 0 3)) : Except Reject Instr) = _
  rw [show fld w0 27 3 = t from g0 0 rfl, show fld w0 0 3 = m from g0 2 rfl]

theorem RoundTrip.tsig (t : BitVec 3) (m : BitVec 3) : RoundTrip.Statement (.tsig t m) := by
  intro w0 h0 hf0
  have g0 {x : Field} := @Field.get w0 [⟨27, t⟩, ⟨21, 27#6⟩, ⟨3, 32#18⟩, ⟨0, m⟩] (Option.some.inj h0).symm rfl x
  have he : wordEngine w0 = .s := by rw [wordEngine, show fld w0 30 2 = 0#2 from Field.zero (fs := [⟨27, t⟩, ⟨21, 27#6⟩, ⟨3, 32#18⟩, ⟨0, m⟩]) (Option.some.inj h0).symm rfl 30 2 rfl]; rfl
  refine decodeWord_of .s he ?_ hf0
  show decodeS w0 = _
  unfold decodeS
  rw [show wordOp w0 = 27 from congrArg BitVec.toNat (g0 1 rfl)]
  refine (if_neg ?_).trans ?_
  · exact fun h1 => absurd h1 (fun e => absurd ((show fld w0 3 18 = 32#18 from g0 2 rfl).symm.trans e) (by decide))
  refine (if_pos ?_).trans ?_
  · exact g0 2 rfl
  show (Except.ok (.tsig (fld w0 27 3) (fld w0 0 3)) : Except Reject Instr) = _
  rw [show fld w0 27 3 = t from g0 0 rfl, show fld w0 0 3 = m from g0 3 rfl]

theorem RoundTrip.scfg (t : BitVec 3) (q : BitVec 4) (a : BitVec 6) (f : BitVec 9) : RoundTrip.Statement (.scfg t q a f) := by
  intro w0 h0 hf0
  have g0 {x : Field} := @Field.get w0 [⟨27, t⟩, ⟨21, 28#6⟩, ⟨15, q⟩, ⟨9, a⟩, ⟨0, f⟩] (Option.some.inj h0).symm rfl x
  have he : wordEngine w0 = .s := by rw [wordEngine, show fld w0 30 2 = 0#2 from Field.zero (fs := [⟨27, t⟩, ⟨21, 28#6⟩, ⟨15, q⟩, ⟨9, a⟩, ⟨0, f⟩]) (Option.some.inj h0).symm rfl 30 2 rfl]; rfl
  refine decodeWord_of .s he ?_ hf0
  show decodeS w0 = _
  unfold decodeS
  rw [show wordOp w0 = 28 from congrArg BitVec.toNat (g0 1 rfl)]
  refine (if_pos ?_).trans ?_
  · exact Field.zero (fs := [⟨27, t⟩, ⟨21, 28#6⟩, ⟨15, q⟩, ⟨9, a⟩, ⟨0, f⟩]) (Option.some.inj h0).symm rfl 19 2 rfl
  show (Except.ok (.scfg (fld w0 27 3) (fld w0 15 4) (fld w0 9 6) (fld w0 0 9)) : Except Reject Instr) = _
  rw [show fld w0 27 3 = t from g0 0 rfl, show fld w0 15 4 = q from g0 2 rfl, show fld w0 9 6 = a from g0 3 rfl, show fld w0 0 9 = f from g0 4 rfl]

theorem RoundTrip.ncfg (t : BitVec 3) (a : BitVec 6) (l : BitVec 3) : RoundTrip.Statement (.ncfg t a l) := by
  intro w0 h0 hf0
  have g0 {x : Field} := @Field.get w0 [⟨27, t⟩, ⟨21, 29#6⟩, ⟨9, a⟩, ⟨6, l⟩] (Option.some.inj h0).symm rfl x
  have he : wordEngine w0 = .s := by rw [wordEngine, show fld w0 30 2 = 0#2 from Field.zero (fs := [⟨27, t⟩, ⟨21, 29#6⟩, ⟨9, a⟩, ⟨6, l⟩]) (Option.some.inj h0).symm rfl 30 2 rfl]; rfl
  refine decodeWord_of .s he ?_ hf0
  show decodeS w0 = _
  unfold decodeS
  rw [show wordOp w0 = 29 from congrArg BitVec.toNat (g0 1 rfl)]
  refine (if_pos ?_).trans ?_
  · exact ⟨Field.zero (fs := [⟨27, t⟩, ⟨21, 29#6⟩, ⟨9, a⟩, ⟨6, l⟩]) (Option.some.inj h0).symm rfl 15 6 rfl, Field.zero (fs := [⟨27, t⟩, ⟨21, 29#6⟩, ⟨9, a⟩, ⟨6, l⟩]) (Option.some.inj h0).symm rfl 0 6 rfl⟩
  show (Except.ok (.ncfg (fld w0 27 3) (fld w0 9 6) (fld w0 6 3)) : Except Reject Instr) = _
  rw [show fld w0 27 3 = t from g0 0 rfl, show fld w0 9 6 = a from g0 2 rfl, show fld w0 6 3 = l from g0 3 rfl]

theorem RoundTrip.nmaskFirst (t : BitVec 3) (a : BitVec 6) (l : BitVec 3) : RoundTrip.Statement (.nmaskFirst t a l) := by
  intro w0 h0 hf0
  have g0 {x : Field} := @Field.get w0 [⟨27, t⟩, ⟨21, 30#6⟩, ⟨9, a⟩, ⟨6, l⟩] (Option.some.inj h0).symm rfl x
  have he : wordEngine w0 = .s := by rw [wordEngine, show fld w0 30 2 = 0#2 from Field.zero (fs := [⟨27, t⟩, ⟨21, 30#6⟩, ⟨9, a⟩, ⟨6, l⟩]) (Option.some.inj h0).symm rfl 30 2 rfl]; rfl
  refine decodeWord_of .s he ?_ hf0
  show decodeS w0 = _
  unfold decodeS
  rw [show wordOp w0 = 30 from congrArg BitVec.toNat (g0 1 rfl)]
  refine (if_pos ?_).trans ?_
  · exact ⟨Field.zero (fs := [⟨27, t⟩, ⟨21, 30#6⟩, ⟨9, a⟩, ⟨6, l⟩]) (Option.some.inj h0).symm rfl 15 6 rfl, Field.zero (fs := [⟨27, t⟩, ⟨21, 30#6⟩, ⟨9, a⟩, ⟨6, l⟩]) (Option.some.inj h0).symm rfl 0 6 rfl⟩
  show (Except.ok (.nmaskFirst (fld w0 27 3) (fld w0 9 6) (fld w0 6 3)) : Except Reject Instr) = _
  rw [show fld w0 27 3 = t from g0 0 rfl, show fld w0 9 6 = a from g0 2 rfl, show fld w0 6 3 = l from g0 3 rfl]

theorem RoundTrip.nmaskLast (t : BitVec 3) (a : BitVec 6) (l : BitVec 3) : RoundTrip.Statement (.nmaskLast t a l) := by
  intro w0 h0 hf0
  have g0 {x : Field} := @Field.get w0 [⟨27, t⟩, ⟨21, 30#6⟩, ⟨9, a⟩, ⟨6, l⟩, ⟨0, 1#6⟩] (Option.some.inj h0).symm rfl x
  have he : wordEngine w0 = .s := by rw [wordEngine, show fld w0 30 2 = 0#2 from Field.zero (fs := [⟨27, t⟩, ⟨21, 30#6⟩, ⟨9, a⟩, ⟨6, l⟩, ⟨0, 1#6⟩]) (Option.some.inj h0).symm rfl 30 2 rfl]; rfl
  refine decodeWord_of .s he ?_ hf0
  show decodeS w0 = _
  unfold decodeS
  rw [show wordOp w0 = 30 from congrArg BitVec.toNat (g0 1 rfl)]
  refine (if_neg ?_).trans ?_
  · exact fun h1 => absurd h1.2 (fun e => absurd ((show fld w0 0 6 = 1#6 from g0 4 rfl).symm.trans e) (by decide))
  refine (if_pos ?_).trans ?_
  · exact ⟨Field.zero (fs := [⟨27, t⟩, ⟨21, 30#6⟩, ⟨9, a⟩, ⟨6, l⟩, ⟨0, 1#6⟩]) (Option.some.inj h0).symm rfl 15 6 rfl, g0 4 rfl⟩
  show (Except.ok (.nmaskLast (fld w0 27 3) (fld w0 9 6) (fld w0 6 3)) : Except Reject Instr) = _
  rw [show fld w0 27 3 = t from g0 0 rfl, show fld w0 9 6 = a from g0 2 rfl, show fld w0 6 3 = l from g0 3 rfl]

theorem RoundTrip.nest (t : BitVec 3) (r : BitVec 6) (i : BitVec 6) (s : BitVec 1) : RoundTrip.Statement (.nest t r i s) := by
  intro w0 h0 hf0
  have g0 {x : Field} := @Field.get w0 [⟨27, t⟩, ⟨21, 31#6⟩, ⟨15, r⟩, ⟨9, i⟩, ⟨8, s⟩] (Option.some.inj h0).symm rfl x
  have he : wordEngine w0 = .s := by rw [wordEngine, show fld w0 30 2 = 0#2 from Field.zero (fs := [⟨27, t⟩, ⟨21, 31#6⟩, ⟨15, r⟩, ⟨9, i⟩, ⟨8, s⟩]) (Option.some.inj h0).symm rfl 30 2 rfl]; rfl
  refine decodeWord_of .s he ?_ hf0
  show decodeS w0 = _
  unfold decodeS
  rw [show wordOp w0 = 31 from congrArg BitVec.toNat (g0 1 rfl)]
  refine (if_pos ?_).trans ?_
  · exact Field.zero (fs := [⟨27, t⟩, ⟨21, 31#6⟩, ⟨15, r⟩, ⟨9, i⟩, ⟨8, s⟩]) (Option.some.inj h0).symm rfl 0 8 rfl
  show (Except.ok (.nest (fld w0 27 3) (fld w0 15 6) (fld w0 9 6) (fld w0 8 1)) : Except Reject Instr) = _
  rw [show fld w0 27 3 = t from g0 0 rfl, show fld w0 15 6 = r from g0 2 rfl, show fld w0 9 6 = i from g0 3 rfl, show fld w0 8 1 = s from g0 4 rfl]

theorem RoundTrip.ldb (t : BitVec 3) (d : BitVec 6) (a : BitVec 6) (h : BitVec 4) (i : BitVec 5) : RoundTrip.Statement (.ldb t d a h i) := by
  intro w0 h0 hf0
  have g0 {x : Field} := @Field.get w0 [⟨27, t⟩, ⟨21, 32#6⟩, ⟨15, d⟩, ⟨9, a⟩, ⟨5, h⟩, ⟨0, i⟩] (Option.some.inj h0).symm rfl x
  have he : wordEngine w0 = .s := by rw [wordEngine, show fld w0 30 2 = 0#2 from Field.zero (fs := [⟨27, t⟩, ⟨21, 32#6⟩, ⟨15, d⟩, ⟨9, a⟩, ⟨5, h⟩, ⟨0, i⟩]) (Option.some.inj h0).symm rfl 30 2 rfl]; rfl
  refine decodeWord_of .s he ?_ hf0
  show decodeS w0 = _
  unfold decodeS
  rw [show wordOp w0 = 32 from congrArg BitVec.toNat (g0 1 rfl)]
  show (Except.ok (.ldb (fld w0 27 3) (fld w0 15 6) (fld w0 9 6) (fld w0 5 4) (fld w0 0 5)) : Except Reject Instr) = _
  rw [show fld w0 27 3 = t from g0 0 rfl, show fld w0 15 6 = d from g0 2 rfl, show fld w0 9 6 = a from g0 3 rfl, show fld w0 5 4 = h from g0 4 rfl, show fld w0 0 5 = i from g0 5 rfl]

theorem RoundTrip.ldbu (t : BitVec 3) (d : BitVec 6) (a : BitVec 6) (h : BitVec 4) (i : BitVec 5) : RoundTrip.Statement (.ldbu t d a h i) := by
  intro w0 h0 hf0
  have g0 {x : Field} := @Field.get w0 [⟨27, t⟩, ⟨21, 33#6⟩, ⟨15, d⟩, ⟨9, a⟩, ⟨5, h⟩, ⟨0, i⟩] (Option.some.inj h0).symm rfl x
  have he : wordEngine w0 = .s := by rw [wordEngine, show fld w0 30 2 = 0#2 from Field.zero (fs := [⟨27, t⟩, ⟨21, 33#6⟩, ⟨15, d⟩, ⟨9, a⟩, ⟨5, h⟩, ⟨0, i⟩]) (Option.some.inj h0).symm rfl 30 2 rfl]; rfl
  refine decodeWord_of .s he ?_ hf0
  show decodeS w0 = _
  unfold decodeS
  rw [show wordOp w0 = 33 from congrArg BitVec.toNat (g0 1 rfl)]
  show (Except.ok (.ldbu (fld w0 27 3) (fld w0 15 6) (fld w0 9 6) (fld w0 5 4) (fld w0 0 5)) : Except Reject Instr) = _
  rw [show fld w0 27 3 = t from g0 0 rfl, show fld w0 15 6 = d from g0 2 rfl, show fld w0 9 6 = a from g0 3 rfl, show fld w0 5 4 = h from g0 4 rfl, show fld w0 0 5 = i from g0 5 rfl]

theorem RoundTrip.ldh (t : BitVec 3) (d : BitVec 6) (a : BitVec 6) (h : BitVec 4) (i : BitVec 5) : RoundTrip.Statement (.ldh t d a h i) := by
  intro w0 h0 hf0
  have g0 {x : Field} := @Field.get w0 [⟨27, t⟩, ⟨21, 34#6⟩, ⟨15, d⟩, ⟨9, a⟩, ⟨5, h⟩, ⟨0, i⟩] (Option.some.inj h0).symm rfl x
  have he : wordEngine w0 = .s := by rw [wordEngine, show fld w0 30 2 = 0#2 from Field.zero (fs := [⟨27, t⟩, ⟨21, 34#6⟩, ⟨15, d⟩, ⟨9, a⟩, ⟨5, h⟩, ⟨0, i⟩]) (Option.some.inj h0).symm rfl 30 2 rfl]; rfl
  refine decodeWord_of .s he ?_ hf0
  show decodeS w0 = _
  unfold decodeS
  rw [show wordOp w0 = 34 from congrArg BitVec.toNat (g0 1 rfl)]
  show (Except.ok (.ldh (fld w0 27 3) (fld w0 15 6) (fld w0 9 6) (fld w0 5 4) (fld w0 0 5)) : Except Reject Instr) = _
  rw [show fld w0 27 3 = t from g0 0 rfl, show fld w0 15 6 = d from g0 2 rfl, show fld w0 9 6 = a from g0 3 rfl, show fld w0 5 4 = h from g0 4 rfl, show fld w0 0 5 = i from g0 5 rfl]

theorem RoundTrip.ldhu (t : BitVec 3) (d : BitVec 6) (a : BitVec 6) (h : BitVec 4) (i : BitVec 5) : RoundTrip.Statement (.ldhu t d a h i) := by
  intro w0 h0 hf0
  have g0 {x : Field} := @Field.get w0 [⟨27, t⟩, ⟨21, 35#6⟩, ⟨15, d⟩, ⟨9, a⟩, ⟨5, h⟩, ⟨0, i⟩] (Option.some.inj h0).symm rfl x
  have he : wordEngine w0 = .s := by rw [wordEngine, show fld w0 30 2 = 0#2 from Field.zero (fs := [⟨27, t⟩, ⟨21, 35#6⟩, ⟨15, d⟩, ⟨9, a⟩, ⟨5, h⟩, ⟨0, i⟩]) (Option.some.inj h0).symm rfl 30 2 rfl]; rfl
  refine decodeWord_of .s he ?_ hf0
  show decodeS w0 = _
  unfold decodeS
  rw [show wordOp w0 = 35 from congrArg BitVec.toNat (g0 1 rfl)]
  show (Except.ok (.ldhu (fld w0 27 3) (fld w0 15 6) (fld w0 9 6) (fld w0 5 4) (fld w0 0 5)) : Except Reject Instr) = _
  rw [show fld w0 27 3 = t from g0 0 rfl, show fld w0 15 6 = d from g0 2 rfl, show fld w0 9 6 = a from g0 3 rfl, show fld w0 5 4 = h from g0 4 rfl, show fld w0 0 5 = i from g0 5 rfl]

theorem RoundTrip.ldw (t : BitVec 3) (d : BitVec 6) (a : BitVec 6) (h : BitVec 4) (i : BitVec 5) : RoundTrip.Statement (.ldw t d a h i) := by
  intro w0 h0 hf0
  have g0 {x : Field} := @Field.get w0 [⟨27, t⟩, ⟨21, 36#6⟩, ⟨15, d⟩, ⟨9, a⟩, ⟨5, h⟩, ⟨0, i⟩] (Option.some.inj h0).symm rfl x
  have he : wordEngine w0 = .s := by rw [wordEngine, show fld w0 30 2 = 0#2 from Field.zero (fs := [⟨27, t⟩, ⟨21, 36#6⟩, ⟨15, d⟩, ⟨9, a⟩, ⟨5, h⟩, ⟨0, i⟩]) (Option.some.inj h0).symm rfl 30 2 rfl]; rfl
  refine decodeWord_of .s he ?_ hf0
  show decodeS w0 = _
  unfold decodeS
  rw [show wordOp w0 = 36 from congrArg BitVec.toNat (g0 1 rfl)]
  show (Except.ok (.ldw (fld w0 27 3) (fld w0 15 6) (fld w0 9 6) (fld w0 5 4) (fld w0 0 5)) : Except Reject Instr) = _
  rw [show fld w0 27 3 = t from g0 0 rfl, show fld w0 15 6 = d from g0 2 rfl, show fld w0 9 6 = a from g0 3 rfl, show fld w0 5 4 = h from g0 4 rfl, show fld w0 0 5 = i from g0 5 rfl]

theorem RoundTrip.ldwu (t : BitVec 3) (d : BitVec 6) (a : BitVec 6) (h : BitVec 4) (i : BitVec 5) : RoundTrip.Statement (.ldwu t d a h i) := by
  intro w0 h0 hf0
  have g0 {x : Field} := @Field.get w0 [⟨27, t⟩, ⟨21, 37#6⟩, ⟨15, d⟩, ⟨9, a⟩, ⟨5, h⟩, ⟨0, i⟩] (Option.some.inj h0).symm rfl x
  have he : wordEngine w0 = .s := by rw [wordEngine, show fld w0 30 2 = 0#2 from Field.zero (fs := [⟨27, t⟩, ⟨21, 37#6⟩, ⟨15, d⟩, ⟨9, a⟩, ⟨5, h⟩, ⟨0, i⟩]) (Option.some.inj h0).symm rfl 30 2 rfl]; rfl
  refine decodeWord_of .s he ?_ hf0
  show decodeS w0 = _
  unfold decodeS
  rw [show wordOp w0 = 37 from congrArg BitVec.toNat (g0 1 rfl)]
  show (Except.ok (.ldwu (fld w0 27 3) (fld w0 15 6) (fld w0 9 6) (fld w0 5 4) (fld w0 0 5)) : Except Reject Instr) = _
  rw [show fld w0 27 3 = t from g0 0 rfl, show fld w0 15 6 = d from g0 2 rfl, show fld w0 9 6 = a from g0 3 rfl, show fld w0 5 4 = h from g0 4 rfl, show fld w0 0 5 = i from g0 5 rfl]

theorem RoundTrip.ldd (t : BitVec 3) (d : BitVec 6) (a : BitVec 6) (h : BitVec 4) (i : BitVec 5) : RoundTrip.Statement (.ldd t d a h i) := by
  intro w0 h0 hf0
  have g0 {x : Field} := @Field.get w0 [⟨27, t⟩, ⟨21, 38#6⟩, ⟨15, d⟩, ⟨9, a⟩, ⟨5, h⟩, ⟨0, i⟩] (Option.some.inj h0).symm rfl x
  have he : wordEngine w0 = .s := by rw [wordEngine, show fld w0 30 2 = 0#2 from Field.zero (fs := [⟨27, t⟩, ⟨21, 38#6⟩, ⟨15, d⟩, ⟨9, a⟩, ⟨5, h⟩, ⟨0, i⟩]) (Option.some.inj h0).symm rfl 30 2 rfl]; rfl
  refine decodeWord_of .s he ?_ hf0
  show decodeS w0 = _
  unfold decodeS
  rw [show wordOp w0 = 38 from congrArg BitVec.toNat (g0 1 rfl)]
  show (Except.ok (.ldd (fld w0 27 3) (fld w0 15 6) (fld w0 9 6) (fld w0 5 4) (fld w0 0 5)) : Except Reject Instr) = _
  rw [show fld w0 27 3 = t from g0 0 rfl, show fld w0 15 6 = d from g0 2 rfl, show fld w0 9 6 = a from g0 3 rfl, show fld w0 5 4 = h from g0 4 rfl, show fld w0 0 5 = i from g0 5 rfl]

theorem RoundTrip.stb (t : BitVec 3) (d : BitVec 6) (a : BitVec 6) (h : BitVec 4) (i : BitVec 5) : RoundTrip.Statement (.stb t d a h i) := by
  intro w0 h0 hf0
  have g0 {x : Field} := @Field.get w0 [⟨27, t⟩, ⟨21, 39#6⟩, ⟨15, d⟩, ⟨9, a⟩, ⟨5, h⟩, ⟨0, i⟩] (Option.some.inj h0).symm rfl x
  have he : wordEngine w0 = .s := by rw [wordEngine, show fld w0 30 2 = 0#2 from Field.zero (fs := [⟨27, t⟩, ⟨21, 39#6⟩, ⟨15, d⟩, ⟨9, a⟩, ⟨5, h⟩, ⟨0, i⟩]) (Option.some.inj h0).symm rfl 30 2 rfl]; rfl
  refine decodeWord_of .s he ?_ hf0
  show decodeS w0 = _
  unfold decodeS
  rw [show wordOp w0 = 39 from congrArg BitVec.toNat (g0 1 rfl)]
  show (Except.ok (.stb (fld w0 27 3) (fld w0 15 6) (fld w0 9 6) (fld w0 5 4) (fld w0 0 5)) : Except Reject Instr) = _
  rw [show fld w0 27 3 = t from g0 0 rfl, show fld w0 15 6 = d from g0 2 rfl, show fld w0 9 6 = a from g0 3 rfl, show fld w0 5 4 = h from g0 4 rfl, show fld w0 0 5 = i from g0 5 rfl]

theorem RoundTrip.sth (t : BitVec 3) (d : BitVec 6) (a : BitVec 6) (h : BitVec 4) (i : BitVec 5) : RoundTrip.Statement (.sth t d a h i) := by
  intro w0 h0 hf0
  have g0 {x : Field} := @Field.get w0 [⟨27, t⟩, ⟨21, 40#6⟩, ⟨15, d⟩, ⟨9, a⟩, ⟨5, h⟩, ⟨0, i⟩] (Option.some.inj h0).symm rfl x
  have he : wordEngine w0 = .s := by rw [wordEngine, show fld w0 30 2 = 0#2 from Field.zero (fs := [⟨27, t⟩, ⟨21, 40#6⟩, ⟨15, d⟩, ⟨9, a⟩, ⟨5, h⟩, ⟨0, i⟩]) (Option.some.inj h0).symm rfl 30 2 rfl]; rfl
  refine decodeWord_of .s he ?_ hf0
  show decodeS w0 = _
  unfold decodeS
  rw [show wordOp w0 = 40 from congrArg BitVec.toNat (g0 1 rfl)]
  show (Except.ok (.sth (fld w0 27 3) (fld w0 15 6) (fld w0 9 6) (fld w0 5 4) (fld w0 0 5)) : Except Reject Instr) = _
  rw [show fld w0 27 3 = t from g0 0 rfl, show fld w0 15 6 = d from g0 2 rfl, show fld w0 9 6 = a from g0 3 rfl, show fld w0 5 4 = h from g0 4 rfl, show fld w0 0 5 = i from g0 5 rfl]

theorem RoundTrip.stw (t : BitVec 3) (d : BitVec 6) (a : BitVec 6) (h : BitVec 4) (i : BitVec 5) : RoundTrip.Statement (.stw t d a h i) := by
  intro w0 h0 hf0
  have g0 {x : Field} := @Field.get w0 [⟨27, t⟩, ⟨21, 41#6⟩, ⟨15, d⟩, ⟨9, a⟩, ⟨5, h⟩, ⟨0, i⟩] (Option.some.inj h0).symm rfl x
  have he : wordEngine w0 = .s := by rw [wordEngine, show fld w0 30 2 = 0#2 from Field.zero (fs := [⟨27, t⟩, ⟨21, 41#6⟩, ⟨15, d⟩, ⟨9, a⟩, ⟨5, h⟩, ⟨0, i⟩]) (Option.some.inj h0).symm rfl 30 2 rfl]; rfl
  refine decodeWord_of .s he ?_ hf0
  show decodeS w0 = _
  unfold decodeS
  rw [show wordOp w0 = 41 from congrArg BitVec.toNat (g0 1 rfl)]
  show (Except.ok (.stw (fld w0 27 3) (fld w0 15 6) (fld w0 9 6) (fld w0 5 4) (fld w0 0 5)) : Except Reject Instr) = _
  rw [show fld w0 27 3 = t from g0 0 rfl, show fld w0 15 6 = d from g0 2 rfl, show fld w0 9 6 = a from g0 3 rfl, show fld w0 5 4 = h from g0 4 rfl, show fld w0 0 5 = i from g0 5 rfl]

theorem RoundTrip.std (t : BitVec 3) (d : BitVec 6) (a : BitVec 6) (h : BitVec 4) (i : BitVec 5) : RoundTrip.Statement (.std t d a h i) := by
  intro w0 h0 hf0
  have g0 {x : Field} := @Field.get w0 [⟨27, t⟩, ⟨21, 42#6⟩, ⟨15, d⟩, ⟨9, a⟩, ⟨5, h⟩, ⟨0, i⟩] (Option.some.inj h0).symm rfl x
  have he : wordEngine w0 = .s := by rw [wordEngine, show fld w0 30 2 = 0#2 from Field.zero (fs := [⟨27, t⟩, ⟨21, 42#6⟩, ⟨15, d⟩, ⟨9, a⟩, ⟨5, h⟩, ⟨0, i⟩]) (Option.some.inj h0).symm rfl 30 2 rfl]; rfl
  refine decodeWord_of .s he ?_ hf0
  show decodeS w0 = _
  unfold decodeS
  rw [show wordOp w0 = 42 from congrArg BitVec.toNat (g0 1 rfl)]
  show (Except.ok (.std (fld w0 27 3) (fld w0 15 6) (fld w0 9 6) (fld w0 5 4) (fld w0 0 5)) : Except Reject Instr) = _
  rw [show fld w0 27 3 = t from g0 0 rfl, show fld w0 15 6 = d from g0 2 rfl, show fld w0 9 6 = a from g0 3 rfl, show fld w0 5 4 = h from g0 4 rfl, show fld w0 0 5 = i from g0 5 rfl]

theorem RoundTrip.lds (t : BitVec 3) (d : BitVec 6) (a : BitVec 6) (i : BitVec 9) : RoundTrip.Statement (.lds t d a i) := by
  intro w0 h0 hf0
  have g0 {x : Field} := @Field.get w0 [⟨27, t⟩, ⟨21, 43#6⟩, ⟨15, d⟩, ⟨9, a⟩, ⟨0, i⟩] (Option.some.inj h0).symm rfl x
  have he : wordEngine w0 = .s := by rw [wordEngine, show fld w0 30 2 = 0#2 from Field.zero (fs := [⟨27, t⟩, ⟨21, 43#6⟩, ⟨15, d⟩, ⟨9, a⟩, ⟨0, i⟩]) (Option.some.inj h0).symm rfl 30 2 rfl]; rfl
  refine decodeWord_of .s he ?_ hf0
  show decodeS w0 = _
  unfold decodeS
  rw [show wordOp w0 = 43 from congrArg BitVec.toNat (g0 1 rfl)]
  show (Except.ok (.lds (fld w0 27 3) (fld w0 15 6) (fld w0 9 6) (fld w0 0 9)) : Except Reject Instr) = _
  rw [show fld w0 27 3 = t from g0 0 rfl, show fld w0 15 6 = d from g0 2 rfl, show fld w0 9 6 = a from g0 3 rfl, show fld w0 0 9 = i from g0 4 rfl]

theorem RoundTrip.sts (t : BitVec 3) (d : BitVec 6) (a : BitVec 6) (i : BitVec 9) : RoundTrip.Statement (.sts t d a i) := by
  intro w0 h0 hf0
  have g0 {x : Field} := @Field.get w0 [⟨27, t⟩, ⟨21, 44#6⟩, ⟨15, d⟩, ⟨9, a⟩, ⟨0, i⟩] (Option.some.inj h0).symm rfl x
  have he : wordEngine w0 = .s := by rw [wordEngine, show fld w0 30 2 = 0#2 from Field.zero (fs := [⟨27, t⟩, ⟨21, 44#6⟩, ⟨15, d⟩, ⟨9, a⟩, ⟨0, i⟩]) (Option.some.inj h0).symm rfl 30 2 rfl]; rfl
  refine decodeWord_of .s he ?_ hf0
  show decodeS w0 = _
  unfold decodeS
  rw [show wordOp w0 = 44 from congrArg BitVec.toNat (g0 1 rfl)]
  show (Except.ok (.sts (fld w0 27 3) (fld w0 15 6) (fld w0 9 6) (fld w0 0 9)) : Except Reject Instr) = _
  rw [show fld w0 27 3 = t from g0 0 rfl, show fld w0 15 6 = d from g0 2 rfl, show fld w0 9 6 = a from g0 3 rfl, show fld w0 0 9 = i from g0 4 rfl]

theorem RoundTrip.lda (t : BitVec 3) (d : BitVec 6) (a : BitVec 6) (h : BitVec 4) (w : BitVec 1) (c : BitVec 2) (q : BitVec 1) : RoundTrip.Statement (.lda t d a h w c q) := by
  intro w0 h0 hf0
  have g0 {x : Field} := @Field.get w0 [⟨27, t⟩, ⟨21, 45#6⟩, ⟨15, d⟩, ⟨9, a⟩, ⟨5, h⟩, ⟨4, w⟩, ⟨2, c⟩, ⟨1, q⟩] (Option.some.inj h0).symm rfl x
  have he : wordEngine w0 = .s := by rw [wordEngine, show fld w0 30 2 = 0#2 from Field.zero (fs := [⟨27, t⟩, ⟨21, 45#6⟩, ⟨15, d⟩, ⟨9, a⟩, ⟨5, h⟩, ⟨4, w⟩, ⟨2, c⟩, ⟨1, q⟩]) (Option.some.inj h0).symm rfl 30 2 rfl]; rfl
  refine decodeWord_of .s he ?_ hf0
  show decodeS w0 = _
  unfold decodeS
  rw [show wordOp w0 = 45 from congrArg BitVec.toNat (g0 1 rfl)]
  refine (if_pos ?_).trans ?_
  · exact Field.zero (fs := [⟨27, t⟩, ⟨21, 45#6⟩, ⟨15, d⟩, ⟨9, a⟩, ⟨5, h⟩, ⟨4, w⟩, ⟨2, c⟩, ⟨1, q⟩]) (Option.some.inj h0).symm rfl 0 1 rfl
  show (Except.ok (.lda (fld w0 27 3) (fld w0 15 6) (fld w0 9 6) (fld w0 5 4) (fld w0 4 1) (fld w0 2 2) (fld w0 1 1)) : Except Reject Instr) = _
  rw [show fld w0 27 3 = t from g0 0 rfl, show fld w0 15 6 = d from g0 2 rfl, show fld w0 9 6 = a from g0 3 rfl, show fld w0 5 4 = h from g0 4 rfl, show fld w0 4 1 = w from g0 5 rfl, show fld w0 2 2 = c from g0 6 rfl, show fld w0 1 1 = q from g0 7 rfl]

theorem RoundTrip.stl (t : BitVec 3) (d : BitVec 6) (a : BitVec 6) (h : BitVec 4) (w : BitVec 1) (c : BitVec 2) (q : BitVec 1) : RoundTrip.Statement (.stl t d a h w c q) := by
  intro w0 h0 hf0
  have g0 {x : Field} := @Field.get w0 [⟨27, t⟩, ⟨21, 46#6⟩, ⟨15, d⟩, ⟨9, a⟩, ⟨5, h⟩, ⟨4, w⟩, ⟨2, c⟩, ⟨1, q⟩] (Option.some.inj h0).symm rfl x
  have he : wordEngine w0 = .s := by rw [wordEngine, show fld w0 30 2 = 0#2 from Field.zero (fs := [⟨27, t⟩, ⟨21, 46#6⟩, ⟨15, d⟩, ⟨9, a⟩, ⟨5, h⟩, ⟨4, w⟩, ⟨2, c⟩, ⟨1, q⟩]) (Option.some.inj h0).symm rfl 30 2 rfl]; rfl
  refine decodeWord_of .s he ?_ hf0
  show decodeS w0 = _
  unfold decodeS
  rw [show wordOp w0 = 46 from congrArg BitVec.toNat (g0 1 rfl)]
  refine (if_pos ?_).trans ?_
  · exact Field.zero (fs := [⟨27, t⟩, ⟨21, 46#6⟩, ⟨15, d⟩, ⟨9, a⟩, ⟨5, h⟩, ⟨4, w⟩, ⟨2, c⟩, ⟨1, q⟩]) (Option.some.inj h0).symm rfl 0 1 rfl
  show (Except.ok (.stl (fld w0 27 3) (fld w0 15 6) (fld w0 9 6) (fld w0 5 4) (fld w0 4 1) (fld w0 2 2) (fld w0 1 1)) : Except Reject Instr) = _
  rw [show fld w0 27 3 = t from g0 0 rfl, show fld w0 15 6 = d from g0 2 rfl, show fld w0 9 6 = a from g0 3 rfl, show fld w0 5 4 = h from g0 4 rfl, show fld w0 4 1 = w from g0 5 rfl, show fld w0 2 2 = c from g0 6 rfl, show fld w0 1 1 = q from g0 7 rfl]

theorem RoundTrip.amoadd (t : BitVec 3) (d : BitVec 6) (a : BitVec 6) (h : BitVec 3) (w : BitVec 1) (o : BitVec 1) (c : BitVec 2) : RoundTrip.Statement (.amoadd t d a h w o c) := by
  intro w0 h0 hf0
  have g0 {x : Field} := @Field.get w0 [⟨27, t⟩, ⟨21, 47#6⟩, ⟨15, d⟩, ⟨9, a⟩, ⟨6, h⟩, ⟨5, w⟩, ⟨4, o⟩, ⟨2, c⟩] (Option.some.inj h0).symm rfl x
  have he : wordEngine w0 = .s := by rw [wordEngine, show fld w0 30 2 = 0#2 from Field.zero (fs := [⟨27, t⟩, ⟨21, 47#6⟩, ⟨15, d⟩, ⟨9, a⟩, ⟨6, h⟩, ⟨5, w⟩, ⟨4, o⟩, ⟨2, c⟩]) (Option.some.inj h0).symm rfl 30 2 rfl]; rfl
  refine decodeWord_of .s he ?_ hf0
  show decodeS w0 = _
  unfold decodeS
  rw [show wordOp w0 = 47 from congrArg BitVec.toNat (g0 1 rfl)]
  refine (if_pos ?_).trans ?_
  · exact Field.zero (fs := [⟨27, t⟩, ⟨21, 47#6⟩, ⟨15, d⟩, ⟨9, a⟩, ⟨6, h⟩, ⟨5, w⟩, ⟨4, o⟩, ⟨2, c⟩]) (Option.some.inj h0).symm rfl 0 2 rfl
  show (Except.ok (.amoadd (fld w0 27 3) (fld w0 15 6) (fld w0 9 6) (fld w0 6 3) (fld w0 5 1) (fld w0 4 1) (fld w0 2 2)) : Except Reject Instr) = _
  rw [show fld w0 27 3 = t from g0 0 rfl, show fld w0 15 6 = d from g0 2 rfl, show fld w0 9 6 = a from g0 3 rfl, show fld w0 6 3 = h from g0 4 rfl, show fld w0 5 1 = w from g0 5 rfl, show fld w0 4 1 = o from g0 6 rfl, show fld w0 2 2 = c from g0 7 rfl]

theorem RoundTrip.amoswp (t : BitVec 3) (d : BitVec 6) (a : BitVec 6) (h : BitVec 3) (w : BitVec 1) (o : BitVec 1) (c : BitVec 2) : RoundTrip.Statement (.amoswp t d a h w o c) := by
  intro w0 h0 hf0
  have g0 {x : Field} := @Field.get w0 [⟨27, t⟩, ⟨21, 48#6⟩, ⟨15, d⟩, ⟨9, a⟩, ⟨6, h⟩, ⟨5, w⟩, ⟨4, o⟩, ⟨2, c⟩] (Option.some.inj h0).symm rfl x
  have he : wordEngine w0 = .s := by rw [wordEngine, show fld w0 30 2 = 0#2 from Field.zero (fs := [⟨27, t⟩, ⟨21, 48#6⟩, ⟨15, d⟩, ⟨9, a⟩, ⟨6, h⟩, ⟨5, w⟩, ⟨4, o⟩, ⟨2, c⟩]) (Option.some.inj h0).symm rfl 30 2 rfl]; rfl
  refine decodeWord_of .s he ?_ hf0
  show decodeS w0 = _
  unfold decodeS
  rw [show wordOp w0 = 48 from congrArg BitVec.toNat (g0 1 rfl)]
  refine (if_pos ?_).trans ?_
  · exact Field.zero (fs := [⟨27, t⟩, ⟨21, 48#6⟩, ⟨15, d⟩, ⟨9, a⟩, ⟨6, h⟩, ⟨5, w⟩, ⟨4, o⟩, ⟨2, c⟩]) (Option.some.inj h0).symm rfl 0 2 rfl
  show (Except.ok (.amoswp (fld w0 27 3) (fld w0 15 6) (fld w0 9 6) (fld w0 6 3) (fld w0 5 1) (fld w0 4 1) (fld w0 2 2)) : Except Reject Instr) = _
  rw [show fld w0 27 3 = t from g0 0 rfl, show fld w0 15 6 = d from g0 2 rfl, show fld w0 9 6 = a from g0 3 rfl, show fld w0 6 3 = h from g0 4 rfl, show fld w0 5 1 = w from g0 5 rfl, show fld w0 4 1 = o from g0 6 rfl, show fld w0 2 2 = c from g0 7 rfl]

theorem RoundTrip.amocas (t : BitVec 3) (d : BitVec 5) (a : BitVec 6) (h : BitVec 3) (w : BitVec 1) (o : BitVec 1) (c : BitVec 2) : RoundTrip.Statement (.amocas t d a h w o c) := by
  intro w0 h0 hf0
  have g0 {x : Field} := @Field.get w0 [⟨27, t⟩, ⟨21, 49#6⟩, ⟨16, d⟩, ⟨9, a⟩, ⟨6, h⟩, ⟨5, w⟩, ⟨4, o⟩, ⟨2, c⟩] (Option.some.inj h0).symm rfl x
  have he : wordEngine w0 = .s := by rw [wordEngine, show fld w0 30 2 = 0#2 from Field.zero (fs := [⟨27, t⟩, ⟨21, 49#6⟩, ⟨16, d⟩, ⟨9, a⟩, ⟨6, h⟩, ⟨5, w⟩, ⟨4, o⟩, ⟨2, c⟩]) (Option.some.inj h0).symm rfl 30 2 rfl]; rfl
  refine decodeWord_of .s he ?_ hf0
  show decodeS w0 = _
  unfold decodeS
  rw [show wordOp w0 = 49 from congrArg BitVec.toNat (g0 1 rfl)]
  refine (if_pos ?_).trans ?_
  · exact ⟨Field.zero (fs := [⟨27, t⟩, ⟨21, 49#6⟩, ⟨16, d⟩, ⟨9, a⟩, ⟨6, h⟩, ⟨5, w⟩, ⟨4, o⟩, ⟨2, c⟩]) (Option.some.inj h0).symm rfl 15 1 rfl, Field.zero (fs := [⟨27, t⟩, ⟨21, 49#6⟩, ⟨16, d⟩, ⟨9, a⟩, ⟨6, h⟩, ⟨5, w⟩, ⟨4, o⟩, ⟨2, c⟩]) (Option.some.inj h0).symm rfl 0 2 rfl⟩
  show (Except.ok (.amocas (fld w0 27 3) (fld w0 16 5) (fld w0 9 6) (fld w0 6 3) (fld w0 5 1) (fld w0 4 1) (fld w0 2 2)) : Except Reject Instr) = _
  rw [show fld w0 27 3 = t from g0 0 rfl, show fld w0 16 5 = d from g0 2 rfl, show fld w0 9 6 = a from g0 3 rfl, show fld w0 6 3 = h from g0 4 rfl, show fld w0 5 1 = w from g0 5 rfl, show fld w0 4 1 = o from g0 6 rfl, show fld w0 2 2 = c from g0 7 rfl]

theorem RoundTrip.amomin (t : BitVec 3) (d : BitVec 6) (a : BitVec 6) (h : BitVec 3) (w : BitVec 1) (o : BitVec 1) (c : BitVec 2) : RoundTrip.Statement (.amomin t d a h w o c) := by
  intro w0 h0 hf0
  have g0 {x : Field} := @Field.get w0 [⟨27, t⟩, ⟨21, 50#6⟩, ⟨15, d⟩, ⟨9, a⟩, ⟨6, h⟩, ⟨5, w⟩, ⟨4, o⟩, ⟨2, c⟩] (Option.some.inj h0).symm rfl x
  have he : wordEngine w0 = .s := by rw [wordEngine, show fld w0 30 2 = 0#2 from Field.zero (fs := [⟨27, t⟩, ⟨21, 50#6⟩, ⟨15, d⟩, ⟨9, a⟩, ⟨6, h⟩, ⟨5, w⟩, ⟨4, o⟩, ⟨2, c⟩]) (Option.some.inj h0).symm rfl 30 2 rfl]; rfl
  refine decodeWord_of .s he ?_ hf0
  show decodeS w0 = _
  unfold decodeS
  rw [show wordOp w0 = 50 from congrArg BitVec.toNat (g0 1 rfl)]
  refine (if_pos ?_).trans ?_
  · exact Field.zero (fs := [⟨27, t⟩, ⟨21, 50#6⟩, ⟨15, d⟩, ⟨9, a⟩, ⟨6, h⟩, ⟨5, w⟩, ⟨4, o⟩, ⟨2, c⟩]) (Option.some.inj h0).symm rfl 0 2 rfl
  show (Except.ok (.amomin (fld w0 27 3) (fld w0 15 6) (fld w0 9 6) (fld w0 6 3) (fld w0 5 1) (fld w0 4 1) (fld w0 2 2)) : Except Reject Instr) = _
  rw [show fld w0 27 3 = t from g0 0 rfl, show fld w0 15 6 = d from g0 2 rfl, show fld w0 9 6 = a from g0 3 rfl, show fld w0 6 3 = h from g0 4 rfl, show fld w0 5 1 = w from g0 5 rfl, show fld w0 4 1 = o from g0 6 rfl, show fld w0 2 2 = c from g0 7 rfl]

theorem RoundTrip.amomax (t : BitVec 3) (d : BitVec 6) (a : BitVec 6) (h : BitVec 3) (w : BitVec 1) (o : BitVec 1) (c : BitVec 2) : RoundTrip.Statement (.amomax t d a h w o c) := by
  intro w0 h0 hf0
  have g0 {x : Field} := @Field.get w0 [⟨27, t⟩, ⟨21, 50#6⟩, ⟨15, d⟩, ⟨9, a⟩, ⟨6, h⟩, ⟨5, w⟩, ⟨4, o⟩, ⟨2, c⟩, ⟨0, 1#2⟩] (Option.some.inj h0).symm rfl x
  have he : wordEngine w0 = .s := by rw [wordEngine, show fld w0 30 2 = 0#2 from Field.zero (fs := [⟨27, t⟩, ⟨21, 50#6⟩, ⟨15, d⟩, ⟨9, a⟩, ⟨6, h⟩, ⟨5, w⟩, ⟨4, o⟩, ⟨2, c⟩, ⟨0, 1#2⟩]) (Option.some.inj h0).symm rfl 30 2 rfl]; rfl
  refine decodeWord_of .s he ?_ hf0
  show decodeS w0 = _
  unfold decodeS
  rw [show wordOp w0 = 50 from congrArg BitVec.toNat (g0 1 rfl)]
  refine (if_neg ?_).trans ?_
  · exact fun h1 => absurd h1 (fun e => absurd ((show fld w0 0 2 = 1#2 from g0 8 rfl).symm.trans e) (by decide))
  refine (if_pos ?_).trans ?_
  · exact g0 8 rfl
  show (Except.ok (.amomax (fld w0 27 3) (fld w0 15 6) (fld w0 9 6) (fld w0 6 3) (fld w0 5 1) (fld w0 4 1) (fld w0 2 2)) : Except Reject Instr) = _
  rw [show fld w0 27 3 = t from g0 0 rfl, show fld w0 15 6 = d from g0 2 rfl, show fld w0 9 6 = a from g0 3 rfl, show fld w0 6 3 = h from g0 4 rfl, show fld w0 5 1 = w from g0 5 rfl, show fld w0 4 1 = o from g0 6 rfl, show fld w0 2 2 = c from g0 7 rfl]

theorem RoundTrip.amominu (t : BitVec 3) (d : BitVec 6) (a : BitVec 6) (h : BitVec 3) (w : BitVec 1) (o : BitVec 1) (c : BitVec 2) : RoundTrip.Statement (.amominu t d a h w o c) := by
  intro w0 h0 hf0
  have g0 {x : Field} := @Field.get w0 [⟨27, t⟩, ⟨21, 50#6⟩, ⟨15, d⟩, ⟨9, a⟩, ⟨6, h⟩, ⟨5, w⟩, ⟨4, o⟩, ⟨2, c⟩, ⟨0, 2#2⟩] (Option.some.inj h0).symm rfl x
  have he : wordEngine w0 = .s := by rw [wordEngine, show fld w0 30 2 = 0#2 from Field.zero (fs := [⟨27, t⟩, ⟨21, 50#6⟩, ⟨15, d⟩, ⟨9, a⟩, ⟨6, h⟩, ⟨5, w⟩, ⟨4, o⟩, ⟨2, c⟩, ⟨0, 2#2⟩]) (Option.some.inj h0).symm rfl 30 2 rfl]; rfl
  refine decodeWord_of .s he ?_ hf0
  show decodeS w0 = _
  unfold decodeS
  rw [show wordOp w0 = 50 from congrArg BitVec.toNat (g0 1 rfl)]
  refine (if_neg ?_).trans ?_
  · exact fun h1 => absurd h1 (fun e => absurd ((show fld w0 0 2 = 2#2 from g0 8 rfl).symm.trans e) (by decide))
  refine (if_neg ?_).trans ?_
  · exact fun h1 => absurd h1 (fun e => absurd ((show fld w0 0 2 = 2#2 from g0 8 rfl).symm.trans e) (by decide))
  refine (if_pos ?_).trans ?_
  · exact g0 8 rfl
  show (Except.ok (.amominu (fld w0 27 3) (fld w0 15 6) (fld w0 9 6) (fld w0 6 3) (fld w0 5 1) (fld w0 4 1) (fld w0 2 2)) : Except Reject Instr) = _
  rw [show fld w0 27 3 = t from g0 0 rfl, show fld w0 15 6 = d from g0 2 rfl, show fld w0 9 6 = a from g0 3 rfl, show fld w0 6 3 = h from g0 4 rfl, show fld w0 5 1 = w from g0 5 rfl, show fld w0 4 1 = o from g0 6 rfl, show fld w0 2 2 = c from g0 7 rfl]

theorem RoundTrip.amomaxu (t : BitVec 3) (d : BitVec 6) (a : BitVec 6) (h : BitVec 3) (w : BitVec 1) (o : BitVec 1) (c : BitVec 2) : RoundTrip.Statement (.amomaxu t d a h w o c) := by
  intro w0 h0 hf0
  have g0 {x : Field} := @Field.get w0 [⟨27, t⟩, ⟨21, 50#6⟩, ⟨15, d⟩, ⟨9, a⟩, ⟨6, h⟩, ⟨5, w⟩, ⟨4, o⟩, ⟨2, c⟩, ⟨0, 3#2⟩] (Option.some.inj h0).symm rfl x
  have he : wordEngine w0 = .s := by rw [wordEngine, show fld w0 30 2 = 0#2 from Field.zero (fs := [⟨27, t⟩, ⟨21, 50#6⟩, ⟨15, d⟩, ⟨9, a⟩, ⟨6, h⟩, ⟨5, w⟩, ⟨4, o⟩, ⟨2, c⟩, ⟨0, 3#2⟩]) (Option.some.inj h0).symm rfl 30 2 rfl]; rfl
  refine decodeWord_of .s he ?_ hf0
  show decodeS w0 = _
  unfold decodeS
  rw [show wordOp w0 = 50 from congrArg BitVec.toNat (g0 1 rfl)]
  refine (if_neg ?_).trans ?_
  · exact fun h1 => absurd h1 (fun e => absurd ((show fld w0 0 2 = 3#2 from g0 8 rfl).symm.trans e) (by decide))
  refine (if_neg ?_).trans ?_
  · exact fun h1 => absurd h1 (fun e => absurd ((show fld w0 0 2 = 3#2 from g0 8 rfl).symm.trans e) (by decide))
  refine (if_neg ?_).trans ?_
  · exact fun h1 => absurd h1 (fun e => absurd ((show fld w0 0 2 = 3#2 from g0 8 rfl).symm.trans e) (by decide))
  refine (if_pos ?_).trans ?_
  · exact g0 8 rfl
  show (Except.ok (.amomaxu (fld w0 27 3) (fld w0 15 6) (fld w0 9 6) (fld w0 6 3) (fld w0 5 1) (fld w0 4 1) (fld w0 2 2)) : Except Reject Instr) = _
  rw [show fld w0 27 3 = t from g0 0 rfl, show fld w0 15 6 = d from g0 2 rfl, show fld w0 9 6 = a from g0 3 rfl, show fld w0 6 3 = h from g0 4 rfl, show fld w0 5 1 = w from g0 5 rfl, show fld w0 4 1 = o from g0 6 rfl, show fld w0 2 2 = c from g0 7 rfl]

theorem RoundTrip.amoand (t : BitVec 3) (d : BitVec 6) (a : BitVec 6) (h : BitVec 3) (w : BitVec 1) (o : BitVec 1) (c : BitVec 2) : RoundTrip.Statement (.amoand t d a h w o c) := by
  intro w0 h0 hf0
  have g0 {x : Field} := @Field.get w0 [⟨27, t⟩, ⟨21, 51#6⟩, ⟨15, d⟩, ⟨9, a⟩, ⟨6, h⟩, ⟨5, w⟩, ⟨4, o⟩, ⟨2, c⟩] (Option.some.inj h0).symm rfl x
  have he : wordEngine w0 = .s := by rw [wordEngine, show fld w0 30 2 = 0#2 from Field.zero (fs := [⟨27, t⟩, ⟨21, 51#6⟩, ⟨15, d⟩, ⟨9, a⟩, ⟨6, h⟩, ⟨5, w⟩, ⟨4, o⟩, ⟨2, c⟩]) (Option.some.inj h0).symm rfl 30 2 rfl]; rfl
  refine decodeWord_of .s he ?_ hf0
  show decodeS w0 = _
  unfold decodeS
  rw [show wordOp w0 = 51 from congrArg BitVec.toNat (g0 1 rfl)]
  refine (if_pos ?_).trans ?_
  · exact Field.zero (fs := [⟨27, t⟩, ⟨21, 51#6⟩, ⟨15, d⟩, ⟨9, a⟩, ⟨6, h⟩, ⟨5, w⟩, ⟨4, o⟩, ⟨2, c⟩]) (Option.some.inj h0).symm rfl 0 2 rfl
  show (Except.ok (.amoand (fld w0 27 3) (fld w0 15 6) (fld w0 9 6) (fld w0 6 3) (fld w0 5 1) (fld w0 4 1) (fld w0 2 2)) : Except Reject Instr) = _
  rw [show fld w0 27 3 = t from g0 0 rfl, show fld w0 15 6 = d from g0 2 rfl, show fld w0 9 6 = a from g0 3 rfl, show fld w0 6 3 = h from g0 4 rfl, show fld w0 5 1 = w from g0 5 rfl, show fld w0 4 1 = o from g0 6 rfl, show fld w0 2 2 = c from g0 7 rfl]

theorem RoundTrip.amoor (t : BitVec 3) (d : BitVec 6) (a : BitVec 6) (h : BitVec 3) (w : BitVec 1) (o : BitVec 1) (c : BitVec 2) : RoundTrip.Statement (.amoor t d a h w o c) := by
  intro w0 h0 hf0
  have g0 {x : Field} := @Field.get w0 [⟨27, t⟩, ⟨21, 51#6⟩, ⟨15, d⟩, ⟨9, a⟩, ⟨6, h⟩, ⟨5, w⟩, ⟨4, o⟩, ⟨2, c⟩, ⟨0, 1#2⟩] (Option.some.inj h0).symm rfl x
  have he : wordEngine w0 = .s := by rw [wordEngine, show fld w0 30 2 = 0#2 from Field.zero (fs := [⟨27, t⟩, ⟨21, 51#6⟩, ⟨15, d⟩, ⟨9, a⟩, ⟨6, h⟩, ⟨5, w⟩, ⟨4, o⟩, ⟨2, c⟩, ⟨0, 1#2⟩]) (Option.some.inj h0).symm rfl 30 2 rfl]; rfl
  refine decodeWord_of .s he ?_ hf0
  show decodeS w0 = _
  unfold decodeS
  rw [show wordOp w0 = 51 from congrArg BitVec.toNat (g0 1 rfl)]
  refine (if_neg ?_).trans ?_
  · exact fun h1 => absurd h1 (fun e => absurd ((show fld w0 0 2 = 1#2 from g0 8 rfl).symm.trans e) (by decide))
  refine (if_pos ?_).trans ?_
  · exact g0 8 rfl
  show (Except.ok (.amoor (fld w0 27 3) (fld w0 15 6) (fld w0 9 6) (fld w0 6 3) (fld w0 5 1) (fld w0 4 1) (fld w0 2 2)) : Except Reject Instr) = _
  rw [show fld w0 27 3 = t from g0 0 rfl, show fld w0 15 6 = d from g0 2 rfl, show fld w0 9 6 = a from g0 3 rfl, show fld w0 6 3 = h from g0 4 rfl, show fld w0 5 1 = w from g0 5 rfl, show fld w0 4 1 = o from g0 6 rfl, show fld w0 2 2 = c from g0 7 rfl]

theorem RoundTrip.amoxor (t : BitVec 3) (d : BitVec 6) (a : BitVec 6) (h : BitVec 3) (w : BitVec 1) (o : BitVec 1) (c : BitVec 2) : RoundTrip.Statement (.amoxor t d a h w o c) := by
  intro w0 h0 hf0
  have g0 {x : Field} := @Field.get w0 [⟨27, t⟩, ⟨21, 51#6⟩, ⟨15, d⟩, ⟨9, a⟩, ⟨6, h⟩, ⟨5, w⟩, ⟨4, o⟩, ⟨2, c⟩, ⟨0, 2#2⟩] (Option.some.inj h0).symm rfl x
  have he : wordEngine w0 = .s := by rw [wordEngine, show fld w0 30 2 = 0#2 from Field.zero (fs := [⟨27, t⟩, ⟨21, 51#6⟩, ⟨15, d⟩, ⟨9, a⟩, ⟨6, h⟩, ⟨5, w⟩, ⟨4, o⟩, ⟨2, c⟩, ⟨0, 2#2⟩]) (Option.some.inj h0).symm rfl 30 2 rfl]; rfl
  refine decodeWord_of .s he ?_ hf0
  show decodeS w0 = _
  unfold decodeS
  rw [show wordOp w0 = 51 from congrArg BitVec.toNat (g0 1 rfl)]
  refine (if_neg ?_).trans ?_
  · exact fun h1 => absurd h1 (fun e => absurd ((show fld w0 0 2 = 2#2 from g0 8 rfl).symm.trans e) (by decide))
  refine (if_neg ?_).trans ?_
  · exact fun h1 => absurd h1 (fun e => absurd ((show fld w0 0 2 = 2#2 from g0 8 rfl).symm.trans e) (by decide))
  refine (if_pos ?_).trans ?_
  · exact g0 8 rfl
  show (Except.ok (.amoxor (fld w0 27 3) (fld w0 15 6) (fld w0 9 6) (fld w0 6 3) (fld w0 5 1) (fld w0 4 1) (fld w0 2 2)) : Except Reject Instr) = _
  rw [show fld w0 27 3 = t from g0 0 rfl, show fld w0 15 6 = d from g0 2 rfl, show fld w0 9 6 = a from g0 3 rfl, show fld w0 6 3 = h from g0 4 rfl, show fld w0 5 1 = w from g0 5 rfl, show fld w0 4 1 = o from g0 6 rfl, show fld w0 2 2 = c from g0 7 rfl]

theorem RoundTrip.xlatR (t : BitVec 3) (h : BitVec 4) (a : BitVec 6) (b : BitVec 6) : RoundTrip.Statement (.xlatR t h a b) := by
  intro w0 h0 hf0
  have g0 {x : Field} := @Field.get w0 [⟨27, t⟩, ⟨21, 52#6⟩, ⟨15, h⟩, ⟨9, a⟩, ⟨3, b⟩] (Option.some.inj h0).symm rfl x
  have he : wordEngine w0 = .s := by rw [wordEngine, show fld w0 30 2 = 0#2 from Field.zero (fs := [⟨27, t⟩, ⟨21, 52#6⟩, ⟨15, h⟩, ⟨9, a⟩, ⟨3, b⟩]) (Option.some.inj h0).symm rfl 30 2 rfl]; rfl
  refine decodeWord_of .s he ?_ hf0
  show decodeS w0 = _
  unfold decodeS
  rw [show wordOp w0 = 52 from congrArg BitVec.toNat (g0 1 rfl)]
  refine (if_pos ?_).trans ?_
  · exact ⟨Field.zero (fs := [⟨27, t⟩, ⟨21, 52#6⟩, ⟨15, h⟩, ⟨9, a⟩, ⟨3, b⟩]) (Option.some.inj h0).symm rfl 19 2 rfl, Field.zero (fs := [⟨27, t⟩, ⟨21, 52#6⟩, ⟨15, h⟩, ⟨9, a⟩, ⟨3, b⟩]) (Option.some.inj h0).symm rfl 0 3 rfl⟩
  show (Except.ok (.xlatR (fld w0 27 3) (fld w0 15 4) (fld w0 9 6) (fld w0 3 6)) : Except Reject Instr) = _
  rw [show fld w0 27 3 = t from g0 0 rfl, show fld w0 15 4 = h from g0 2 rfl, show fld w0 9 6 = a from g0 3 rfl, show fld w0 3 6 = b from g0 4 rfl]

theorem RoundTrip.xlatRw (t : BitVec 3) (h : BitVec 4) (a : BitVec 6) (b : BitVec 6) : RoundTrip.Statement (.xlatRw t h a b) := by
  intro w0 h0 hf0
  have g0 {x : Field} := @Field.get w0 [⟨27, t⟩, ⟨21, 52#6⟩, ⟨15, h⟩, ⟨9, a⟩, ⟨3, b⟩, ⟨0, 1#3⟩] (Option.some.inj h0).symm rfl x
  have he : wordEngine w0 = .s := by rw [wordEngine, show fld w0 30 2 = 0#2 from Field.zero (fs := [⟨27, t⟩, ⟨21, 52#6⟩, ⟨15, h⟩, ⟨9, a⟩, ⟨3, b⟩, ⟨0, 1#3⟩]) (Option.some.inj h0).symm rfl 30 2 rfl]; rfl
  refine decodeWord_of .s he ?_ hf0
  show decodeS w0 = _
  unfold decodeS
  rw [show wordOp w0 = 52 from congrArg BitVec.toNat (g0 1 rfl)]
  refine (if_neg ?_).trans ?_
  · exact fun h1 => absurd h1.2 (fun e => absurd ((show fld w0 0 3 = 1#3 from g0 5 rfl).symm.trans e) (by decide))
  refine (if_pos ?_).trans ?_
  · exact ⟨Field.zero (fs := [⟨27, t⟩, ⟨21, 52#6⟩, ⟨15, h⟩, ⟨9, a⟩, ⟨3, b⟩, ⟨0, 1#3⟩]) (Option.some.inj h0).symm rfl 19 2 rfl, g0 5 rfl⟩
  show (Except.ok (.xlatRw (fld w0 27 3) (fld w0 15 4) (fld w0 9 6) (fld w0 3 6)) : Except Reject Instr) = _
  rw [show fld w0 27 3 = t from g0 0 rfl, show fld w0 15 4 = h from g0 2 rfl, show fld w0 9 6 = a from g0 3 rfl, show fld w0 3 6 = b from g0 4 rfl]

theorem RoundTrip.xlatRwa (t : BitVec 3) (h : BitVec 4) (a : BitVec 6) (b : BitVec 6) : RoundTrip.Statement (.xlatRwa t h a b) := by
  intro w0 h0 hf0
  have g0 {x : Field} := @Field.get w0 [⟨27, t⟩, ⟨21, 52#6⟩, ⟨15, h⟩, ⟨9, a⟩, ⟨3, b⟩, ⟨0, 2#3⟩] (Option.some.inj h0).symm rfl x
  have he : wordEngine w0 = .s := by rw [wordEngine, show fld w0 30 2 = 0#2 from Field.zero (fs := [⟨27, t⟩, ⟨21, 52#6⟩, ⟨15, h⟩, ⟨9, a⟩, ⟨3, b⟩, ⟨0, 2#3⟩]) (Option.some.inj h0).symm rfl 30 2 rfl]; rfl
  refine decodeWord_of .s he ?_ hf0
  show decodeS w0 = _
  unfold decodeS
  rw [show wordOp w0 = 52 from congrArg BitVec.toNat (g0 1 rfl)]
  refine (if_neg ?_).trans ?_
  · exact fun h1 => absurd h1.2 (fun e => absurd ((show fld w0 0 3 = 2#3 from g0 5 rfl).symm.trans e) (by decide))
  refine (if_neg ?_).trans ?_
  · exact fun h1 => absurd h1.2 (fun e => absurd ((show fld w0 0 3 = 2#3 from g0 5 rfl).symm.trans e) (by decide))
  refine (if_pos ?_).trans ?_
  · exact ⟨Field.zero (fs := [⟨27, t⟩, ⟨21, 52#6⟩, ⟨15, h⟩, ⟨9, a⟩, ⟨3, b⟩, ⟨0, 2#3⟩]) (Option.some.inj h0).symm rfl 19 2 rfl, g0 5 rfl⟩
  show (Except.ok (.xlatRwa (fld w0 27 3) (fld w0 15 4) (fld w0 9 6) (fld w0 3 6)) : Except Reject Instr) = _
  rw [show fld w0 27 3 = t from g0 0 rfl, show fld w0 15 4 = h from g0 2 rfl, show fld w0 9 6 = a from g0 3 rfl, show fld w0 3 6 = b from g0 4 rfl]

theorem RoundTrip.probe (t : BitVec 3) (d : BitVec 6) (a : BitVec 6) (o : BitVec 6) (c : BitVec 3) : RoundTrip.Statement (.probe t d a o c) := by
  intro w0 h0 hf0
  have g0 {x : Field} := @Field.get w0 [⟨27, t⟩, ⟨21, 53#6⟩, ⟨15, d⟩, ⟨9, a⟩, ⟨3, o⟩, ⟨0, c⟩] (Option.some.inj h0).symm rfl x
  have he : wordEngine w0 = .s := by rw [wordEngine, show fld w0 30 2 = 0#2 from Field.zero (fs := [⟨27, t⟩, ⟨21, 53#6⟩, ⟨15, d⟩, ⟨9, a⟩, ⟨3, o⟩, ⟨0, c⟩]) (Option.some.inj h0).symm rfl 30 2 rfl]; rfl
  refine decodeWord_of .s he ?_ hf0
  show decodeS w0 = _
  unfold decodeS
  rw [show wordOp w0 = 53 from congrArg BitVec.toNat (g0 1 rfl)]
  show (Except.ok (.probe (fld w0 27 3) (fld w0 15 6) (fld w0 9 6) (fld w0 3 6) (fld w0 0 3)) : Except Reject Instr) = _
  rw [show fld w0 27 3 = t from g0 0 rfl, show fld w0 15 6 = d from g0 2 rfl, show fld w0 9 6 = a from g0 3 rfl, show fld w0 3 6 = o from g0 4 rfl, show fld w0 0 3 = c from g0 5 rfl]

theorem RoundTrip.trel (t : BitVec 3) (a : BitVec 6) : RoundTrip.Statement (.trel t a) := by
  intro w0 h0 hf0
  have g0 {x : Field} := @Field.get w0 [⟨27, t⟩, ⟨21, 54#6⟩, ⟨9, a⟩] (Option.some.inj h0).symm rfl x
  have he : wordEngine w0 = .s := by rw [wordEngine, show fld w0 30 2 = 0#2 from Field.zero (fs := [⟨27, t⟩, ⟨21, 54#6⟩, ⟨9, a⟩]) (Option.some.inj h0).symm rfl 30 2 rfl]; rfl
  refine decodeWord_of .s he ?_ hf0
  show decodeS w0 = _
  unfold decodeS
  rw [show wordOp w0 = 54 from congrArg BitVec.toNat (g0 1 rfl)]
  refine (if_neg ?_).trans ?_
  · exact fun h1 => absurd h1.2 (fld_ne 0 9 (by decide) (show fld w0 0 9 = 0#9 from Field.zero (fs := [⟨27, t⟩, ⟨21, 54#6⟩, ⟨9, a⟩]) (Option.some.inj h0).symm rfl 0 9 rfl) (by decide))
  refine (if_pos ?_).trans ?_
  · exact ⟨Field.zero (fs := [⟨27, t⟩, ⟨21, 54#6⟩, ⟨9, a⟩]) (Option.some.inj h0).symm rfl 15 6 rfl, Field.zero (fs := [⟨27, t⟩, ⟨21, 54#6⟩, ⟨9, a⟩]) (Option.some.inj h0).symm rfl 0 9 rfl⟩
  show (Except.ok (.trel (fld w0 27 3) (fld w0 9 6)) : Except Reject Instr) = _
  rw [show fld w0 27 3 = t from g0 0 rfl, show fld w0 9 6 = a from g0 2 rfl]

theorem RoundTrip.tstat (t : BitVec 3) (d : BitVec 6) (a : BitVec 6) : RoundTrip.Statement (.tstat t d a) := by
  intro w0 h0 hf0
  have g0 {x : Field} := @Field.get w0 [⟨27, t⟩, ⟨21, 54#6⟩, ⟨15, d⟩, ⟨9, a⟩, ⟨0, 1#9⟩] (Option.some.inj h0).symm rfl x
  have he : wordEngine w0 = .s := by rw [wordEngine, show fld w0 30 2 = 0#2 from Field.zero (fs := [⟨27, t⟩, ⟨21, 54#6⟩, ⟨15, d⟩, ⟨9, a⟩, ⟨0, 1#9⟩]) (Option.some.inj h0).symm rfl 30 2 rfl]; rfl
  refine decodeWord_of .s he ?_ hf0
  show decodeS w0 = _
  unfold decodeS
  rw [show wordOp w0 = 54 from congrArg BitVec.toNat (g0 1 rfl)]
  refine (if_neg ?_).trans ?_
  · exact fun h1 => absurd h1.2 (fld_ne 0 9 (by decide) (show fld w0 0 9 = 1#9 from g0 4 rfl) (by decide))
  refine (if_neg ?_).trans ?_
  · exact fun h1 => absurd h1.2 (fun e => absurd ((show fld w0 0 9 = 1#9 from g0 4 rfl).symm.trans e) (by decide))
  refine (if_neg ?_).trans ?_
  · exact fun h1 => absurd h1.2 (fun e => absurd ((show fld w0 0 9 = 1#9 from g0 4 rfl).symm.trans e) (by decide))
  refine (if_neg ?_).trans ?_
  · exact fun h1 => absurd h1.2 (fun e => absurd ((show fld w0 0 9 = 1#9 from g0 4 rfl).symm.trans e) (by decide))
  refine (if_neg ?_).trans ?_
  · exact fun h1 => absurd h1.2 (fun e => absurd ((show fld w0 0 9 = 1#9 from g0 4 rfl).symm.trans e) (by decide))
  refine (if_pos ?_).trans ?_
  · exact g0 4 rfl
  show (Except.ok (.tstat (fld w0 27 3) (fld w0 15 6) (fld w0 9 6)) : Except Reject Instr) = _
  rw [show fld w0 27 3 = t from g0 0 rfl, show fld w0 15 6 = d from g0 2 rfl, show fld w0 9 6 = a from g0 3 rfl]

theorem RoundTrip.tclean (t : BitVec 3) (a : BitVec 6) : RoundTrip.Statement (.tclean t a) := by
  intro w0 h0 hf0
  have g0 {x : Field} := @Field.get w0 [⟨27, t⟩, ⟨21, 54#6⟩, ⟨9, a⟩, ⟨0, 2#9⟩] (Option.some.inj h0).symm rfl x
  have he : wordEngine w0 = .s := by rw [wordEngine, show fld w0 30 2 = 0#2 from Field.zero (fs := [⟨27, t⟩, ⟨21, 54#6⟩, ⟨9, a⟩, ⟨0, 2#9⟩]) (Option.some.inj h0).symm rfl 30 2 rfl]; rfl
  refine decodeWord_of .s he ?_ hf0
  show decodeS w0 = _
  unfold decodeS
  rw [show wordOp w0 = 54 from congrArg BitVec.toNat (g0 1 rfl)]
  refine (if_neg ?_).trans ?_
  · exact fun h1 => absurd h1.2 (fld_ne 0 9 (by decide) (show fld w0 0 9 = 2#9 from g0 3 rfl) (by decide))
  refine (if_neg ?_).trans ?_
  · exact fun h1 => absurd h1.2 (fun e => absurd ((show fld w0 0 9 = 2#9 from g0 3 rfl).symm.trans e) (by decide))
  refine (if_pos ?_).trans ?_
  · exact ⟨Field.zero (fs := [⟨27, t⟩, ⟨21, 54#6⟩, ⟨9, a⟩, ⟨0, 2#9⟩]) (Option.some.inj h0).symm rfl 15 6 rfl, g0 3 rfl⟩
  show (Except.ok (.tclean (fld w0 27 3) (fld w0 9 6)) : Except Reject Instr) = _
  rw [show fld w0 27 3 = t from g0 0 rfl, show fld w0 9 6 = a from g0 2 rfl]

theorem RoundTrip.tdirty (t : BitVec 3) (a : BitVec 6) : RoundTrip.Statement (.tdirty t a) := by
  intro w0 h0 hf0
  have g0 {x : Field} := @Field.get w0 [⟨27, t⟩, ⟨21, 54#6⟩, ⟨9, a⟩, ⟨0, 3#9⟩] (Option.some.inj h0).symm rfl x
  have he : wordEngine w0 = .s := by rw [wordEngine, show fld w0 30 2 = 0#2 from Field.zero (fs := [⟨27, t⟩, ⟨21, 54#6⟩, ⟨9, a⟩, ⟨0, 3#9⟩]) (Option.some.inj h0).symm rfl 30 2 rfl]; rfl
  refine decodeWord_of .s he ?_ hf0
  show decodeS w0 = _
  unfold decodeS
  rw [show wordOp w0 = 54 from congrArg BitVec.toNat (g0 1 rfl)]
  refine (if_neg ?_).trans ?_
  · exact fun h1 => absurd h1.2 (fld_ne 0 9 (by decide) (show fld w0 0 9 = 3#9 from g0 3 rfl) (by decide))
  refine (if_neg ?_).trans ?_
  · exact fun h1 => absurd h1.2 (fun e => absurd ((show fld w0 0 9 = 3#9 from g0 3 rfl).symm.trans e) (by decide))
  refine (if_neg ?_).trans ?_
  · exact fun h1 => absurd h1.2 (fun e => absurd ((show fld w0 0 9 = 3#9 from g0 3 rfl).symm.trans e) (by decide))
  refine (if_pos ?_).trans ?_
  · exact ⟨Field.zero (fs := [⟨27, t⟩, ⟨21, 54#6⟩, ⟨9, a⟩, ⟨0, 3#9⟩]) (Option.some.inj h0).symm rfl 15 6 rfl, g0 3 rfl⟩
  show (Except.ok (.tdirty (fld w0 27 3) (fld w0 9 6)) : Except Reject Instr) = _
  rw [show fld w0 27 3 = t from g0 0 rfl, show fld w0 9 6 = a from g0 2 rfl]

theorem RoundTrip.hrel (t : BitVec 3) (h : BitVec 4) : RoundTrip.Statement (.hrel t h) := by
  intro w0 h0 hf0
  have g0 {x : Field} := @Field.get w0 [⟨27, t⟩, ⟨21, 54#6⟩, ⟨15, h⟩, ⟨0, 4#15⟩] (Option.some.inj h0).symm rfl x
  have he : wordEngine w0 = .s := by rw [wordEngine, show fld w0 30 2 = 0#2 from Field.zero (fs := [⟨27, t⟩, ⟨21, 54#6⟩, ⟨15, h⟩, ⟨0, 4#15⟩]) (Option.some.inj h0).symm rfl 30 2 rfl]; rfl
  refine decodeWord_of .s he ?_ hf0
  show decodeS w0 = _
  unfold decodeS
  rw [show wordOp w0 = 54 from congrArg BitVec.toNat (g0 1 rfl)]
  refine (if_pos ?_).trans ?_
  · exact ⟨Field.zero (fs := [⟨27, t⟩, ⟨21, 54#6⟩, ⟨15, h⟩, ⟨0, 4#15⟩]) (Option.some.inj h0).symm rfl 19 2 rfl, g0 3 rfl⟩
  show (Except.ok (.hrel (fld w0 27 3) (fld w0 15 4)) : Except Reject Instr) = _
  rw [show fld w0 27 3 = t from g0 0 rfl, show fld w0 15 4 = h from g0 2 rfl]

theorem RoundTrip.hqry (t : BitVec 3) (d : BitVec 5) (h : BitVec 4) : RoundTrip.Statement (.hqry t d h) := by
  intro w0 h0 hf0
  have g0 {x : Field} := @Field.get w0 [⟨27, t⟩, ⟨21, 54#6⟩, ⟨16, d⟩, ⟨9, h⟩, ⟨0, 5#9⟩] (Option.some.inj h0).symm rfl x
  have he : wordEngine w0 = .s := by rw [wordEngine, show fld w0 30 2 = 0#2 from Field.zero (fs := [⟨27, t⟩, ⟨21, 54#6⟩, ⟨16, d⟩, ⟨9, h⟩, ⟨0, 5#9⟩]) (Option.some.inj h0).symm rfl 30 2 rfl]; rfl
  refine decodeWord_of .s he ?_ hf0
  show decodeS w0 = _
  unfold decodeS
  rw [show wordOp w0 = 54 from congrArg BitVec.toNat (g0 1 rfl)]
  refine (if_neg ?_).trans ?_
  · exact fun h1 => absurd h1.2 (fld_ne 0 9 (by decide) (show fld w0 0 9 = 5#9 from g0 4 rfl) (by decide))
  refine (if_neg ?_).trans ?_
  · exact fun h1 => absurd h1.2 (fun e => absurd ((show fld w0 0 9 = 5#9 from g0 4 rfl).symm.trans e) (by decide))
  refine (if_neg ?_).trans ?_
  · exact fun h1 => absurd h1.2 (fun e => absurd ((show fld w0 0 9 = 5#9 from g0 4 rfl).symm.trans e) (by decide))
  refine (if_neg ?_).trans ?_
  · exact fun h1 => absurd h1.2 (fun e => absurd ((show fld w0 0 9 = 5#9 from g0 4 rfl).symm.trans e) (by decide))
  refine (if_pos ?_).trans ?_
  · exact ⟨Field.zero (fs := [⟨27, t⟩, ⟨21, 54#6⟩, ⟨16, d⟩, ⟨9, h⟩, ⟨0, 5#9⟩]) (Option.some.inj h0).symm rfl 13 3 rfl, g0 4 rfl⟩
  show (Except.ok (.hqry (fld w0 27 3) (fld w0 16 5) (fld w0 9 4)) : Except Reject Instr) = _
  rw [show fld w0 27 3 = t from g0 0 rfl, show fld w0 16 5 = d from g0 2 rfl, show fld w0 9 4 = h from g0 3 rfl]

theorem RoundTrip.fence (t : BitVec 3) (c : BitVec 2) : RoundTrip.Statement (.fence t c) := by
  intro w0 h0 hf0
  have g0 {x : Field} := @Field.get w0 [⟨27, t⟩, ⟨21, 55#6⟩, ⟨0, c⟩] (Option.some.inj h0).symm rfl x
  have he : wordEngine w0 = .s := by rw [wordEngine, show fld w0 30 2 = 0#2 from Field.zero (fs := [⟨27, t⟩, ⟨21, 55#6⟩, ⟨0, c⟩]) (Option.some.inj h0).symm rfl 30 2 rfl]; rfl
  refine decodeWord_of .s he ?_ hf0
  show decodeS w0 = _
  unfold decodeS
  rw [show wordOp w0 = 55 from congrArg BitVec.toNat (g0 1 rfl)]
  refine (if_pos ?_).trans ?_
  · exact Field.zero (fs := [⟨27, t⟩, ⟨21, 55#6⟩, ⟨0, c⟩]) (Option.some.inj h0).symm rfl 2 19 rfl
  show (Except.ok (.fence (fld w0 27 3) (fld w0 0 2)) : Except Reject Instr) = _
  rw [show fld w0 27 3 = t from g0 0 rfl, show fld w0 0 2 = c from g0 2 rfl]

theorem RoundTrip.cfence (t : BitVec 3) (a : BitVec 6) (b : BitVec 6) (c : BitVec 2) : RoundTrip.Statement (.cfence t a b c) := by
  intro w0 h0 hf0
  have g0 {x : Field} := @Field.get w0 [⟨27, t⟩, ⟨21, 55#6⟩, ⟨9, a⟩, ⟨3, b⟩, ⟨2, 1#1⟩, ⟨0, c⟩] (Option.some.inj h0).symm rfl x
  have he : wordEngine w0 = .s := by rw [wordEngine, show fld w0 30 2 = 0#2 from Field.zero (fs := [⟨27, t⟩, ⟨21, 55#6⟩, ⟨9, a⟩, ⟨3, b⟩, ⟨2, 1#1⟩, ⟨0, c⟩]) (Option.some.inj h0).symm rfl 30 2 rfl]; rfl
  refine decodeWord_of .s he ?_ hf0
  show decodeS w0 = _
  unfold decodeS
  rw [show wordOp w0 = 55 from congrArg BitVec.toNat (g0 1 rfl)]
  refine (if_neg ?_).trans ?_
  · exact fun h1 => absurd h1 (fld_ne 0 1 (by decide) (show fld w0 2 1 = 1#1 from g0 4 rfl) (by decide))
  refine (if_pos ?_).trans ?_
  · exact ⟨Field.zero (fs := [⟨27, t⟩, ⟨21, 55#6⟩, ⟨9, a⟩, ⟨3, b⟩, ⟨2, 1#1⟩, ⟨0, c⟩]) (Option.some.inj h0).symm rfl 15 6 rfl, g0 4 rfl⟩
  show (Except.ok (.cfence (fld w0 27 3) (fld w0 9 6) (fld w0 3 6) (fld w0 0 2)) : Except Reject Instr) = _
  rw [show fld w0 27 3 = t from g0 0 rfl, show fld w0 9 6 = a from g0 2 rfl, show fld w0 3 6 = b from g0 3 rfl, show fld w0 0 2 = c from g0 5 rfl]

theorem RoundTrip.bar (t : BitVec 3) (g : BitVec 3) : RoundTrip.Statement (.bar t g) := by
  intro w0 h0 hf0
  have g0 {x : Field} := @Field.get w0 [⟨27, t⟩, ⟨21, 56#6⟩, ⟨0, g⟩] (Option.some.inj h0).symm rfl x
  have he : wordEngine w0 = .s := by rw [wordEngine, show fld w0 30 2 = 0#2 from Field.zero (fs := [⟨27, t⟩, ⟨21, 56#6⟩, ⟨0, g⟩]) (Option.some.inj h0).symm rfl 30 2 rfl]; rfl
  refine decodeWord_of .s he ?_ hf0
  show decodeS w0 = _
  unfold decodeS
  rw [show wordOp w0 = 56 from congrArg BitVec.toNat (g0 1 rfl)]
  refine (if_pos ?_).trans ?_
  · exact Field.zero (fs := [⟨27, t⟩, ⟨21, 56#6⟩, ⟨0, g⟩]) (Option.some.inj h0).symm rfl 3 18 rfl
  show (Except.ok (.bar (fld w0 27 3) (fld w0 0 3)) : Except Reject Instr) = _
  rw [show fld w0 27 3 = t from g0 0 rfl, show fld w0 0 3 = g from g0 2 rfl]

theorem RoundTrip.bara (t : BitVec 3) (a : BitVec 6) (g : BitVec 3) : RoundTrip.Statement (.bara t a g) := by
  intro w0 h0 hf0
  have g0 {x : Field} := @Field.get w0 [⟨27, t⟩, ⟨21, 56#6⟩, ⟨9, a⟩, ⟨3, 1#6⟩, ⟨0, g⟩] (Option.some.inj h0).symm rfl x
  have he : wordEngine w0 = .s := by rw [wordEngine, show fld w0 30 2 = 0#2 from Field.zero (fs := [⟨27, t⟩, ⟨21, 56#6⟩, ⟨9, a⟩, ⟨3, 1#6⟩, ⟨0, g⟩]) (Option.some.inj h0).symm rfl 30 2 rfl]; rfl
  refine decodeWord_of .s he ?_ hf0
  show decodeS w0 = _
  unfold decodeS
  rw [show wordOp w0 = 56 from congrArg BitVec.toNat (g0 1 rfl)]
  refine (if_neg ?_).trans ?_
  · exact fun h1 => absurd h1 (fld_ne 0 6 (by decide) (show fld w0 3 6 = 1#6 from g0 3 rfl) (by decide))
  refine (if_neg ?_).trans ?_
  · exact fun h1 => absurd h1 (fld_ne 0 6 (by decide) (show fld w0 3 6 = 1#6 from g0 3 rfl) (by decide))
  refine (if_neg ?_).trans ?_
  · exact fun h1 => absurd h1 (fld_ne 0 6 (by decide) (show fld w0 3 6 = 1#6 from g0 3 rfl) (by decide))
  refine (if_neg ?_).trans ?_
  · exact fun h1 => absurd h1 (fld_ne 0 6 (by decide) (show fld w0 3 6 = 1#6 from g0 3 rfl) (by decide))
  refine (if_pos ?_).trans ?_
  · exact ⟨Field.zero (fs := [⟨27, t⟩, ⟨21, 56#6⟩, ⟨9, a⟩, ⟨3, 1#6⟩, ⟨0, g⟩]) (Option.some.inj h0).symm rfl 15 6 rfl, g0 3 rfl⟩
  show (Except.ok (.bara (fld w0 27 3) (fld w0 9 6) (fld w0 0 3)) : Except Reject Instr) = _
  rw [show fld w0 27 3 = t from g0 0 rfl, show fld w0 9 6 = a from g0 2 rfl, show fld w0 0 3 = g from g0 4 rfl]

theorem RoundTrip.barw (t : BitVec 3) (g : BitVec 3) : RoundTrip.Statement (.barw t g) := by
  intro w0 h0 hf0
  have g0 {x : Field} := @Field.get w0 [⟨27, t⟩, ⟨21, 56#6⟩, ⟨3, 2#18⟩, ⟨0, g⟩] (Option.some.inj h0).symm rfl x
  have he : wordEngine w0 = .s := by rw [wordEngine, show fld w0 30 2 = 0#2 from Field.zero (fs := [⟨27, t⟩, ⟨21, 56#6⟩, ⟨3, 2#18⟩, ⟨0, g⟩]) (Option.some.inj h0).symm rfl 30 2 rfl]; rfl
  refine decodeWord_of .s he ?_ hf0
  show decodeS w0 = _
  unfold decodeS
  rw [show wordOp w0 = 56 from congrArg BitVec.toNat (g0 1 rfl)]
  refine (if_neg ?_).trans ?_
  · exact fun h1 => absurd h1 (fun e => absurd ((show fld w0 3 18 = 2#18 from g0 2 rfl).symm.trans e) (by decide))
  refine (if_pos ?_).trans ?_
  · exact g0 2 rfl
  show (Except.ok (.barw (fld w0 27 3) (fld w0 0 3)) : Except Reject Instr) = _
  rw [show fld w0 27 3 = t from g0 0 rfl, show fld w0 0 3 = g from g0 3 rfl]

theorem RoundTrip.barq (t : BitVec 3) (d : BitVec 5) (g : BitVec 3) : RoundTrip.Statement (.barq t d g) := by
  intro w0 h0 hf0
  have g0 {x : Field} := @Field.get w0 [⟨27, t⟩, ⟨21, 56#6⟩, ⟨16, d⟩, ⟨3, 3#13⟩, ⟨0, g⟩] (Option.some.inj h0).symm rfl x
  have he : wordEngine w0 = .s := by rw [wordEngine, show fld w0 30 2 = 0#2 from Field.zero (fs := [⟨27, t⟩, ⟨21, 56#6⟩, ⟨16, d⟩, ⟨3, 3#13⟩, ⟨0, g⟩]) (Option.some.inj h0).symm rfl 30 2 rfl]; rfl
  refine decodeWord_of .s he ?_ hf0
  show decodeS w0 = _
  unfold decodeS
  rw [show wordOp w0 = 56 from congrArg BitVec.toNat (g0 1 rfl)]
  refine (if_neg ?_).trans ?_
  · exact fun h1 => absurd h1 (fld_ne 0 13 (by decide) (show fld w0 3 13 = 3#13 from g0 3 rfl) (by decide))
  refine (if_neg ?_).trans ?_
  · exact fun h1 => absurd h1 (fld_ne 0 13 (by decide) (show fld w0 3 13 = 3#13 from g0 3 rfl) (by decide))
  refine (if_neg ?_).trans ?_
  · exact fun h1 => absurd h1 (fld_ne 0 13 (by decide) (show fld w0 3 13 = 3#13 from g0 3 rfl) (by decide))
  refine (if_pos ?_).trans ?_
  · exact g0 3 rfl
  show (Except.ok (.barq (fld w0 27 3) (fld w0 16 5) (fld w0 0 3)) : Except Reject Instr) = _
  rw [show fld w0 27 3 = t from g0 0 rfl, show fld w0 16 5 = d from g0 2 rfl, show fld w0 0 3 = g from g0 4 rfl]

theorem RoundTrip.step (t : BitVec 3) (g : BitVec 3) : RoundTrip.Statement (.step t g) := by
  intro w0 h0 hf0
  have g0 {x : Field} := @Field.get w0 [⟨27, t⟩, ⟨21, 56#6⟩, ⟨3, 4#18⟩, ⟨0, g⟩] (Option.some.inj h0).symm rfl x
  have he : wordEngine w0 = .s := by rw [wordEngine, show fld w0 30 2 = 0#2 from Field.zero (fs := [⟨27, t⟩, ⟨21, 56#6⟩, ⟨3, 4#18⟩, ⟨0, g⟩]) (Option.some.inj h0).symm rfl 30 2 rfl]; rfl
  refine decodeWord_of .s he ?_ hf0
  show decodeS w0 = _
  unfold decodeS
  rw [show wordOp w0 = 56 from congrArg BitVec.toNat (g0 1 rfl)]
  refine (if_neg ?_).trans ?_
  · exact fun h1 => absurd h1 (fun e => absurd ((show fld w0 3 18 = 4#18 from g0 2 rfl).symm.trans e) (by decide))
  refine (if_neg ?_).trans ?_
  · exact fun h1 => absurd h1 (fun e => absurd ((show fld w0 3 18 = 4#18 from g0 2 rfl).symm.trans e) (by decide))
  refine (if_pos ?_).trans ?_
  · exact g0 2 rfl
  show (Except.ok (.step (fld w0 27 3) (fld w0 0 3)) : Except Reject Instr) = _
  rw [show fld w0 27 3 = t from g0 0 rfl, show fld w0 0 3 = g from g0 3 rfl]

theorem RoundTrip.stwp (t : BitVec 3) (d : BitVec 5) (a : BitVec 6) (h : BitVec 4) (i : BitVec 5) : RoundTrip.Statement (.stwp t d a h i) := by
  intro w0 h0 hf0
  have g0 {x : Field} := @Field.get w0 [⟨27, t⟩, ⟨21, 57#6⟩, ⟨16, d⟩, ⟨9, a⟩, ⟨5, h⟩, ⟨0, i⟩] (Option.some.inj h0).symm rfl x
  have he : wordEngine w0 = .s := by rw [wordEngine, show fld w0 30 2 = 0#2 from Field.zero (fs := [⟨27, t⟩, ⟨21, 57#6⟩, ⟨16, d⟩, ⟨9, a⟩, ⟨5, h⟩, ⟨0, i⟩]) (Option.some.inj h0).symm rfl 30 2 rfl]; rfl
  refine decodeWord_of .s he ?_ hf0
  show decodeS w0 = _
  unfold decodeS
  rw [show wordOp w0 = 57 from congrArg BitVec.toNat (g0 1 rfl)]
  refine (if_pos ?_).trans ?_
  · exact Field.zero (fs := [⟨27, t⟩, ⟨21, 57#6⟩, ⟨16, d⟩, ⟨9, a⟩, ⟨5, h⟩, ⟨0, i⟩]) (Option.some.inj h0).symm rfl 15 1 rfl
  show (Except.ok (.stwp (fld w0 27 3) (fld w0 16 5) (fld w0 9 6) (fld w0 5 4) (fld w0 0 5)) : Except Reject Instr) = _
  rw [show fld w0 27 3 = t from g0 0 rfl, show fld w0 16 5 = d from g0 2 rfl, show fld w0 9 6 = a from g0 3 rfl, show fld w0 5 4 = h from g0 4 rfl, show fld w0 0 5 = i from g0 5 rfl]

theorem RoundTrip.qpush (t : BitVec 3) (a : BitVec 6) : RoundTrip.Statement (.qpush t a) := by
  intro w0 h0 hf0
  have g0 {x : Field} := @Field.get w0 [⟨27, t⟩, ⟨21, 58#6⟩, ⟨9, a⟩] (Option.some.inj h0).symm rfl x
  have he : wordEngine w0 = .s := by rw [wordEngine, show fld w0 30 2 = 0#2 from Field.zero (fs := [⟨27, t⟩, ⟨21, 58#6⟩, ⟨9, a⟩]) (Option.some.inj h0).symm rfl 30 2 rfl]; rfl
  refine decodeWord_of .s he ?_ hf0
  show decodeS w0 = _
  unfold decodeS
  rw [show wordOp w0 = 58 from congrArg BitVec.toNat (g0 1 rfl)]
  refine (if_pos ?_).trans ?_
  · exact ⟨Field.zero (fs := [⟨27, t⟩, ⟨21, 58#6⟩, ⟨9, a⟩]) (Option.some.inj h0).symm rfl 15 6 rfl, Field.zero (fs := [⟨27, t⟩, ⟨21, 58#6⟩, ⟨9, a⟩]) (Option.some.inj h0).symm rfl 0 9 rfl⟩
  show (Except.ok (.qpush (fld w0 27 3) (fld w0 9 6)) : Except Reject Instr) = _
  rw [show fld w0 27 3 = t from g0 0 rfl, show fld w0 9 6 = a from g0 2 rfl]

theorem RoundTrip.qpop (t : BitVec 3) (d : BitVec 6) (a : BitVec 6) : RoundTrip.Statement (.qpop t d a) := by
  intro w0 h0 hf0
  have g0 {x : Field} := @Field.get w0 [⟨27, t⟩, ⟨21, 58#6⟩, ⟨15, d⟩, ⟨9, a⟩, ⟨0, 1#9⟩] (Option.some.inj h0).symm rfl x
  have he : wordEngine w0 = .s := by rw [wordEngine, show fld w0 30 2 = 0#2 from Field.zero (fs := [⟨27, t⟩, ⟨21, 58#6⟩, ⟨15, d⟩, ⟨9, a⟩, ⟨0, 1#9⟩]) (Option.some.inj h0).symm rfl 30 2 rfl]; rfl
  refine decodeWord_of .s he ?_ hf0
  show decodeS w0 = _
  unfold decodeS
  rw [show wordOp w0 = 58 from congrArg BitVec.toNat (g0 1 rfl)]
  refine (if_neg ?_).trans ?_
  · exact fun h1 => absurd h1.2 (fun e => absurd ((show fld w0 0 9 = 1#9 from g0 4 rfl).symm.trans e) (by decide))
  refine (if_neg ?_).trans ?_
  · exact fun h1 => absurd h1 (fld_ne 0 9 (by decide) (show fld w0 0 9 = 1#9 from g0 4 rfl) (by decide))
  refine (if_neg ?_).trans ?_
  · exact fun h1 => absurd h1 (fld_ne 0 9 (by decide) (show fld w0 0 9 = 1#9 from g0 4 rfl) (by decide))
  refine (if_pos ?_).trans ?_
  · exact g0 4 rfl
  show (Except.ok (.qpop (fld w0 27 3) (fld w0 15 6) (fld w0 9 6)) : Except Reject Instr) = _
  rw [show fld w0 27 3 = t from g0 0 rfl, show fld w0 15 6 = d from g0 2 rfl, show fld w0 9 6 = a from g0 3 rfl]

theorem RoundTrip.qsteal (t : BitVec 3) (d : BitVec 6) (a : BitVec 6) : RoundTrip.Statement (.qsteal t d a) := by
  intro w0 h0 hf0
  have g0 {x : Field} := @Field.get w0 [⟨27, t⟩, ⟨21, 58#6⟩, ⟨15, d⟩, ⟨9, a⟩, ⟨0, 2#9⟩] (Option.some.inj h0).symm rfl x
  have he : wordEngine w0 = .s := by rw [wordEngine, show fld w0 30 2 = 0#2 from Field.zero (fs := [⟨27, t⟩, ⟨21, 58#6⟩, ⟨15, d⟩, ⟨9, a⟩, ⟨0, 2#9⟩]) (Option.some.inj h0).symm rfl 30 2 rfl]; rfl
  refine decodeWord_of .s he ?_ hf0
  show decodeS w0 = _
  unfold decodeS
  rw [show wordOp w0 = 58 from congrArg BitVec.toNat (g0 1 rfl)]
  refine (if_neg ?_).trans ?_
  · exact fun h1 => absurd h1.2 (fun e => absurd ((show fld w0 0 9 = 2#9 from g0 4 rfl).symm.trans e) (by decide))
  refine (if_neg ?_).trans ?_
  · exact fun h1 => absurd h1 (fld_ne 0 9 (by decide) (show fld w0 0 9 = 2#9 from g0 4 rfl) (by decide))
  refine (if_neg ?_).trans ?_
  · exact fun h1 => absurd h1 (fld_ne 0 9 (by decide) (show fld w0 0 9 = 2#9 from g0 4 rfl) (by decide))
  refine (if_neg ?_).trans ?_
  · exact fun h1 => absurd h1 (fun e => absurd ((show fld w0 0 9 = 2#9 from g0 4 rfl).symm.trans e) (by decide))
  refine (if_pos ?_).trans ?_
  · exact g0 4 rfl
  show (Except.ok (.qsteal (fld w0 27 3) (fld w0 15 6) (fld w0 9 6)) : Except Reject Instr) = _
  rw [show fld w0 27 3 = t from g0 0 rfl, show fld w0 15 6 = d from g0 2 rfl, show fld w0 9 6 = a from g0 3 rfl]

theorem RoundTrip.qlen (t : BitVec 3) (d : BitVec 6) : RoundTrip.Statement (.qlen t d) := by
  intro w0 h0 hf0
  have g0 {x : Field} := @Field.get w0 [⟨27, t⟩, ⟨21, 58#6⟩, ⟨15, d⟩, ⟨0, 3#15⟩] (Option.some.inj h0).symm rfl x
  have he : wordEngine w0 = .s := by rw [wordEngine, show fld w0 30 2 = 0#2 from Field.zero (fs := [⟨27, t⟩, ⟨21, 58#6⟩, ⟨15, d⟩, ⟨0, 3#15⟩]) (Option.some.inj h0).symm rfl 30 2 rfl]; rfl
  refine decodeWord_of .s he ?_ hf0
  show decodeS w0 = _
  unfold decodeS
  rw [show wordOp w0 = 58 from congrArg BitVec.toNat (g0 1 rfl)]
  refine (if_neg ?_).trans ?_
  · exact fun h1 => absurd h1.2 (fun e => absurd ((fld_part (show fld w0 0 15 = 3#15 from g0 3 rfl) 0 9 (by decide)).symm.trans e) (by decide))
  refine (if_pos ?_).trans ?_
  · exact g0 3 rfl
  show (Except.ok (.qlen (fld w0 27 3) (fld w0 15 6)) : Except Reject Instr) = _
  rw [show fld w0 27 3 = t from g0 0 rfl, show fld w0 15 6 = d from g0 2 rfl]

theorem RoundTrip.wnext (t : BitVec 3) (d : BitVec 6) : RoundTrip.Statement (.wnext t d) := by
  intro w0 h0 hf0
  have g0 {x : Field} := @Field.get w0 [⟨27, t⟩, ⟨21, 58#6⟩, ⟨15, d⟩, ⟨0, 4#15⟩] (Option.some.inj h0).symm rfl x
  have he : wordEngine w0 = .s := by rw [wordEngine, show fld w0 30 2 = 0#2 from Field.zero (fs := [⟨27, t⟩, ⟨21, 58#6⟩, ⟨15, d⟩, ⟨0, 4#15⟩]) (Option.some.inj h0).symm rfl 30 2 rfl]; rfl
  refine decodeWord_of .s he ?_ hf0
  show decodeS w0 = _
  unfold decodeS
  rw [show wordOp w0 = 58 from congrArg BitVec.toNat (g0 1 rfl)]
  refine (if_neg ?_).trans ?_
  · exact fun h1 => absurd h1.2 (fun e => absurd ((fld_part (show fld w0 0 15 = 4#15 from g0 3 rfl) 0 9 (by decide)).symm.trans e) (by decide))
  refine (if_neg ?_).trans ?_
  · exact fun h1 => absurd h1 (fun e => absurd ((show fld w0 0 15 = 4#15 from g0 3 rfl).symm.trans e) (by decide))
  refine (if_pos ?_).trans ?_
  · exact g0 3 rfl
  show (Except.ok (.wnext (fld w0 27 3) (fld w0 15 6)) : Except Reject Instr) = _
  rw [show fld w0 27 3 = t from g0 0 rfl, show fld w0 15 6 = d from g0 2 rfl]

theorem RoundTrip.rspawn (t : BitVec 3) (d : BitVec 6) (a : BitVec 6) : RoundTrip.Statement (.rspawn t d a) := by
  intro w0 h0 hf0
  have g0 {x : Field} := @Field.get w0 [⟨27, t⟩, ⟨21, 58#6⟩, ⟨15, d⟩, ⟨9, a⟩, ⟨0, 5#9⟩] (Option.some.inj h0).symm rfl x
  have he : wordEngine w0 = .s := by rw [wordEngine, show fld w0 30 2 = 0#2 from Field.zero (fs := [⟨27, t⟩, ⟨21, 58#6⟩, ⟨15, d⟩, ⟨9, a⟩, ⟨0, 5#9⟩]) (Option.some.inj h0).symm rfl 30 2 rfl]; rfl
  refine decodeWord_of .s he ?_ hf0
  show decodeS w0 = _
  unfold decodeS
  rw [show wordOp w0 = 58 from congrArg BitVec.toNat (g0 1 rfl)]
  refine (if_neg ?_).trans ?_
  · exact fun h1 => absurd h1.2 (fun e => absurd ((show fld w0 0 9 = 5#9 from g0 4 rfl).symm.trans e) (by decide))
  refine (if_neg ?_).trans ?_
  · exact fun h1 => absurd h1 (fld_ne 0 9 (by decide) (show fld w0 0 9 = 5#9 from g0 4 rfl) (by decide))
  refine (if_neg ?_).trans ?_
  · exact fun h1 => absurd h1 (fld_ne 0 9 (by decide) (show fld w0 0 9 = 5#9 from g0 4 rfl) (by decide))
  refine (if_neg ?_).trans ?_
  · exact fun h1 => absurd h1 (fun e => absurd ((show fld w0 0 9 = 5#9 from g0 4 rfl).symm.trans e) (by decide))
  refine (if_neg ?_).trans ?_
  · exact fun h1 => absurd h1 (fun e => absurd ((show fld w0 0 9 = 5#9 from g0 4 rfl).symm.trans e) (by decide))
  refine (if_pos ?_).trans ?_
  · exact g0 4 rfl
  show (Except.ok (.rspawn (fld w0 27 3) (fld w0 15 6) (fld w0 9 6)) : Except Reject Instr) = _
  rw [show fld w0 27 3 = t from g0 0 rfl, show fld w0 15 6 = d from g0 2 rfl, show fld w0 9 6 = a from g0 3 rfl]

theorem RoundTrip.tsyncJoin (t : BitVec 3) (h : BitVec 3) (a : BitVec 6) (b : BitVec 6) : RoundTrip.Statement (.tsyncJoin t h a b) := by
  intro w0 h0 hf0
  have g0 {x : Field} := @Field.get w0 [⟨27, t⟩, ⟨21, 58#6⟩, ⟨15, h⟩, ⟨9, a⟩, ⟨3, b⟩, ⟨0, 6#3⟩] (Option.some.inj h0).symm rfl x
  have he : wordEngine w0 = .s := by rw [wordEngine, show fld w0 30 2 = 0#2 from Field.zero (fs := [⟨27, t⟩, ⟨21, 58#6⟩, ⟨15, h⟩, ⟨9, a⟩, ⟨3, b⟩, ⟨0, 6#3⟩]) (Option.some.inj h0).symm rfl 30 2 rfl]; rfl
  refine decodeWord_of .s he ?_ hf0
  show decodeS w0 = _
  unfold decodeS
  rw [show wordOp w0 = 58 from congrArg BitVec.toNat (g0 1 rfl)]
  refine (if_neg ?_).trans ?_
  · exact fun h1 => absurd h1.2 (fld_ne 0 3 (by decide) (show fld w0 0 3 = 6#3 from g0 5 rfl) (by decide))
  refine (if_neg ?_).trans ?_
  · exact fun h1 => absurd h1 (fld_ne 0 3 (by decide) (show fld w0 0 3 = 6#3 from g0 5 rfl) (by decide))
  refine (if_neg ?_).trans ?_
  · exact fun h1 => absurd h1 (fld_ne 0 3 (by decide) (show fld w0 0 3 = 6#3 from g0 5 rfl) (by decide))
  refine (if_neg ?_).trans ?_
  · exact fun h1 => absurd h1 (fld_ne 0 3 (by decide) (show fld w0 0 3 = 6#3 from g0 5 rfl) (by decide))
  refine (if_neg ?_).trans ?_
  · exact fun h1 => absurd h1 (fld_ne 0 3 (by decide) (show fld w0 0 3 = 6#3 from g0 5 rfl) (by decide))
  refine (if_neg ?_).trans ?_
  · exact fun h1 => absurd h1 (fld_ne 0 3 (by decide) (show fld w0 0 3 = 6#3 from g0 5 rfl) (by decide))
  refine (if_pos ?_).trans ?_
  · exact ⟨Field.zero (fs := [⟨27, t⟩, ⟨21, 58#6⟩, ⟨15, h⟩, ⟨9, a⟩, ⟨3, b⟩, ⟨0, 6#3⟩]) (Option.some.inj h0).symm rfl 18 3 rfl, g0 5 rfl⟩
  show (Except.ok (.tsyncJoin (fld w0 27 3) (fld w0 15 3) (fld w0 9 6) (fld w0 3 6)) : Except Reject Instr) = _
  rw [show fld w0 27 3 = t from g0 0 rfl, show fld w0 15 3 = h from g0 2 rfl, show fld w0 9 6 = a from g0 3 rfl, show fld w0 3 6 = b from g0 4 rfl]

theorem RoundTrip.tsyncArrive (t : BitVec 3) (h : BitVec 3) (a : BitVec 6) (b : BitVec 6) : RoundTrip.Statement (.tsyncArrive t h a b) := by
  intro w0 h0 hf0
  have g0 {x : Field} := @Field.get w0 [⟨27, t⟩, ⟨21, 58#6⟩, ⟨18, 1#3⟩, ⟨15, h⟩, ⟨9, a⟩, ⟨3, b⟩, ⟨0, 6#3⟩] (Option.some.inj h0).symm rfl x
  have he : wordEngine w0 = .s := by rw [wordEngine, show fld w0 30 2 = 0#2 from Field.zero (fs := [⟨27, t⟩, ⟨21, 58#6⟩, ⟨18, 1#3⟩, ⟨15, h⟩, ⟨9, a⟩, ⟨3, b⟩, ⟨0, 6#3⟩]) (Option.some.inj h0).symm rfl 30 2 rfl]; rfl
  refine decodeWord_of .s he ?_ hf0
  show decodeS w0 = _
  unfold decodeS
  rw [show wordOp w0 = 58 from congrArg BitVec.toNat (g0 1 rfl)]
  refine (if_neg ?_).trans ?_
  · exact fun h1 => absurd h1.1 (fld_ne 3 3 (by decide) (show fld w0 18 3 = 1#3 from g0 2 rfl) (by decide))
  refine (if_neg ?_).trans ?_
  · exact fun h1 => absurd h1 (fld_ne 0 3 (by decide) (show fld w0 0 3 = 6#3 from g0 6 rfl) (by decide))
  refine (if_neg ?_).trans ?_
  · exact fun h1 => absurd h1 (fld_ne 0 3 (by decide) (show fld w0 0 3 = 6#3 from g0 6 rfl) (by decide))
  refine (if_neg ?_).trans ?_
  · exact fun h1 => absurd h1 (fld_ne 0 3 (by decide) (show fld w0 0 3 = 6#3 from g0 6 rfl) (by decide))
  refine (if_neg ?_).trans ?_
  · exact fun h1 => absurd h1 (fld_ne 0 3 (by decide) (show fld w0 0 3 = 6#3 from g0 6 rfl) (by decide))
  refine (if_neg ?_).trans ?_
  · exact fun h1 => absurd h1 (fld_ne 0 3 (by decide) (show fld w0 0 3 = 6#3 from g0 6 rfl) (by decide))
  refine (if_neg ?_).trans ?_
  · exact fun h1 => absurd h1.1 (fun e => absurd ((show fld w0 18 3 = 1#3 from g0 2 rfl).symm.trans e) (by decide))
  refine (if_pos ?_).trans ?_
  · exact ⟨g0 2 rfl, g0 6 rfl⟩
  show (Except.ok (.tsyncArrive (fld w0 27 3) (fld w0 15 3) (fld w0 9 6) (fld w0 3 6)) : Except Reject Instr) = _
  rw [show fld w0 27 3 = t from g0 0 rfl, show fld w0 15 3 = h from g0 3 rfl, show fld w0 9 6 = a from g0 4 rfl, show fld w0 3 6 = b from g0 5 rfl]

theorem RoundTrip.vadd (t : BitVec 3) (e : BitVec 3) (y : BitVec 2) (d : BitVec 5) (a : BitVec 5) (b : BitVec 5) : RoundTrip.Statement (.vadd t e y d a b) := by
  intro w0 h0 hf0
  have g0 {x : Field} := @Field.get w0 [⟨30, 1#2⟩, ⟨27, t⟩, ⟨21, 1#6⟩, ⟨18, e⟩, ⟨16, y⟩, ⟨11, d⟩, ⟨6, a⟩, ⟨1, b⟩] (Option.some.inj h0).symm rfl x
  have he : wordEngine w0 = .v := by rw [wordEngine, show fld w0 30 2 = 1#2 from g0 0 rfl]; rfl
  refine decodeWord_of .v he ?_ hf0
  show decodeV w0 = _
  unfold decodeV
  rw [show wordOp w0 = 1 from congrArg BitVec.toNat (g0 2 rfl)]
  refine (if_pos ?_).trans ?_
  · exact Field.zero (fs := [⟨30, 1#2⟩, ⟨27, t⟩, ⟨21, 1#6⟩, ⟨18, e⟩, ⟨16, y⟩, ⟨11, d⟩, ⟨6, a⟩, ⟨1, b⟩]) (Option.some.inj h0).symm rfl 0 1 rfl
  show (Except.ok (.vadd (fld w0 27 3) (fld w0 18 3) (fld w0 16 2) (fld w0 11 5) (fld w0 6 5) (fld w0 1 5)) : Except Reject Instr) = _
  rw [show fld w0 27 3 = t from g0 1 rfl, show fld w0 18 3 = e from g0 3 rfl, show fld w0 16 2 = y from g0 4 rfl, show fld w0 11 5 = d from g0 5 rfl, show fld w0 6 5 = a from g0 6 rfl, show fld w0 1 5 = b from g0 7 rfl]

theorem RoundTrip.vsub (t : BitVec 3) (e : BitVec 3) (y : BitVec 2) (d : BitVec 5) (a : BitVec 5) (b : BitVec 5) : RoundTrip.Statement (.vsub t e y d a b) := by
  intro w0 h0 hf0
  have g0 {x : Field} := @Field.get w0 [⟨30, 1#2⟩, ⟨27, t⟩, ⟨21, 2#6⟩, ⟨18, e⟩, ⟨16, y⟩, ⟨11, d⟩, ⟨6, a⟩, ⟨1, b⟩] (Option.some.inj h0).symm rfl x
  have he : wordEngine w0 = .v := by rw [wordEngine, show fld w0 30 2 = 1#2 from g0 0 rfl]; rfl
  refine decodeWord_of .v he ?_ hf0
  show decodeV w0 = _
  unfold decodeV
  rw [show wordOp w0 = 2 from congrArg BitVec.toNat (g0 2 rfl)]
  refine (if_pos ?_).trans ?_
  · exact Field.zero (fs := [⟨30, 1#2⟩, ⟨27, t⟩, ⟨21, 2#6⟩, ⟨18, e⟩, ⟨16, y⟩, ⟨11, d⟩, ⟨6, a⟩, ⟨1, b⟩]) (Option.some.inj h0).symm rfl 0 1 rfl
  show (Except.ok (.vsub (fld w0 27 3) (fld w0 18 3) (fld w0 16 2) (fld w0 11 5) (fld w0 6 5) (fld w0 1 5)) : Except Reject Instr) = _
  rw [show fld w0 27 3 = t from g0 1 rfl, show fld w0 18 3 = e from g0 3 rfl, show fld w0 16 2 = y from g0 4 rfl, show fld w0 11 5 = d from g0 5 rfl, show fld w0 6 5 = a from g0 6 rfl, show fld w0 1 5 = b from g0 7 rfl]

theorem RoundTrip.vmul (t : BitVec 3) (e : BitVec 3) (y : BitVec 2) (d : BitVec 5) (a : BitVec 5) (b : BitVec 5) : RoundTrip.Statement (.vmul t e y d a b) := by
  intro w0 h0 hf0
  have g0 {x : Field} := @Field.get w0 [⟨30, 1#2⟩, ⟨27, t⟩, ⟨21, 3#6⟩, ⟨18, e⟩, ⟨16, y⟩, ⟨11, d⟩, ⟨6, a⟩, ⟨1, b⟩] (Option.some.inj h0).symm rfl x
  have he : wordEngine w0 = .v := by rw [wordEngine, show fld w0 30 2 = 1#2 from g0 0 rfl]; rfl
  refine decodeWord_of .v he ?_ hf0
  show decodeV w0 = _
  unfold decodeV
  rw [show wordOp w0 = 3 from congrArg BitVec.toNat (g0 2 rfl)]
  refine (if_pos ?_).trans ?_
  · exact Field.zero (fs := [⟨30, 1#2⟩, ⟨27, t⟩, ⟨21, 3#6⟩, ⟨18, e⟩, ⟨16, y⟩, ⟨11, d⟩, ⟨6, a⟩, ⟨1, b⟩]) (Option.some.inj h0).symm rfl 0 1 rfl
  show (Except.ok (.vmul (fld w0 27 3) (fld w0 18 3) (fld w0 16 2) (fld w0 11 5) (fld w0 6 5) (fld w0 1 5)) : Except Reject Instr) = _
  rw [show fld w0 27 3 = t from g0 1 rfl, show fld w0 18 3 = e from g0 3 rfl, show fld w0 16 2 = y from g0 4 rfl, show fld w0 11 5 = d from g0 5 rfl, show fld w0 6 5 = a from g0 6 rfl, show fld w0 1 5 = b from g0 7 rfl]

theorem RoundTrip.vfma (t : BitVec 3) (e : BitVec 3) (y : BitVec 2) (d : BitVec 5) (a : BitVec 5) (b : BitVec 5) : RoundTrip.Statement (.vfma t e y d a b) := by
  intro w0 h0 hf0
  have g0 {x : Field} := @Field.get w0 [⟨30, 1#2⟩, ⟨27, t⟩, ⟨21, 4#6⟩, ⟨18, e⟩, ⟨16, y⟩, ⟨11, d⟩, ⟨6, a⟩, ⟨1, b⟩] (Option.some.inj h0).symm rfl x
  have he : wordEngine w0 = .v := by rw [wordEngine, show fld w0 30 2 = 1#2 from g0 0 rfl]; rfl
  refine decodeWord_of .v he ?_ hf0
  show decodeV w0 = _
  unfold decodeV
  rw [show wordOp w0 = 4 from congrArg BitVec.toNat (g0 2 rfl)]
  refine (if_pos ?_).trans ?_
  · exact Field.zero (fs := [⟨30, 1#2⟩, ⟨27, t⟩, ⟨21, 4#6⟩, ⟨18, e⟩, ⟨16, y⟩, ⟨11, d⟩, ⟨6, a⟩, ⟨1, b⟩]) (Option.some.inj h0).symm rfl 0 1 rfl
  show (Except.ok (.vfma (fld w0 27 3) (fld w0 18 3) (fld w0 16 2) (fld w0 11 5) (fld w0 6 5) (fld w0 1 5)) : Except Reject Instr) = _
  rw [show fld w0 27 3 = t from g0 1 rfl, show fld w0 18 3 = e from g0 3 rfl, show fld w0 16 2 = y from g0 4 rfl, show fld w0 11 5 = d from g0 5 rfl, show fld w0 6 5 = a from g0 6 rfl, show fld w0 1 5 = b from g0 7 rfl]

theorem RoundTrip.vfms (t : BitVec 3) (e : BitVec 3) (y : BitVec 2) (d : BitVec 5) (a : BitVec 5) (b : BitVec 5) : RoundTrip.Statement (.vfms t e y d a b) := by
  intro w0 h0 hf0
  have g0 {x : Field} := @Field.get w0 [⟨30, 1#2⟩, ⟨27, t⟩, ⟨21, 5#6⟩, ⟨18, e⟩, ⟨16, y⟩, ⟨11, d⟩, ⟨6, a⟩, ⟨1, b⟩] (Option.some.inj h0).symm rfl x
  have he : wordEngine w0 = .v := by rw [wordEngine, show fld w0 30 2 = 1#2 from g0 0 rfl]; rfl
  refine decodeWord_of .v he ?_ hf0
  show decodeV w0 = _
  unfold decodeV
  rw [show wordOp w0 = 5 from congrArg BitVec.toNat (g0 2 rfl)]
  refine (if_pos ?_).trans ?_
  · exact Field.zero (fs := [⟨30, 1#2⟩, ⟨27, t⟩, ⟨21, 5#6⟩, ⟨18, e⟩, ⟨16, y⟩, ⟨11, d⟩, ⟨6, a⟩, ⟨1, b⟩]) (Option.some.inj h0).symm rfl 0 1 rfl
  show (Except.ok (.vfms (fld w0 27 3) (fld w0 18 3) (fld w0 16 2) (fld w0 11 5) (fld w0 6 5) (fld w0 1 5)) : Except Reject Instr) = _
  rw [show fld w0 27 3 = t from g0 1 rfl, show fld w0 18 3 = e from g0 3 rfl, show fld w0 16 2 = y from g0 4 rfl, show fld w0 11 5 = d from g0 5 rfl, show fld w0 6 5 = a from g0 6 rfl, show fld w0 1 5 = b from g0 7 rfl]

theorem RoundTrip.vfnma (t : BitVec 3) (e : BitVec 3) (y : BitVec 2) (d : BitVec 5) (a : BitVec 5) (b : BitVec 5) : RoundTrip.Statement (.vfnma t e y d a b) := by
  intro w0 h0 hf0
  have g0 {x : Field} := @Field.get w0 [⟨30, 1#2⟩, ⟨27, t⟩, ⟨21, 6#6⟩, ⟨18, e⟩, ⟨16, y⟩, ⟨11, d⟩, ⟨6, a⟩, ⟨1, b⟩] (Option.some.inj h0).symm rfl x
  have he : wordEngine w0 = .v := by rw [wordEngine, show fld w0 30 2 = 1#2 from g0 0 rfl]; rfl
  refine decodeWord_of .v he ?_ hf0
  show decodeV w0 = _
  unfold decodeV
  rw [show wordOp w0 = 6 from congrArg BitVec.toNat (g0 2 rfl)]
  refine (if_pos ?_).trans ?_
  · exact Field.zero (fs := [⟨30, 1#2⟩, ⟨27, t⟩, ⟨21, 6#6⟩, ⟨18, e⟩, ⟨16, y⟩, ⟨11, d⟩, ⟨6, a⟩, ⟨1, b⟩]) (Option.some.inj h0).symm rfl 0 1 rfl
  show (Except.ok (.vfnma (fld w0 27 3) (fld w0 18 3) (fld w0 16 2) (fld w0 11 5) (fld w0 6 5) (fld w0 1 5)) : Except Reject Instr) = _
  rw [show fld w0 27 3 = t from g0 1 rfl, show fld w0 18 3 = e from g0 3 rfl, show fld w0 16 2 = y from g0 4 rfl, show fld w0 11 5 = d from g0 5 rfl, show fld w0 6 5 = a from g0 6 rfl, show fld w0 1 5 = b from g0 7 rfl]

theorem RoundTrip.vmin (t : BitVec 3) (e : BitVec 3) (y : BitVec 2) (d : BitVec 5) (a : BitVec 5) (b : BitVec 5) : RoundTrip.Statement (.vmin t e y d a b) := by
  intro w0 h0 hf0
  have g0 {x : Field} := @Field.get w0 [⟨30, 1#2⟩, ⟨27, t⟩, ⟨21, 7#6⟩, ⟨18, e⟩, ⟨16, y⟩, ⟨11, d⟩, ⟨6, a⟩, ⟨1, b⟩] (Option.some.inj h0).symm rfl x
  have he : wordEngine w0 = .v := by rw [wordEngine, show fld w0 30 2 = 1#2 from g0 0 rfl]; rfl
  refine decodeWord_of .v he ?_ hf0
  show decodeV w0 = _
  unfold decodeV
  rw [show wordOp w0 = 7 from congrArg BitVec.toNat (g0 2 rfl)]
  refine (if_pos ?_).trans ?_
  · exact Field.zero (fs := [⟨30, 1#2⟩, ⟨27, t⟩, ⟨21, 7#6⟩, ⟨18, e⟩, ⟨16, y⟩, ⟨11, d⟩, ⟨6, a⟩, ⟨1, b⟩]) (Option.some.inj h0).symm rfl 0 1 rfl
  show (Except.ok (.vmin (fld w0 27 3) (fld w0 18 3) (fld w0 16 2) (fld w0 11 5) (fld w0 6 5) (fld w0 1 5)) : Except Reject Instr) = _
  rw [show fld w0 27 3 = t from g0 1 rfl, show fld w0 18 3 = e from g0 3 rfl, show fld w0 16 2 = y from g0 4 rfl, show fld w0 11 5 = d from g0 5 rfl, show fld w0 6 5 = a from g0 6 rfl, show fld w0 1 5 = b from g0 7 rfl]

theorem RoundTrip.vmax (t : BitVec 3) (e : BitVec 3) (y : BitVec 2) (d : BitVec 5) (a : BitVec 5) (b : BitVec 5) : RoundTrip.Statement (.vmax t e y d a b) := by
  intro w0 h0 hf0
  have g0 {x : Field} := @Field.get w0 [⟨30, 1#2⟩, ⟨27, t⟩, ⟨21, 8#6⟩, ⟨18, e⟩, ⟨16, y⟩, ⟨11, d⟩, ⟨6, a⟩, ⟨1, b⟩] (Option.some.inj h0).symm rfl x
  have he : wordEngine w0 = .v := by rw [wordEngine, show fld w0 30 2 = 1#2 from g0 0 rfl]; rfl
  refine decodeWord_of .v he ?_ hf0
  show decodeV w0 = _
  unfold decodeV
  rw [show wordOp w0 = 8 from congrArg BitVec.toNat (g0 2 rfl)]
  refine (if_pos ?_).trans ?_
  · exact Field.zero (fs := [⟨30, 1#2⟩, ⟨27, t⟩, ⟨21, 8#6⟩, ⟨18, e⟩, ⟨16, y⟩, ⟨11, d⟩, ⟨6, a⟩, ⟨1, b⟩]) (Option.some.inj h0).symm rfl 0 1 rfl
  show (Except.ok (.vmax (fld w0 27 3) (fld w0 18 3) (fld w0 16 2) (fld w0 11 5) (fld w0 6 5) (fld w0 1 5)) : Except Reject Instr) = _
  rw [show fld w0 27 3 = t from g0 1 rfl, show fld w0 18 3 = e from g0 3 rfl, show fld w0 16 2 = y from g0 4 rfl, show fld w0 11 5 = d from g0 5 rfl, show fld w0 6 5 = a from g0 6 rfl, show fld w0 1 5 = b from g0 7 rfl]

theorem RoundTrip.vabs (t : BitVec 3) (e : BitVec 3) (y : BitVec 2) (d : BitVec 5) (a : BitVec 5) : RoundTrip.Statement (.vabs t e y d a) := by
  intro w0 h0 hf0
  have g0 {x : Field} := @Field.get w0 [⟨30, 1#2⟩, ⟨27, t⟩, ⟨21, 9#6⟩, ⟨18, e⟩, ⟨16, y⟩, ⟨11, d⟩, ⟨6, a⟩] (Option.some.inj h0).symm rfl x
  have he : wordEngine w0 = .v := by rw [wordEngine, show fld w0 30 2 = 1#2 from g0 0 rfl]; rfl
  refine decodeWord_of .v he ?_ hf0
  show decodeV w0 = _
  unfold decodeV
  rw [show wordOp w0 = 9 from congrArg BitVec.toNat (g0 2 rfl)]
  refine (if_pos ?_).trans ?_
  · exact Field.zero (fs := [⟨30, 1#2⟩, ⟨27, t⟩, ⟨21, 9#6⟩, ⟨18, e⟩, ⟨16, y⟩, ⟨11, d⟩, ⟨6, a⟩]) (Option.some.inj h0).symm rfl 0 6 rfl
  show (Except.ok (.vabs (fld w0 27 3) (fld w0 18 3) (fld w0 16 2) (fld w0 11 5) (fld w0 6 5)) : Except Reject Instr) = _
  rw [show fld w0 27 3 = t from g0 1 rfl, show fld w0 18 3 = e from g0 3 rfl, show fld w0 16 2 = y from g0 4 rfl, show fld w0 11 5 = d from g0 5 rfl, show fld w0 6 5 = a from g0 6 rfl]

theorem RoundTrip.vneg (t : BitVec 3) (e : BitVec 3) (y : BitVec 2) (d : BitVec 5) (a : BitVec 5) : RoundTrip.Statement (.vneg t e y d a) := by
  intro w0 h0 hf0
  have g0 {x : Field} := @Field.get w0 [⟨30, 1#2⟩, ⟨27, t⟩, ⟨21, 10#6⟩, ⟨18, e⟩, ⟨16, y⟩, ⟨11, d⟩, ⟨6, a⟩] (Option.some.inj h0).symm rfl x
  have he : wordEngine w0 = .v := by rw [wordEngine, show fld w0 30 2 = 1#2 from g0 0 rfl]; rfl
  refine decodeWord_of .v he ?_ hf0
  show decodeV w0 = _
  unfold decodeV
  rw [show wordOp w0 = 10 from congrArg BitVec.toNat (g0 2 rfl)]
  refine (if_pos ?_).trans ?_
  · exact Field.zero (fs := [⟨30, 1#2⟩, ⟨27, t⟩, ⟨21, 10#6⟩, ⟨18, e⟩, ⟨16, y⟩, ⟨11, d⟩, ⟨6, a⟩]) (Option.some.inj h0).symm rfl 0 6 rfl
  show (Except.ok (.vneg (fld w0 27 3) (fld w0 18 3) (fld w0 16 2) (fld w0 11 5) (fld w0 6 5)) : Except Reject Instr) = _
  rw [show fld w0 27 3 = t from g0 1 rfl, show fld w0 18 3 = e from g0 3 rfl, show fld w0 16 2 = y from g0 4 rfl, show fld w0 11 5 = d from g0 5 rfl, show fld w0 6 5 = a from g0 6 rfl]

theorem RoundTrip.vrcp (t : BitVec 3) (e : BitVec 3) (d : BitVec 5) (a : BitVec 5) : RoundTrip.Statement (.vrcp t e d a) := by
  intro w0 h0 hf0
  have g0 {x : Field} := @Field.get w0 [⟨30, 1#2⟩, ⟨27, t⟩, ⟨21, 11#6⟩, ⟨18, e⟩, ⟨11, d⟩, ⟨6, a⟩] (Option.some.inj h0).symm rfl x
  have he : wordEngine w0 = .v := by rw [wordEngine, show fld w0 30 2 = 1#2 from g0 0 rfl]; rfl
  refine decodeWord_of .v he ?_ hf0
  show decodeV w0 = _
  unfold decodeV
  rw [show wordOp w0 = 11 from congrArg BitVec.toNat (g0 2 rfl)]
  refine (if_pos ?_).trans ?_
  · exact ⟨Field.zero (fs := [⟨30, 1#2⟩, ⟨27, t⟩, ⟨21, 11#6⟩, ⟨18, e⟩, ⟨11, d⟩, ⟨6, a⟩]) (Option.some.inj h0).symm rfl 16 2 rfl, Field.zero (fs := [⟨30, 1#2⟩, ⟨27, t⟩, ⟨21, 11#6⟩, ⟨18, e⟩, ⟨11, d⟩, ⟨6, a⟩]) (Option.some.inj h0).symm rfl 0 6 rfl⟩
  show (Except.ok (.vrcp (fld w0 27 3) (fld w0 18 3) (fld w0 11 5) (fld w0 6 5)) : Except Reject Instr) = _
  rw [show fld w0 27 3 = t from g0 1 rfl, show fld w0 18 3 = e from g0 3 rfl, show fld w0 11 5 = d from g0 4 rfl, show fld w0 6 5 = a from g0 5 rfl]

theorem RoundTrip.vrsq (t : BitVec 3) (e : BitVec 3) (d : BitVec 5) (a : BitVec 5) : RoundTrip.Statement (.vrsq t e d a) := by
  intro w0 h0 hf0
  have g0 {x : Field} := @Field.get w0 [⟨30, 1#2⟩, ⟨27, t⟩, ⟨21, 12#6⟩, ⟨18, e⟩, ⟨11, d⟩, ⟨6, a⟩] (Option.some.inj h0).symm rfl x
  have he : wordEngine w0 = .v := by rw [wordEngine, show fld w0 30 2 = 1#2 from g0 0 rfl]; rfl
  refine decodeWord_of .v he ?_ hf0
  show decodeV w0 = _
  unfold decodeV
  rw [show wordOp w0 = 12 from congrArg BitVec.toNat (g0 2 rfl)]
  refine (if_pos ?_).trans ?_
  · exact ⟨Field.zero (fs := [⟨30, 1#2⟩, ⟨27, t⟩, ⟨21, 12#6⟩, ⟨18, e⟩, ⟨11, d⟩, ⟨6, a⟩]) (Option.some.inj h0).symm rfl 16 2 rfl, Field.zero (fs := [⟨30, 1#2⟩, ⟨27, t⟩, ⟨21, 12#6⟩, ⟨18, e⟩, ⟨11, d⟩, ⟨6, a⟩]) (Option.some.inj h0).symm rfl 0 6 rfl⟩
  show (Except.ok (.vrsq (fld w0 27 3) (fld w0 18 3) (fld w0 11 5) (fld w0 6 5)) : Except Reject Instr) = _
  rw [show fld w0 27 3 = t from g0 1 rfl, show fld w0 18 3 = e from g0 3 rfl, show fld w0 11 5 = d from g0 4 rfl, show fld w0 6 5 = a from g0 5 rfl]

theorem RoundTrip.vex2 (t : BitVec 3) (e : BitVec 3) (d : BitVec 5) (a : BitVec 5) : RoundTrip.Statement (.vex2 t e d a) := by
  intro w0 h0 hf0
  have g0 {x : Field} := @Field.get w0 [⟨30, 1#2⟩, ⟨27, t⟩, ⟨21, 13#6⟩, ⟨18, e⟩, ⟨11, d⟩, ⟨6, a⟩] (Option.some.inj h0).symm rfl x
  have he : wordEngine w0 = .v := by rw [wordEngine, show fld w0 30 2 = 1#2 from g0 0 rfl]; rfl
  refine decodeWord_of .v he ?_ hf0
  show decodeV w0 = _
  unfold decodeV
  rw [show wordOp w0 = 13 from congrArg BitVec.toNat (g0 2 rfl)]
  refine (if_pos ?_).trans ?_
  · exact ⟨Field.zero (fs := [⟨30, 1#2⟩, ⟨27, t⟩, ⟨21, 13#6⟩, ⟨18, e⟩, ⟨11, d⟩, ⟨6, a⟩]) (Option.some.inj h0).symm rfl 16 2 rfl, Field.zero (fs := [⟨30, 1#2⟩, ⟨27, t⟩, ⟨21, 13#6⟩, ⟨18, e⟩, ⟨11, d⟩, ⟨6, a⟩]) (Option.some.inj h0).symm rfl 0 6 rfl⟩
  show (Except.ok (.vex2 (fld w0 27 3) (fld w0 18 3) (fld w0 11 5) (fld w0 6 5)) : Except Reject Instr) = _
  rw [show fld w0 27 3 = t from g0 1 rfl, show fld w0 18 3 = e from g0 3 rfl, show fld w0 11 5 = d from g0 4 rfl, show fld w0 6 5 = a from g0 5 rfl]

theorem RoundTrip.vlg2 (t : BitVec 3) (e : BitVec 3) (d : BitVec 5) (a : BitVec 5) : RoundTrip.Statement (.vlg2 t e d a) := by
  intro w0 h0 hf0
  have g0 {x : Field} := @Field.get w0 [⟨30, 1#2⟩, ⟨27, t⟩, ⟨21, 14#6⟩, ⟨18, e⟩, ⟨11, d⟩, ⟨6, a⟩] (Option.some.inj h0).symm rfl x
  have he : wordEngine w0 = .v := by rw [wordEngine, show fld w0 30 2 = 1#2 from g0 0 rfl]; rfl
  refine decodeWord_of .v he ?_ hf0
  show decodeV w0 = _
  unfold decodeV
  rw [show wordOp w0 = 14 from congrArg BitVec.toNat (g0 2 rfl)]
  refine (if_pos ?_).trans ?_
  · exact ⟨Field.zero (fs := [⟨30, 1#2⟩, ⟨27, t⟩, ⟨21, 14#6⟩, ⟨18, e⟩, ⟨11, d⟩, ⟨6, a⟩]) (Option.some.inj h0).symm rfl 16 2 rfl, Field.zero (fs := [⟨30, 1#2⟩, ⟨27, t⟩, ⟨21, 14#6⟩, ⟨18, e⟩, ⟨11, d⟩, ⟨6, a⟩]) (Option.some.inj h0).symm rfl 0 6 rfl⟩
  show (Except.ok (.vlg2 (fld w0 27 3) (fld w0 18 3) (fld w0 11 5) (fld w0 6 5)) : Except Reject Instr) = _
  rw [show fld w0 27 3 = t from g0 1 rfl, show fld w0 18 3 = e from g0 3 rfl, show fld w0 11 5 = d from g0 4 rfl, show fld w0 6 5 = a from g0 5 rfl]

theorem RoundTrip.viadd (t : BitVec 3) (e : BitVec 3) (y : BitVec 2) (d : BitVec 5) (a : BitVec 5) (b : BitVec 5) (f : BitVec 1) : RoundTrip.Statement (.viadd t e y d a b f) := by
  intro w0 h0 hf0
  have g0 {x : Field} := @Field.get w0 [⟨30, 1#2⟩, ⟨27, t⟩, ⟨21, 16#6⟩, ⟨18, e⟩, ⟨16, y⟩, ⟨11, d⟩, ⟨6, a⟩, ⟨1, b⟩, ⟨0, f⟩] (Option.some.inj h0).symm rfl x
  have he : wordEngine w0 = .v := by rw [wordEngine, show fld w0 30 2 = 1#2 from g0 0 rfl]; rfl
  refine decodeWord_of .v he ?_ hf0
  show decodeV w0 = _
  unfold decodeV
  rw [show wordOp w0 = 16 from congrArg BitVec.toNat (g0 2 rfl)]
  show (Except.ok (.viadd (fld w0 27 3) (fld w0 18 3) (fld w0 16 2) (fld w0 11 5) (fld w0 6 5) (fld w0 1 5) (fld w0 0 1)) : Except Reject Instr) = _
  rw [show fld w0 27 3 = t from g0 1 rfl, show fld w0 18 3 = e from g0 3 rfl, show fld w0 16 2 = y from g0 4 rfl, show fld w0 11 5 = d from g0 5 rfl, show fld w0 6 5 = a from g0 6 rfl, show fld w0 1 5 = b from g0 7 rfl, show fld w0 0 1 = f from g0 8 rfl]

theorem RoundTrip.visub (t : BitVec 3) (e : BitVec 3) (y : BitVec 2) (d : BitVec 5) (a : BitVec 5) (b : BitVec 5) (f : BitVec 1) : RoundTrip.Statement (.visub t e y d a b f) := by
  intro w0 h0 hf0
  have g0 {x : Field} := @Field.get w0 [⟨30, 1#2⟩, ⟨27, t⟩, ⟨21, 17#6⟩, ⟨18, e⟩, ⟨16, y⟩, ⟨11, d⟩, ⟨6, a⟩, ⟨1, b⟩, ⟨0, f⟩] (Option.some.inj h0).symm rfl x
  have he : wordEngine w0 = .v := by rw [wordEngine, show fld w0 30 2 = 1#2 from g0 0 rfl]; rfl
  refine decodeWord_of .v he ?_ hf0
  show decodeV w0 = _
  unfold decodeV
  rw [show wordOp w0 = 17 from congrArg BitVec.toNat (g0 2 rfl)]
  show (Except.ok (.visub (fld w0 27 3) (fld w0 18 3) (fld w0 16 2) (fld w0 11 5) (fld w0 6 5) (fld w0 1 5) (fld w0 0 1)) : Except Reject Instr) = _
  rw [show fld w0 27 3 = t from g0 1 rfl, show fld w0 18 3 = e from g0 3 rfl, show fld w0 16 2 = y from g0 4 rfl, show fld w0 11 5 = d from g0 5 rfl, show fld w0 6 5 = a from g0 6 rfl, show fld w0 1 5 = b from g0 7 rfl, show fld w0 0 1 = f from g0 8 rfl]

theorem RoundTrip.vimul (t : BitVec 3) (e : BitVec 3) (y : BitVec 2) (d : BitVec 5) (a : BitVec 5) (b : BitVec 5) : RoundTrip.Statement (.vimul t e y d a b) := by
  intro w0 h0 hf0
  have g0 {x : Field} := @Field.get w0 [⟨30, 1#2⟩, ⟨27, t⟩, ⟨21, 18#6⟩, ⟨18, e⟩, ⟨16, y⟩, ⟨11, d⟩, ⟨6, a⟩, ⟨1, b⟩] (Option.some.inj h0).symm rfl x
  have he : wordEngine w0 = .v := by rw [wordEngine, show fld w0 30 2 = 1#2 from g0 0 rfl]; rfl
  refine decodeWord_of .v he ?_ hf0
  show decodeV w0 = _
  unfold decodeV
  rw [show wordOp w0 = 18 from congrArg BitVec.toNat (g0 2 rfl)]
  refine (if_pos ?_).trans ?_
  · exact Field.zero (fs := [⟨30, 1#2⟩, ⟨27, t⟩, ⟨21, 18#6⟩, ⟨18, e⟩, ⟨16, y⟩, ⟨11, d⟩, ⟨6, a⟩, ⟨1, b⟩]) (Option.some.inj h0).symm rfl 0 1 rfl
  show (Except.ok (.vimul (fld w0 27 3) (fld w0 18 3) (fld w0 16 2) (fld w0 11 5) (fld w0 6 5) (fld w0 1 5)) : Except Reject Instr) = _
  rw [show fld w0 27 3 = t from g0 1 rfl, show fld w0 18 3 = e from g0 3 rfl, show fld w0 16 2 = y from g0 4 rfl, show fld w0 11 5 = d from g0 5 rfl, show fld w0 6 5 = a from g0 6 rfl, show fld w0 1 5 = b from g0 7 rfl]

theorem RoundTrip.vimad (t : BitVec 3) (e : BitVec 3) (y : BitVec 2) (d : BitVec 5) (a : BitVec 5) (b : BitVec 5) : RoundTrip.Statement (.vimad t e y d a b) := by
  intro w0 h0 hf0
  have g0 {x : Field} := @Field.get w0 [⟨30, 1#2⟩, ⟨27, t⟩, ⟨21, 19#6⟩, ⟨18, e⟩, ⟨16, y⟩, ⟨11, d⟩, ⟨6, a⟩, ⟨1, b⟩] (Option.some.inj h0).symm rfl x
  have he : wordEngine w0 = .v := by rw [wordEngine, show fld w0 30 2 = 1#2 from g0 0 rfl]; rfl
  refine decodeWord_of .v he ?_ hf0
  show decodeV w0 = _
  unfold decodeV
  rw [show wordOp w0 = 19 from congrArg BitVec.toNat (g0 2 rfl)]
  refine (if_pos ?_).trans ?_
  · exact Field.zero (fs := [⟨30, 1#2⟩, ⟨27, t⟩, ⟨21, 19#6⟩, ⟨18, e⟩, ⟨16, y⟩, ⟨11, d⟩, ⟨6, a⟩, ⟨1, b⟩]) (Option.some.inj h0).symm rfl 0 1 rfl
  show (Except.ok (.vimad (fld w0 27 3) (fld w0 18 3) (fld w0 16 2) (fld w0 11 5) (fld w0 6 5) (fld w0 1 5)) : Except Reject Instr) = _
  rw [show fld w0 27 3 = t from g0 1 rfl, show fld w0 18 3 = e from g0 3 rfl, show fld w0 16 2 = y from g0 4 rfl, show fld w0 11 5 = d from g0 5 rfl, show fld w0 6 5 = a from g0 6 rfl, show fld w0 1 5 = b from g0 7 rfl]

theorem RoundTrip.vand (t : BitVec 3) (e : BitVec 3) (y : BitVec 2) (d : BitVec 5) (a : BitVec 5) (b : BitVec 5) : RoundTrip.Statement (.vand t e y d a b) := by
  intro w0 h0 hf0
  have g0 {x : Field} := @Field.get w0 [⟨30, 1#2⟩, ⟨27, t⟩, ⟨21, 20#6⟩, ⟨18, e⟩, ⟨16, y⟩, ⟨11, d⟩, ⟨6, a⟩, ⟨1, b⟩] (Option.some.inj h0).symm rfl x
  have he : wordEngine w0 = .v := by rw [wordEngine, show fld w0 30 2 = 1#2 from g0 0 rfl]; rfl
  refine decodeWord_of .v he ?_ hf0
  show decodeV w0 = _
  unfold decodeV
  rw [show wordOp w0 = 20 from congrArg BitVec.toNat (g0 2 rfl)]
  refine (if_pos ?_).trans ?_
  · exact Field.zero (fs := [⟨30, 1#2⟩, ⟨27, t⟩, ⟨21, 20#6⟩, ⟨18, e⟩, ⟨16, y⟩, ⟨11, d⟩, ⟨6, a⟩, ⟨1, b⟩]) (Option.some.inj h0).symm rfl 0 1 rfl
  show (Except.ok (.vand (fld w0 27 3) (fld w0 18 3) (fld w0 16 2) (fld w0 11 5) (fld w0 6 5) (fld w0 1 5)) : Except Reject Instr) = _
  rw [show fld w0 27 3 = t from g0 1 rfl, show fld w0 18 3 = e from g0 3 rfl, show fld w0 16 2 = y from g0 4 rfl, show fld w0 11 5 = d from g0 5 rfl, show fld w0 6 5 = a from g0 6 rfl, show fld w0 1 5 = b from g0 7 rfl]

theorem RoundTrip.vor (t : BitVec 3) (e : BitVec 3) (y : BitVec 2) (d : BitVec 5) (a : BitVec 5) (b : BitVec 5) : RoundTrip.Statement (.vor t e y d a b) := by
  intro w0 h0 hf0
  have g0 {x : Field} := @Field.get w0 [⟨30, 1#2⟩, ⟨27, t⟩, ⟨21, 21#6⟩, ⟨18, e⟩, ⟨16, y⟩, ⟨11, d⟩, ⟨6, a⟩, ⟨1, b⟩] (Option.some.inj h0).symm rfl x
  have he : wordEngine w0 = .v := by rw [wordEngine, show fld w0 30 2 = 1#2 from g0 0 rfl]; rfl
  refine decodeWord_of .v he ?_ hf0
  show decodeV w0 = _
  unfold decodeV
  rw [show wordOp w0 = 21 from congrArg BitVec.toNat (g0 2 rfl)]
  refine (if_pos ?_).trans ?_
  · exact Field.zero (fs := [⟨30, 1#2⟩, ⟨27, t⟩, ⟨21, 21#6⟩, ⟨18, e⟩, ⟨16, y⟩, ⟨11, d⟩, ⟨6, a⟩, ⟨1, b⟩]) (Option.some.inj h0).symm rfl 0 1 rfl
  show (Except.ok (.vor (fld w0 27 3) (fld w0 18 3) (fld w0 16 2) (fld w0 11 5) (fld w0 6 5) (fld w0 1 5)) : Except Reject Instr) = _
  rw [show fld w0 27 3 = t from g0 1 rfl, show fld w0 18 3 = e from g0 3 rfl, show fld w0 16 2 = y from g0 4 rfl, show fld w0 11 5 = d from g0 5 rfl, show fld w0 6 5 = a from g0 6 rfl, show fld w0 1 5 = b from g0 7 rfl]

theorem RoundTrip.vxor (t : BitVec 3) (e : BitVec 3) (y : BitVec 2) (d : BitVec 5) (a : BitVec 5) (b : BitVec 5) : RoundTrip.Statement (.vxor t e y d a b) := by
  intro w0 h0 hf0
  have g0 {x : Field} := @Field.get w0 [⟨30, 1#2⟩, ⟨27, t⟩, ⟨21, 22#6⟩, ⟨18, e⟩, ⟨16, y⟩, ⟨11, d⟩, ⟨6, a⟩, ⟨1, b⟩] (Option.some.inj h0).symm rfl x
  have he : wordEngine w0 = .v := by rw [wordEngine, show fld w0 30 2 = 1#2 from g0 0 rfl]; rfl
  refine decodeWord_of .v he ?_ hf0
  show decodeV w0 = _
  unfold decodeV
  rw [show wordOp w0 = 22 from congrArg BitVec.toNat (g0 2 rfl)]
  refine (if_pos ?_).trans ?_
  · exact Field.zero (fs := [⟨30, 1#2⟩, ⟨27, t⟩, ⟨21, 22#6⟩, ⟨18, e⟩, ⟨16, y⟩, ⟨11, d⟩, ⟨6, a⟩, ⟨1, b⟩]) (Option.some.inj h0).symm rfl 0 1 rfl
  show (Except.ok (.vxor (fld w0 27 3) (fld w0 18 3) (fld w0 16 2) (fld w0 11 5) (fld w0 6 5) (fld w0 1 5)) : Except Reject Instr) = _
  rw [show fld w0 27 3 = t from g0 1 rfl, show fld w0 18 3 = e from g0 3 rfl, show fld w0 16 2 = y from g0 4 rfl, show fld w0 11 5 = d from g0 5 rfl, show fld w0 6 5 = a from g0 6 rfl, show fld w0 1 5 = b from g0 7 rfl]

theorem RoundTrip.vshl (t : BitVec 3) (e : BitVec 3) (y : BitVec 2) (d : BitVec 5) (a : BitVec 5) (b : BitVec 5) : RoundTrip.Statement (.vshl t e y d a b) := by
  intro w0 h0 hf0
  have g0 {x : Field} := @Field.get w0 [⟨30, 1#2⟩, ⟨27, t⟩, ⟨21, 23#6⟩, ⟨18, e⟩, ⟨16, y⟩, ⟨11, d⟩, ⟨6, a⟩, ⟨1, b⟩] (Option.some.inj h0).symm rfl x
  have he : wordEngine w0 = .v := by rw [wordEngine, show fld w0 30 2 = 1#2 from g0 0 rfl]; rfl
  refine decodeWord_of .v he ?_ hf0
  show decodeV w0 = _
  unfold decodeV
  rw [show wordOp w0 = 23 from congrArg BitVec.toNat (g0 2 rfl)]
  refine (if_pos ?_).trans ?_
  · exact Field.zero (fs := [⟨30, 1#2⟩, ⟨27, t⟩, ⟨21, 23#6⟩, ⟨18, e⟩, ⟨16, y⟩, ⟨11, d⟩, ⟨6, a⟩, ⟨1, b⟩]) (Option.some.inj h0).symm rfl 0 1 rfl
  show (Except.ok (.vshl (fld w0 27 3) (fld w0 18 3) (fld w0 16 2) (fld w0 11 5) (fld w0 6 5) (fld w0 1 5)) : Except Reject Instr) = _
  rw [show fld w0 27 3 = t from g0 1 rfl, show fld w0 18 3 = e from g0 3 rfl, show fld w0 16 2 = y from g0 4 rfl, show fld w0 11 5 = d from g0 5 rfl, show fld w0 6 5 = a from g0 6 rfl, show fld w0 1 5 = b from g0 7 rfl]

theorem RoundTrip.vshr (t : BitVec 3) (e : BitVec 3) (y : BitVec 2) (d : BitVec 5) (a : BitVec 5) (b : BitVec 5) : RoundTrip.Statement (.vshr t e y d a b) := by
  intro w0 h0 hf0
  have g0 {x : Field} := @Field.get w0 [⟨30, 1#2⟩, ⟨27, t⟩, ⟨21, 24#6⟩, ⟨18, e⟩, ⟨16, y⟩, ⟨11, d⟩, ⟨6, a⟩, ⟨1, b⟩] (Option.some.inj h0).symm rfl x
  have he : wordEngine w0 = .v := by rw [wordEngine, show fld w0 30 2 = 1#2 from g0 0 rfl]; rfl
  refine decodeWord_of .v he ?_ hf0
  show decodeV w0 = _
  unfold decodeV
  rw [show wordOp w0 = 24 from congrArg BitVec.toNat (g0 2 rfl)]
  refine (if_pos ?_).trans ?_
  · exact Field.zero (fs := [⟨30, 1#2⟩, ⟨27, t⟩, ⟨21, 24#6⟩, ⟨18, e⟩, ⟨16, y⟩, ⟨11, d⟩, ⟨6, a⟩, ⟨1, b⟩]) (Option.some.inj h0).symm rfl 0 1 rfl
  show (Except.ok (.vshr (fld w0 27 3) (fld w0 18 3) (fld w0 16 2) (fld w0 11 5) (fld w0 6 5) (fld w0 1 5)) : Except Reject Instr) = _
  rw [show fld w0 27 3 = t from g0 1 rfl, show fld w0 18 3 = e from g0 3 rfl, show fld w0 16 2 = y from g0 4 rfl, show fld w0 11 5 = d from g0 5 rfl, show fld w0 6 5 = a from g0 6 rfl, show fld w0 1 5 = b from g0 7 rfl]

theorem RoundTrip.vsra (t : BitVec 3) (e : BitVec 3) (y : BitVec 2) (d : BitVec 5) (a : BitVec 5) (b : BitVec 5) : RoundTrip.Statement (.vsra t e y d a b) := by
  intro w0 h0 hf0
  have g0 {x : Field} := @Field.get w0 [⟨30, 1#2⟩, ⟨27, t⟩, ⟨21, 25#6⟩, ⟨18, e⟩, ⟨16, y⟩, ⟨11, d⟩, ⟨6, a⟩, ⟨1, b⟩] (Option.some.inj h0).symm rfl x
  have he : wordEngine w0 = .v := by rw [wordEngine, show fld w0 30 2 = 1#2 from g0 0 rfl]; rfl
  refine decodeWord_of .v he ?_ hf0
  show decodeV w0 = _
  unfold decodeV
  rw [show wordOp w0 = 25 from congrArg BitVec.toNat (g0 2 rfl)]
  refine (if_pos ?_).trans ?_
  · exact Field.zero (fs := [⟨30, 1#2⟩, ⟨27, t⟩, ⟨21, 25#6⟩, ⟨18, e⟩, ⟨16, y⟩, ⟨11, d⟩, ⟨6, a⟩, ⟨1, b⟩]) (Option.some.inj h0).symm rfl 0 1 rfl
  show (Except.ok (.vsra (fld w0 27 3) (fld w0 18 3) (fld w0 16 2) (fld w0 11 5) (fld w0 6 5) (fld w0 1 5)) : Except Reject Instr) = _
  rw [show fld w0 27 3 = t from g0 1 rfl, show fld w0 18 3 = e from g0 3 rfl, show fld w0 16 2 = y from g0 4 rfl, show fld w0 11 5 = d from g0 5 rfl, show fld w0 6 5 = a from g0 6 rfl, show fld w0 1 5 = b from g0 7 rfl]

theorem RoundTrip.vimin (t : BitVec 3) (e : BitVec 3) (y : BitVec 2) (d : BitVec 5) (a : BitVec 5) (b : BitVec 5) (f : BitVec 1) : RoundTrip.Statement (.vimin t e y d a b f) := by
  intro w0 h0 hf0
  have g0 {x : Field} := @Field.get w0 [⟨30, 1#2⟩, ⟨27, t⟩, ⟨21, 26#6⟩, ⟨18, e⟩, ⟨16, y⟩, ⟨11, d⟩, ⟨6, a⟩, ⟨1, b⟩, ⟨0, f⟩] (Option.some.inj h0).symm rfl x
  have he : wordEngine w0 = .v := by rw [wordEngine, show fld w0 30 2 = 1#2 from g0 0 rfl]; rfl
  refine decodeWord_of .v he ?_ hf0
  show decodeV w0 = _
  unfold decodeV
  rw [show wordOp w0 = 26 from congrArg BitVec.toNat (g0 2 rfl)]
  show (Except.ok (.vimin (fld w0 27 3) (fld w0 18 3) (fld w0 16 2) (fld w0 11 5) (fld w0 6 5) (fld w0 1 5) (fld w0 0 1)) : Except Reject Instr) = _
  rw [show fld w0 27 3 = t from g0 1 rfl, show fld w0 18 3 = e from g0 3 rfl, show fld w0 16 2 = y from g0 4 rfl, show fld w0 11 5 = d from g0 5 rfl, show fld w0 6 5 = a from g0 6 rfl, show fld w0 1 5 = b from g0 7 rfl, show fld w0 0 1 = f from g0 8 rfl]

theorem RoundTrip.vimax (t : BitVec 3) (e : BitVec 3) (y : BitVec 2) (d : BitVec 5) (a : BitVec 5) (b : BitVec 5) (f : BitVec 1) : RoundTrip.Statement (.vimax t e y d a b f) := by
  intro w0 h0 hf0
  have g0 {x : Field} := @Field.get w0 [⟨30, 1#2⟩, ⟨27, t⟩, ⟨21, 27#6⟩, ⟨18, e⟩, ⟨16, y⟩, ⟨11, d⟩, ⟨6, a⟩, ⟨1, b⟩, ⟨0, f⟩] (Option.some.inj h0).symm rfl x
  have he : wordEngine w0 = .v := by rw [wordEngine, show fld w0 30 2 = 1#2 from g0 0 rfl]; rfl
  refine decodeWord_of .v he ?_ hf0
  show decodeV w0 = _
  unfold decodeV
  rw [show wordOp w0 = 27 from congrArg BitVec.toNat (g0 2 rfl)]
  show (Except.ok (.vimax (fld w0 27 3) (fld w0 18 3) (fld w0 16 2) (fld w0 11 5) (fld w0 6 5) (fld w0 1 5) (fld w0 0 1)) : Except Reject Instr) = _
  rw [show fld w0 27 3 = t from g0 1 rfl, show fld w0 18 3 = e from g0 3 rfl, show fld w0 16 2 = y from g0 4 rfl, show fld w0 11 5 = d from g0 5 rfl, show fld w0 6 5 = a from g0 6 rfl, show fld w0 1 5 = b from g0 7 rfl, show fld w0 0 1 = f from g0 8 rfl]

theorem RoundTrip.vcmp (t : BitVec 3) (y : BitVec 2) (c : BitVec 3) (m : BitVec 2) (a : BitVec 5) (b : BitVec 5) (f : BitVec 1) : RoundTrip.Statement (.vcmp t y c m a b f) := by
  intro w0 h0 hf0
  have g0 {x : Field} := @Field.get w0 [⟨30, 1#2⟩, ⟨27, t⟩, ⟨21, 32#6⟩, ⟨16, y⟩, ⟨13, c⟩, ⟨11, m⟩, ⟨6, a⟩, ⟨1, b⟩, ⟨0, f⟩] (Option.some.inj h0).symm rfl x
  have he : wordEngine w0 = .v := by rw [wordEngine, show fld w0 30 2 = 1#2 from g0 0 rfl]; rfl
  refine decodeWord_of .v he ?_ hf0
  show decodeV w0 = _
  unfold decodeV
  rw [show wordOp w0 = 32 from congrArg BitVec.toNat (g0 2 rfl)]
  refine (if_pos ?_).trans ?_
  · exact Field.zero (fs := [⟨30, 1#2⟩, ⟨27, t⟩, ⟨21, 32#6⟩, ⟨16, y⟩, ⟨13, c⟩, ⟨11, m⟩, ⟨6, a⟩, ⟨1, b⟩, ⟨0, f⟩]) (Option.some.inj h0).symm rfl 18 3 rfl
  show (Except.ok (.vcmp (fld w0 27 3) (fld w0 16 2) (fld w0 13 3) (fld w0 11 2) (fld w0 6 5) (fld w0 1 5) (fld w0 0 1)) : Except Reject Instr) = _
  rw [show fld w0 27 3 = t from g0 1 rfl, show fld w0 16 2 = y from g0 3 rfl, show fld w0 13 3 = c from g0 4 rfl, show fld w0 11 2 = m from g0 5 rfl, show fld w0 6 5 = a from g0 6 rfl, show fld w0 1 5 = b from g0 7 rfl, show fld w0 0 1 = f from g0 8 rfl]

theorem RoundTrip.vsel (t : BitVec 3) (e : BitVec 3) (k : BitVec 2) (d : BitVec 5) (a : BitVec 5) (b : BitVec 5) : RoundTrip.Statement (.vsel t e k d a b) := by
  intro w0 h0 hf0
  have g0 {x : Field} := @Field.get w0 [⟨30, 1#2⟩, ⟨27, t⟩, ⟨21, 33#6⟩, ⟨18, e⟩, ⟨16, k⟩, ⟨11, d⟩, ⟨6, a⟩, ⟨1, b⟩] (Option.some.inj h0).symm rfl x
  have he : wordEngine w0 = .v := by rw [wordEngine, show fld w0 30 2 = 1#2 from g0 0 rfl]; rfl
  refine decodeWord_of .v he ?_ hf0
  show decodeV w0 = _
  unfold decodeV
  rw [show wordOp w0 = 33 from congrArg BitVec.toNat (g0 2 rfl)]
  refine (if_pos ?_).trans ?_
  · exact Field.zero (fs := [⟨30, 1#2⟩, ⟨27, t⟩, ⟨21, 33#6⟩, ⟨18, e⟩, ⟨16, k⟩, ⟨11, d⟩, ⟨6, a⟩, ⟨1, b⟩]) (Option.some.inj h0).symm rfl 0 1 rfl
  show (Except.ok (.vsel (fld w0 27 3) (fld w0 18 3) (fld w0 16 2) (fld w0 11 5) (fld w0 6 5) (fld w0 1 5)) : Except Reject Instr) = _
  rw [show fld w0 27 3 = t from g0 1 rfl, show fld w0 18 3 = e from g0 3 rfl, show fld w0 16 2 = k from g0 4 rfl, show fld w0 11 5 = d from g0 5 rfl, show fld w0 6 5 = a from g0 6 rfl, show fld w0 1 5 = b from g0 7 rfl]

theorem RoundTrip.vcqAny (t : BitVec 3) (m : BitVec 2) : RoundTrip.Statement (.vcqAny t m) := by
  intro w0 h0 hf0
  have g0 {x : Field} := @Field.get w0 [⟨30, 1#2⟩, ⟨27, t⟩, ⟨21, 34#6⟩, ⟨6, m⟩] (Option.some.inj h0).symm rfl x
  have he : wordEngine w0 = .v := by rw [wordEngine, show fld w0 30 2 = 1#2 from g0 0 rfl]; rfl
  refine decodeWord_of .v he ?_ hf0
  show decodeV w0 = _
  unfold decodeV
  rw [show wordOp w0 = 34 from congrArg BitVec.toNat (g0 2 rfl)]
  refine (if_pos ?_).trans ?_
  · exact ⟨Field.zero (fs := [⟨30, 1#2⟩, ⟨27, t⟩, ⟨21, 34#6⟩, ⟨6, m⟩]) (Option.some.inj h0).symm rfl 8 13 rfl, Field.zero (fs := [⟨30, 1#2⟩, ⟨27, t⟩, ⟨21, 34#6⟩, ⟨6, m⟩]) (Option.some.inj h0).symm rfl 0 6 rfl⟩
  show (Except.ok (.vcqAny (fld w0 27 3) (fld w0 6 2)) : Except Reject Instr) = _
  rw [show fld w0 27 3 = t from g0 1 rfl, show fld w0 6 2 = m from g0 3 rfl]

theorem RoundTrip.vcqAll (t : BitVec 3) (m : BitVec 2) : RoundTrip.Statement (.vcqAll t m) := by
  intro w0 h0 hf0
  have g0 {x : Field} := @Field.get w0 [⟨30, 1#2⟩, ⟨27, t⟩, ⟨21, 34#6⟩, ⟨6, m⟩, ⟨0, 1#6⟩] (Option.some.inj h0).symm rfl x
  have he : wordEngine w0 = .v := by rw [wordEngine, show fld w0 30 2 = 1#2 from g0 0 rfl]; rfl
  refine decodeWord_of .v he ?_ hf0
  show decodeV w0 = _
  unfold decodeV
  rw [show wordOp w0 = 34 from congrArg BitVec.toNat (g0 2 rfl)]
  refine (if_neg ?_).trans ?_
  · exact fun h1 => absurd h1.2 (fun e => absurd ((show fld w0 0 6 = 1#6 from g0 4 rfl).symm.trans e) (by decide))
  refine (if_pos ?_).trans ?_
  · exact ⟨Field.zero (fs := [⟨30, 1#2⟩, ⟨27, t⟩, ⟨21, 34#6⟩, ⟨6, m⟩, ⟨0, 1#6⟩]) (Option.some.inj h0).symm rfl 8 13 rfl, g0 4 rfl⟩
  show (Except.ok (.vcqAll (fld w0 27 3) (fld w0 6 2)) : Except Reject Instr) = _
  rw [show fld w0 27 3 = t from g0 1 rfl, show fld w0 6 2 = m from g0 3 rfl]

theorem RoundTrip.vmskAnd (t : BitVec 3) (d : BitVec 2) (a : BitVec 2) (b : BitVec 2) : RoundTrip.Statement (.vmskAnd t d a b) := by
  intro w0 h0 hf0
  have g0 {x : Field} := @Field.get w0 [⟨30, 1#2⟩, ⟨27, t⟩, ⟨21, 35#6⟩, ⟨11, d⟩, ⟨6, a⟩, ⟨1, b⟩] (Option.some.inj h0).symm rfl x
  have he : wordEngine w0 = .v := by rw [wordEngine, show fld w0 30 2 = 1#2 from g0 0 rfl]; rfl
  refine decodeWord_of .v he ?_ hf0
  show decodeV w0 = _
  unfold decodeV
  rw [show wordOp w0 = 35 from congrArg BitVec.toNat (g0 2 rfl)]
  refine (if_neg ?_).trans ?_
  · exact fun h1 => absurd h1.1 (fun e => absurd ((show fld w0 13 8 = 0#8 from Field.zero (fs := [⟨30, 1#2⟩, ⟨27, t⟩, ⟨21, 35#6⟩, ⟨11, d⟩, ⟨6, a⟩, ⟨1, b⟩]) (Option.some.inj h0).symm rfl 13 8 rfl).symm.trans e) (by decide))
  refine (if_neg ?_).trans ?_
  · exact fun h1 => absurd h1.1 (fun e => absurd ((show fld w0 13 8 = 0#8 from Field.zero (fs := [⟨30, 1#2⟩, ⟨27, t⟩, ⟨21, 35#6⟩, ⟨11, d⟩, ⟨6, a⟩, ⟨1, b⟩]) (Option.some.inj h0).symm rfl 13 8 rfl).symm.trans e) (by decide))
  refine (if_neg ?_).trans ?_
  · exact fun h1 => absurd h1.1 (fun e => absurd ((show fld w0 13 8 = 0#8 from Field.zero (fs := [⟨30, 1#2⟩, ⟨27, t⟩, ⟨21, 35#6⟩, ⟨11, d⟩, ⟨6, a⟩, ⟨1, b⟩]) (Option.some.inj h0).symm rfl 13 8 rfl).symm.trans e) (by decide))
  refine (if_pos ?_).trans ?_
  · exact ⟨Field.zero (fs := [⟨30, 1#2⟩, ⟨27, t⟩, ⟨21, 35#6⟩, ⟨11, d⟩, ⟨6, a⟩, ⟨1, b⟩]) (Option.some.inj h0).symm rfl 13 8 rfl, Field.zero (fs := [⟨30, 1#2⟩, ⟨27, t⟩, ⟨21, 35#6⟩, ⟨11, d⟩, ⟨6, a⟩, ⟨1, b⟩]) (Option.some.inj h0).symm rfl 8 3 rfl, Field.zero (fs := [⟨30, 1#2⟩, ⟨27, t⟩, ⟨21, 35#6⟩, ⟨11, d⟩, ⟨6, a⟩, ⟨1, b⟩]) (Option.some.inj h0).symm rfl 3 3 rfl, Field.zero (fs := [⟨30, 1#2⟩, ⟨27, t⟩, ⟨21, 35#6⟩, ⟨11, d⟩, ⟨6, a⟩, ⟨1, b⟩]) (Option.some.inj h0).symm rfl 0 1 rfl⟩
  show (Except.ok (.vmskAnd (fld w0 27 3) (fld w0 11 2) (fld w0 6 2) (fld w0 1 2)) : Except Reject Instr) = _
  rw [show fld w0 27 3 = t from g0 1 rfl, show fld w0 11 2 = d from g0 3 rfl, show fld w0 6 2 = a from g0 4 rfl, show fld w0 1 2 = b from g0 5 rfl]

theorem RoundTrip.vmskOr (t : BitVec 3) (d : BitVec 2) (a : BitVec 2) (b : BitVec 2) : RoundTrip.Statement (.vmskOr t d a b) := by
  intro w0 h0 hf0
  have g0 {x : Field} := @Field.get w0 [⟨30, 1#2⟩, ⟨27, t⟩, ⟨21, 35#6⟩, ⟨13, 1#8⟩, ⟨11, d⟩, ⟨6, a⟩, ⟨1, b⟩] (Option.some.inj h0).symm rfl x
  have he : wordEngine w0 = .v := by rw [wordEngine, show fld w0 30 2 = 1#2 from g0 0 rfl]; rfl
  refine decodeWord_of .v he ?_ hf0
  show decodeV w0 = _
  unfold decodeV
  rw [show wordOp w0 = 35 from congrArg BitVec.toNat (g0 2 rfl)]
  refine (if_neg ?_).trans ?_
  · exact fun h1 => absurd h1.1 (fun e => absurd ((show fld w0 13 8 = 1#8 from g0 3 rfl).symm.trans e) (by decide))
  refine (if_neg ?_).trans ?_
  · exact fun h1 => absurd h1.1 (fun e => absurd ((show fld w0 13 8 = 1#8 from g0 3 rfl).symm.trans e) (by decide))
  refine (if_neg ?_).trans ?_
  · exact fun h1 => absurd h1.1 (fun e => absurd ((show fld w0 13 8 = 1#8 from g0 3 rfl).symm.trans e) (by decide))
  refine (if_neg ?_).trans ?_
  · exact fun h1 => absurd h1.1 (fun e => absurd ((show fld w0 13 8 = 1#8 from g0 3 rfl).symm.trans e) (by decide))
  refine (if_pos ?_).trans ?_
  · exact ⟨g0 3 rfl, Field.zero (fs := [⟨30, 1#2⟩, ⟨27, t⟩, ⟨21, 35#6⟩, ⟨13, 1#8⟩, ⟨11, d⟩, ⟨6, a⟩, ⟨1, b⟩]) (Option.some.inj h0).symm rfl 8 3 rfl, Field.zero (fs := [⟨30, 1#2⟩, ⟨27, t⟩, ⟨21, 35#6⟩, ⟨13, 1#8⟩, ⟨11, d⟩, ⟨6, a⟩, ⟨1, b⟩]) (Option.some.inj h0).symm rfl 3 3 rfl, Field.zero (fs := [⟨30, 1#2⟩, ⟨27, t⟩, ⟨21, 35#6⟩, ⟨13, 1#8⟩, ⟨11, d⟩, ⟨6, a⟩, ⟨1, b⟩]) (Option.some.inj h0).symm rfl 0 1 rfl⟩
  show (Except.ok (.vmskOr (fld w0 27 3) (fld w0 11 2) (fld w0 6 2) (fld w0 1 2)) : Except Reject Instr) = _
  rw [show fld w0 27 3 = t from g0 1 rfl, show fld w0 11 2 = d from g0 4 rfl, show fld w0 6 2 = a from g0 5 rfl, show fld w0 1 2 = b from g0 6 rfl]

theorem RoundTrip.vmskXor (t : BitVec 3) (d : BitVec 2) (a : BitVec 2) (b : BitVec 2) : RoundTrip.Statement (.vmskXor t d a b) := by
  intro w0 h0 hf0
  have g0 {x : Field} := @Field.get w0 [⟨30, 1#2⟩, ⟨27, t⟩, ⟨21, 35#6⟩, ⟨13, 2#8⟩, ⟨11, d⟩, ⟨6, a⟩, ⟨1, b⟩] (Option.some.inj h0).symm rfl x
  have he : wordEngine w0 = .v := by rw [wordEngine, show fld w0 30 2 = 1#2 from g0 0 rfl]; rfl
  refine decodeWord_of .v he ?_ hf0
  show decodeV w0 = _
  unfold decodeV
  rw [show wordOp w0 = 35 from congrArg BitVec.toNat (g0 2 rfl)]
  refine (if_neg ?_).trans ?_
  · exact fun h1 => absurd h1.1 (fun e => absurd ((show fld w0 13 8 = 2#8 from g0 3 rfl).symm.trans e) (by decide))
  refine (if_neg ?_).trans ?_
  · exact fun h1 => absurd h1.1 (fun e => absurd ((show fld w0 13 8 = 2#8 from g0 3 rfl).symm.trans e) (by decide))
  refine (if_neg ?_).trans ?_
  · exact fun h1 => absurd h1.1 (fun e => absurd ((show fld w0 13 8 = 2#8 from g0 3 rfl).symm.trans e) (by decide))
  refine (if_neg ?_).trans ?_
  · exact fun h1 => absurd h1.1 (fun e => absurd ((show fld w0 13 8 = 2#8 from g0 3 rfl).symm.trans e) (by decide))
  refine (if_neg ?_).trans ?_
  · exact fun h1 => absurd h1.1 (fun e => absurd ((show fld w0 13 8 = 2#8 from g0 3 rfl).symm.trans e) (by decide))
  refine (if_pos ?_).trans ?_
  · exact ⟨g0 3 rfl, Field.zero (fs := [⟨30, 1#2⟩, ⟨27, t⟩, ⟨21, 35#6⟩, ⟨13, 2#8⟩, ⟨11, d⟩, ⟨6, a⟩, ⟨1, b⟩]) (Option.some.inj h0).symm rfl 8 3 rfl, Field.zero (fs := [⟨30, 1#2⟩, ⟨27, t⟩, ⟨21, 35#6⟩, ⟨13, 2#8⟩, ⟨11, d⟩, ⟨6, a⟩, ⟨1, b⟩]) (Option.some.inj h0).symm rfl 3 3 rfl, Field.zero (fs := [⟨30, 1#2⟩, ⟨27, t⟩, ⟨21, 35#6⟩, ⟨13, 2#8⟩, ⟨11, d⟩, ⟨6, a⟩, ⟨1, b⟩]) (Option.some.inj h0).symm rfl 0 1 rfl⟩
  show (Except.ok (.vmskXor (fld w0 27 3) (fld w0 11 2) (fld w0 6 2) (fld w0 1 2)) : Except Reject Instr) = _
  rw [show fld w0 27 3 = t from g0 1 rfl, show fld w0 11 2 = d from g0 4 rfl, show fld w0 6 2 = a from g0 5 rfl, show fld w0 1 2 = b from g0 6 rfl]

theorem RoundTrip.vmskAndn (t : BitVec 3) (d : BitVec 2) (a : BitVec 2) (b : BitVec 2) : RoundTrip.Statement (.vmskAndn t d a b) := by
  intro w0 h0 hf0
  have g0 {x : Field} := @Field.get w0 [⟨30, 1#2⟩, ⟨27, t⟩, ⟨21, 35#6⟩, ⟨13, 3#8⟩, ⟨11, d⟩, ⟨6, a⟩, ⟨1, b⟩] (Option.some.inj h0).symm rfl x
  have he : wordEngine w0 = .v := by rw [wordEngine, show fld w0 30 2 = 1#2 from g0 0 rfl]; rfl
  refine decodeWord_of .v he ?_ hf0
  show decodeV w0 = _
  unfold decodeV
  rw [show wordOp w0 = 35 from congrArg BitVec.toNat (g0 2 rfl)]
  refine (if_neg ?_).trans ?_
  · exact fun h1 => absurd h1.1 (fun e => absurd ((show fld w0 13 8 = 3#8 from g0 3 rfl).symm.trans e) (by decide))
  refine (if_neg ?_).trans ?_
  · exact fun h1 => absurd h1.1 (fun e => absurd ((show fld w0 13 8 = 3#8 from g0 3 rfl).symm.trans e) (by decide))
  refine (if_neg ?_).trans ?_
  · exact fun h1 => absurd h1.1 (fun e => absurd ((show fld w0 13 8 = 3#8 from g0 3 rfl).symm.trans e) (by decide))
  refine (if_neg ?_).trans ?_
  · exact fun h1 => absurd h1.1 (fun e => absurd ((show fld w0 13 8 = 3#8 from g0 3 rfl).symm.trans e) (by decide))
  refine (if_neg ?_).trans ?_
  · exact fun h1 => absurd h1.1 (fun e => absurd ((show fld w0 13 8 = 3#8 from g0 3 rfl).symm.trans e) (by decide))
  refine (if_neg ?_).trans ?_
  · exact fun h1 => absurd h1.1 (fun e => absurd ((show fld w0 13 8 = 3#8 from g0 3 rfl).symm.trans e) (by decide))
  refine (if_pos ?_).trans ?_
  · exact ⟨g0 3 rfl, Field.zero (fs := [⟨30, 1#2⟩, ⟨27, t⟩, ⟨21, 35#6⟩, ⟨13, 3#8⟩, ⟨11, d⟩, ⟨6, a⟩, ⟨1, b⟩]) (Option.some.inj h0).symm rfl 8 3 rfl, Field.zero (fs := [⟨30, 1#2⟩, ⟨27, t⟩, ⟨21, 35#6⟩, ⟨13, 3#8⟩, ⟨11, d⟩, ⟨6, a⟩, ⟨1, b⟩]) (Option.some.inj h0).symm rfl 3 3 rfl, Field.zero (fs := [⟨30, 1#2⟩, ⟨27, t⟩, ⟨21, 35#6⟩, ⟨13, 3#8⟩, ⟨11, d⟩, ⟨6, a⟩, ⟨1, b⟩]) (Option.some.inj h0).symm rfl 0 1 rfl⟩
  show (Except.ok (.vmskAndn (fld w0 27 3) (fld w0 11 2) (fld w0 6 2) (fld w0 1 2)) : Except Reject Instr) = _
  rw [show fld w0 27 3 = t from g0 1 rfl, show fld w0 11 2 = d from g0 4 rfl, show fld w0 6 2 = a from g0 5 rfl, show fld w0 1 2 = b from g0 6 rfl]

theorem RoundTrip.vmskNot (t : BitVec 3) (d : BitVec 2) (a : BitVec 2) : RoundTrip.Statement (.vmskNot t d a) := by
  intro w0 h0 hf0
  have g0 {x : Field} := @Field.get w0 [⟨30, 1#2⟩, ⟨27, t⟩, ⟨21, 35#6⟩, ⟨13, 4#8⟩, ⟨11, d⟩, ⟨6, a⟩] (Option.some.inj h0).symm rfl x
  have he : wordEngine w0 = .v := by rw [wordEngine, show fld w0 30 2 = 1#2 from g0 0 rfl]; rfl
  refine decodeWord_of .v he ?_ hf0
  show decodeV w0 = _
  unfold decodeV
  rw [show wordOp w0 = 35 from congrArg BitVec.toNat (g0 2 rfl)]
  refine (if_neg ?_).trans ?_
  · exact fun h1 => absurd h1.1 (fun e => absurd ((show fld w0 13 8 = 4#8 from g0 3 rfl).symm.trans e) (by decide))
  refine (if_neg ?_).trans ?_
  · exact fun h1 => absurd h1.1 (fun e => absurd ((show fld w0 13 8 = 4#8 from g0 3 rfl).symm.trans e) (by decide))
  refine (if_pos ?_).trans ?_
  · exact ⟨g0 3 rfl, Field.zero (fs := [⟨30, 1#2⟩, ⟨27, t⟩, ⟨21, 35#6⟩, ⟨13, 4#8⟩, ⟨11, d⟩, ⟨6, a⟩]) (Option.some.inj h0).symm rfl 8 3 rfl, Field.zero (fs := [⟨30, 1#2⟩, ⟨27, t⟩, ⟨21, 35#6⟩, ⟨13, 4#8⟩, ⟨11, d⟩, ⟨6, a⟩]) (Option.some.inj h0).symm rfl 0 6 rfl⟩
  show (Except.ok (.vmskNot (fld w0 27 3) (fld w0 11 2) (fld w0 6 2)) : Except Reject Instr) = _
  rw [show fld w0 27 3 = t from g0 1 rfl, show fld w0 11 2 = d from g0 4 rfl, show fld w0 6 2 = a from g0 5 rfl]

theorem RoundTrip.vmskSet (t : BitVec 3) (d : BitVec 2) : RoundTrip.Statement (.vmskSet t d) := by
  intro w0 h0 hf0
  have g0 {x : Field} := @Field.get w0 [⟨30, 1#2⟩, ⟨27, t⟩, ⟨21, 35#6⟩, ⟨13, 5#8⟩, ⟨11, d⟩] (Option.some.inj h0).symm rfl x
  have he : wordEngine w0 = .v := by rw [wordEngine, show fld w0 30 2 = 1#2 from g0 0 rfl]; rfl
  refine decodeWord_of .v he ?_ hf0
  show decodeV w0 = _
  unfold decodeV
  rw [show wordOp w0 = 35 from congrArg BitVec.toNat (g0 2 rfl)]
  refine (if_pos ?_).trans ?_
  · exact ⟨g0 3 rfl, Field.zero (fs := [⟨30, 1#2⟩, ⟨27, t⟩, ⟨21, 35#6⟩, ⟨13, 5#8⟩, ⟨11, d⟩]) (Option.some.inj h0).symm rfl 0 11 rfl⟩
  show (Except.ok (.vmskSet (fld w0 27 3) (fld w0 11 2)) : Except Reject Instr) = _
  rw [show fld w0 27 3 = t from g0 1 rfl, show fld w0 11 2 = d from g0 4 rfl]

theorem RoundTrip.vmskClr (t : BitVec 3) (d : BitVec 2) : RoundTrip.Statement (.vmskClr t d) := by
  intro w0 h0 hf0
  have g0 {x : Field} := @Field.get w0 [⟨30, 1#2⟩, ⟨27, t⟩, ⟨21, 35#6⟩, ⟨13, 6#8⟩, ⟨11, d⟩] (Option.some.inj h0).symm rfl x
  have he : wordEngine w0 = .v := by rw [wordEngine, show fld w0 30 2 = 1#2 from g0 0 rfl]; rfl
  refine decodeWord_of .v he ?_ hf0
  show decodeV w0 = _
  unfold decodeV
  rw [show wordOp w0 = 35 from congrArg BitVec.toNat (g0 2 rfl)]
  refine (if_neg ?_).trans ?_
  · exact fun h1 => absurd h1.1 (fun e => absurd ((show fld w0 13 8 = 6#8 from g0 3 rfl).symm.trans e) (by decide))
  refine (if_pos ?_).trans ?_
  · exact ⟨g0 3 rfl, Field.zero (fs := [⟨30, 1#2⟩, ⟨27, t⟩, ⟨21, 35#6⟩, ⟨13, 6#8⟩, ⟨11, d⟩]) (Option.some.inj h0).symm rfl 0 11 rfl⟩
  show (Except.ok (.vmskClr (fld w0 27 3) (fld w0 11 2)) : Except Reject Instr) = _
  rw [show fld w0 27 3 = t from g0 1 rfl, show fld w0 11 2 = d from g0 4 rfl]

theorem RoundTrip.vmov (t : BitVec 3) (e : BitVec 3) (d : BitVec 5) (a : BitVec 5) : RoundTrip.Statement (.vmov t e d a) := by
  intro w0 h0 hf0
  have g0 {x : Field} := @Field.get w0 [⟨30, 1#2⟩, ⟨27, t⟩, ⟨21, 36#6⟩, ⟨18, e⟩, ⟨11, d⟩, ⟨6, a⟩] (Option.some.inj h0).symm rfl x
  have he : wordEngine w0 = .v := by rw [wordEngine, show fld w0 30 2 = 1#2 from g0 0 rfl]; rfl
  refine decodeWord_of .v he ?_ hf0
  show decodeV w0 = _
  unfold decodeV
  rw [show wordOp w0 = 36 from congrArg BitVec.toNat (g0 2 rfl)]
  refine (if_pos ?_).trans ?_
  · exact ⟨Field.zero (fs := [⟨30, 1#2⟩, ⟨27, t⟩, ⟨21, 36#6⟩, ⟨18, e⟩, ⟨11, d⟩, ⟨6, a⟩]) (Option.some.inj h0).symm rfl 16 2 rfl, Field.zero (fs := [⟨30, 1#2⟩, ⟨27, t⟩, ⟨21, 36#6⟩, ⟨18, e⟩, ⟨11, d⟩, ⟨6, a⟩]) (Option.some.inj h0).symm rfl 0 6 rfl⟩
  show (Except.ok (.vmov (fld w0 27 3) (fld w0 18 3) (fld w0 11 5) (fld w0 6 5)) : Except Reject Instr) = _
  rw [show fld w0 27 3 = t from g0 1 rfl, show fld w0 18 3 = e from g0 3 rfl, show fld w0 11 5 = d from g0 4 rfl, show fld w0 6 5 = a from g0 5 rfl]

theorem RoundTrip.vmovi (t : BitVec 3) (e : BitVec 3) (w : BitVec 2) (d : BitVec 5) (i : BitVec 11) : RoundTrip.Statement (.vmovi t e w d i) := by
  intro w0 h0 hf0
  have g0 {x : Field} := @Field.get w0 [⟨30, 1#2⟩, ⟨27, t⟩, ⟨21, 37#6⟩, ⟨18, e⟩, ⟨16, w⟩, ⟨11, d⟩, ⟨0, i⟩] (Option.some.inj h0).symm rfl x
  have he : wordEngine w0 = .v := by rw [wordEngine, show fld w0 30 2 = 1#2 from g0 0 rfl]; rfl
  refine decodeWord_of .v he ?_ hf0
  show decodeV w0 = _
  unfold decodeV
  rw [show wordOp w0 = 37 from congrArg BitVec.toNat (g0 2 rfl)]
  show (Except.ok (.vmovi (fld w0 27 3) (fld w0 18 3) (fld w0 16 2) (fld w0 11 5) (fld w0 0 11)) : Except Reject Instr) = _
  rw [show fld w0 27 3 = t from g0 1 rfl, show fld w0 18 3 = e from g0 3 rfl, show fld w0 16 2 = w from g0 4 rfl, show fld w0 11 5 = d from g0 5 rfl, show fld w0 0 11 = i from g0 6 rfl]

theorem RoundTrip.vwin (t : BitVec 3) (n : BitVec 3) : RoundTrip.Statement (.vwin t n) := by
  intro w0 h0 hf0
  have g0 {x : Field} := @Field.get w0 [⟨30, 1#2⟩, ⟨27, t⟩, ⟨21, 38#6⟩, ⟨11, n⟩] (Option.some.inj h0).symm rfl x
  have he : wordEngine w0 = .v := by rw [wordEngine, show fld w0 30 2 = 1#2 from g0 0 rfl]; rfl
  refine decodeWord_of .v he ?_ hf0
  show decodeV w0 = _
  unfold decodeV
  rw [show wordOp w0 = 38 from congrArg BitVec.toNat (g0 2 rfl)]
  refine (if_pos ?_).trans ?_
  · exact ⟨Field.zero (fs := [⟨30, 1#2⟩, ⟨27, t⟩, ⟨21, 38#6⟩, ⟨11, n⟩]) (Option.some.inj h0).symm rfl 14 7 rfl, Field.zero (fs := [⟨30, 1#2⟩, ⟨27, t⟩, ⟨21, 38#6⟩, ⟨11, n⟩]) (Option.some.inj h0).symm rfl 0 11 rfl⟩
  show (Except.ok (.vwin (fld w0 27 3) (fld w0 11 3)) : Except Reject Instr) = _
  rw [show fld w0 27 3 = t from g0 1 rfl, show fld w0 11 3 = n from g0 3 rfl]

theorem RoundTrip.vwait (t : BitVec 3) (m : BitVec 3) : RoundTrip.Statement (.vwait t m) := by
  intro w0 h0 hf0
  have g0 {x : Field} := @Field.get w0 [⟨30, 1#2⟩, ⟨27, t⟩, ⟨21, 39#6⟩, ⟨11, m⟩] (Option.some.inj h0).symm rfl x
  have he : wordEngine w0 = .v := by rw [wordEngine, show fld w0 30 2 = 1#2 from g0 0 rfl]; rfl
  refine decodeWord_of .v he ?_ hf0
  show decodeV w0 = _
  unfold decodeV
  rw [show wordOp w0 = 39 from congrArg BitVec.toNat (g0 2 rfl)]
  refine (if_pos ?_).trans ?_
  · exact ⟨Field.zero (fs := [⟨30, 1#2⟩, ⟨27, t⟩, ⟨21, 39#6⟩, ⟨11, m⟩]) (Option.some.inj h0).symm rfl 14 7 rfl, Field.zero (fs := [⟨30, 1#2⟩, ⟨27, t⟩, ⟨21, 39#6⟩, ⟨11, m⟩]) (Option.some.inj h0).symm rfl 0 11 rfl⟩
  show (Except.ok (.vwait (fld w0 27 3) (fld w0 11 3)) : Except Reject Instr) = _
  rw [show fld w0 27 3 = t from g0 1 rfl, show fld w0 11 3 = m from g0 3 rfl]

theorem RoundTrip.vsig (t : BitVec 3) (m : BitVec 3) : RoundTrip.Statement (.vsig t m) := by
  intro w0 h0 hf0
  have g0 {x : Field} := @Field.get w0 [⟨30, 1#2⟩, ⟨27, t⟩, ⟨21, 39#6⟩, ⟨11, m⟩, ⟨0, 1#11⟩] (Option.some.inj h0).symm rfl x
  have he : wordEngine w0 = .v := by rw [wordEngine, show fld w0 30 2 = 1#2 from g0 0 rfl]; rfl
  refine decodeWord_of .v he ?_ hf0
  show decodeV w0 = _
  unfold decodeV
  rw [show wordOp w0 = 39 from congrArg BitVec.toNat (g0 2 rfl)]
  refine (if_neg ?_).trans ?_
  · exact fun h1 => absurd h1.2 (fun e => absurd ((show fld w0 0 11 = 1#11 from g0 4 rfl).symm.trans e) (by decide))
  refine (if_pos ?_).trans ?_
  · exact ⟨Field.zero (fs := [⟨30, 1#2⟩, ⟨27, t⟩, ⟨21, 39#6⟩, ⟨11, m⟩, ⟨0, 1#11⟩]) (Option.some.inj h0).symm rfl 14 7 rfl, g0 4 rfl⟩
  show (Except.ok (.vsig (fld w0 27 3) (fld w0 11 3)) : Except Reject Instr) = _
  rw [show fld w0 27 3 = t from g0 1 rfl, show fld w0 11 3 = m from g0 3 rfl]

theorem RoundTrip.vnop (t : BitVec 3) : RoundTrip.Statement (.vnop t) := by
  intro w0 h0 hf0
  have g0 {x : Field} := @Field.get w0 [⟨30, 1#2⟩, ⟨27, t⟩, ⟨21, 40#6⟩] (Option.some.inj h0).symm rfl x
  have he : wordEngine w0 = .v := by rw [wordEngine, show fld w0 30 2 = 1#2 from g0 0 rfl]; rfl
  refine decodeWord_of .v he ?_ hf0
  show decodeV w0 = _
  unfold decodeV
  rw [show wordOp w0 = 40 from congrArg BitVec.toNat (g0 2 rfl)]
  refine (if_pos ?_).trans ?_
  · exact Field.zero (fs := [⟨30, 1#2⟩, ⟨27, t⟩, ⟨21, 40#6⟩]) (Option.some.inj h0).symm rfl 0 21 rfl
  show (Except.ok (.vnop (fld w0 27 3)) : Except Reject Instr) = _
  rw [show fld w0 27 3 = t from g0 1 rfl]

theorem RoundTrip.vcvt (t : BitVec 3) (e : BitVec 3) (y : BitVec 2) (d : BitVec 5) (a : BitVec 5) (v : BitVec 5) (f : BitVec 1) : RoundTrip.Statement (.vcvt t e y d a v f) := by
  intro w0 h0 hf0
  have g0 {x : Field} := @Field.get w0 [⟨30, 1#2⟩, ⟨27, t⟩, ⟨21, 41#6⟩, ⟨18, e⟩, ⟨16, y⟩, ⟨11, d⟩, ⟨6, a⟩, ⟨1, v⟩, ⟨0, f⟩] (Option.some.inj h0).symm rfl x
  have he : wordEngine w0 = .v := by rw [wordEngine, show fld w0 30 2 = 1#2 from g0 0 rfl]; rfl
  refine decodeWord_of .v he ?_ hf0
  show decodeV w0 = _
  unfold decodeV
  rw [show wordOp w0 = 41 from congrArg BitVec.toNat (g0 2 rfl)]
  show (Except.ok (.vcvt (fld w0 27 3) (fld w0 18 3) (fld w0 16 2) (fld w0 11 5) (fld w0 6 5) (fld w0 1 5) (fld w0 0 1)) : Except Reject Instr) = _
  rw [show fld w0 27 3 = t from g0 1 rfl, show fld w0 18 3 = e from g0 3 rfl, show fld w0 16 2 = y from g0 4 rfl, show fld w0 11 5 = d from g0 5 rfl, show fld w0 6 5 = a from g0 6 rfl, show fld w0 1 5 = v from g0 7 rfl, show fld w0 0 1 = f from g0 8 rfl]

theorem RoundTrip.vpack (t : BitVec 3) (e : BitVec 3) (y : BitVec 2) (d : BitVec 5) (a : BitVec 5) (f : BitVec 4) : RoundTrip.Statement (.vpack t e y d a f) := by
  intro w0 h0 hf0
  have g0 {x : Field} := @Field.get w0 [⟨30, 1#2⟩, ⟨27, t⟩, ⟨21, 42#6⟩, ⟨18, e⟩, ⟨16, y⟩, ⟨11, d⟩, ⟨6, a⟩, ⟨1, f⟩] (Option.some.inj h0).symm rfl x
  have he : wordEngine w0 = .v := by rw [wordEngine, show fld w0 30 2 = 1#2 from g0 0 rfl]; rfl
  refine decodeWord_of .v he ?_ hf0
  show decodeV w0 = _
  unfold decodeV
  rw [show wordOp w0 = 42 from congrArg BitVec.toNat (g0 2 rfl)]
  refine (if_pos ?_).trans ?_
  · exact ⟨Field.zero (fs := [⟨30, 1#2⟩, ⟨27, t⟩, ⟨21, 42#6⟩, ⟨18, e⟩, ⟨16, y⟩, ⟨11, d⟩, ⟨6, a⟩, ⟨1, f⟩]) (Option.some.inj h0).symm rfl 5 1 rfl, Field.zero (fs := [⟨30, 1#2⟩, ⟨27, t⟩, ⟨21, 42#6⟩, ⟨18, e⟩, ⟨16, y⟩, ⟨11, d⟩, ⟨6, a⟩, ⟨1, f⟩]) (Option.some.inj h0).symm rfl 0 1 rfl⟩
  show (Except.ok (.vpack (fld w0 27 3) (fld w0 18 3) (fld w0 16 2) (fld w0 11 5) (fld w0 6 5) (fld w0 1 4)) : Except Reject Instr) = _
  rw [show fld w0 27 3 = t from g0 1 rfl, show fld w0 18 3 = e from g0 3 rfl, show fld w0 16 2 = y from g0 4 rfl, show fld w0 11 5 = d from g0 5 rfl, show fld w0 6 5 = a from g0 6 rfl, show fld w0 1 4 = f from g0 7 rfl]

theorem RoundTrip.vunpk (t : BitVec 3) (e : BitVec 3) (y : BitVec 2) (d : BitVec 5) (a : BitVec 5) (f : BitVec 4) : RoundTrip.Statement (.vunpk t e y d a f) := by
  intro w0 h0 hf0
  have g0 {x : Field} := @Field.get w0 [⟨30, 1#2⟩, ⟨27, t⟩, ⟨21, 43#6⟩, ⟨18, e⟩, ⟨16, y⟩, ⟨11, d⟩, ⟨6, a⟩, ⟨1, f⟩] (Option.some.inj h0).symm rfl x
  have he : wordEngine w0 = .v := by rw [wordEngine, show fld w0 30 2 = 1#2 from g0 0 rfl]; rfl
  refine decodeWord_of .v he ?_ hf0
  show decodeV w0 = _
  unfold decodeV
  rw [show wordOp w0 = 43 from congrArg BitVec.toNat (g0 2 rfl)]
  refine (if_pos ?_).trans ?_
  · exact ⟨Field.zero (fs := [⟨30, 1#2⟩, ⟨27, t⟩, ⟨21, 43#6⟩, ⟨18, e⟩, ⟨16, y⟩, ⟨11, d⟩, ⟨6, a⟩, ⟨1, f⟩]) (Option.some.inj h0).symm rfl 5 1 rfl, Field.zero (fs := [⟨30, 1#2⟩, ⟨27, t⟩, ⟨21, 43#6⟩, ⟨18, e⟩, ⟨16, y⟩, ⟨11, d⟩, ⟨6, a⟩, ⟨1, f⟩]) (Option.some.inj h0).symm rfl 0 1 rfl⟩
  show (Except.ok (.vunpk (fld w0 27 3) (fld w0 18 3) (fld w0 16 2) (fld w0 11 5) (fld w0 6 5) (fld w0 1 4)) : Except Reject Instr) = _
  rw [show fld w0 27 3 = t from g0 1 rfl, show fld w0 18 3 = e from g0 3 rfl, show fld w0 16 2 = y from g0 4 rfl, show fld w0 11 5 = d from g0 5 rfl, show fld w0 6 5 = a from g0 6 rfl, show fld w0 1 4 = f from g0 7 rfl]

theorem RoundTrip.vrsum (t : BitVec 3) (e : BitVec 3) (y : BitVec 2) (d : BitVec 5) (a : BitVec 5) (f : BitVec 1) : RoundTrip.Statement (.vrsum t e y d a f) := by
  intro w0 h0 hf0
  have g0 {x : Field} := @Field.get w0 [⟨30, 1#2⟩, ⟨27, t⟩, ⟨21, 44#6⟩, ⟨18, e⟩, ⟨16, y⟩, ⟨11, d⟩, ⟨6, a⟩, ⟨0, f⟩] (Option.some.inj h0).symm rfl x
  have he : wordEngine w0 = .v := by rw [wordEngine, show fld w0 30 2 = 1#2 from g0 0 rfl]; rfl
  refine decodeWord_of .v he ?_ hf0
  show decodeV w0 = _
  unfold decodeV
  rw [show wordOp w0 = 44 from congrArg BitVec.toNat (g0 2 rfl)]
  refine (if_pos ?_).trans ?_
  · exact Field.zero (fs := [⟨30, 1#2⟩, ⟨27, t⟩, ⟨21, 44#6⟩, ⟨18, e⟩, ⟨16, y⟩, ⟨11, d⟩, ⟨6, a⟩, ⟨0, f⟩]) (Option.some.inj h0).symm rfl 1 5 rfl
  show (Except.ok (.vrsum (fld w0 27 3) (fld w0 18 3) (fld w0 16 2) (fld w0 11 5) (fld w0 6 5) (fld w0 0 1)) : Except Reject Instr) = _
  rw [show fld w0 27 3 = t from g0 1 rfl, show fld w0 18 3 = e from g0 3 rfl, show fld w0 16 2 = y from g0 4 rfl, show fld w0 11 5 = d from g0 5 rfl, show fld w0 6 5 = a from g0 6 rfl, show fld w0 0 1 = f from g0 7 rfl]

theorem RoundTrip.vrmax (t : BitVec 3) (e : BitVec 3) (y : BitVec 2) (d : BitVec 5) (a : BitVec 5) (f : BitVec 1) : RoundTrip.Statement (.vrmax t e y d a f) := by
  intro w0 h0 hf0
  have g0 {x : Field} := @Field.get w0 [⟨30, 1#2⟩, ⟨27, t⟩, ⟨21, 45#6⟩, ⟨18, e⟩, ⟨16, y⟩, ⟨11, d⟩, ⟨6, a⟩, ⟨0, f⟩] (Option.some.inj h0).symm rfl x
  have he : wordEngine w0 = .v := by rw [wordEngine, show fld w0 30 2 = 1#2 from g0 0 rfl]; rfl
  refine decodeWord_of .v he ?_ hf0
  show decodeV w0 = _
  unfold decodeV
  rw [show wordOp w0 = 45 from congrArg BitVec.toNat (g0 2 rfl)]
  refine (if_pos ?_).trans ?_
  · exact Field.zero (fs := [⟨30, 1#2⟩, ⟨27, t⟩, ⟨21, 45#6⟩, ⟨18, e⟩, ⟨16, y⟩, ⟨11, d⟩, ⟨6, a⟩, ⟨0, f⟩]) (Option.some.inj h0).symm rfl 1 5 rfl
  show (Except.ok (.vrmax (fld w0 27 3) (fld w0 18 3) (fld w0 16 2) (fld w0 11 5) (fld w0 6 5) (fld w0 0 1)) : Except Reject Instr) = _
  rw [show fld w0 27 3 = t from g0 1 rfl, show fld w0 18 3 = e from g0 3 rfl, show fld w0 16 2 = y from g0 4 rfl, show fld w0 11 5 = d from g0 5 rfl, show fld w0 6 5 = a from g0 6 rfl, show fld w0 0 1 = f from g0 7 rfl]

theorem RoundTrip.vrmin (t : BitVec 3) (e : BitVec 3) (y : BitVec 2) (d : BitVec 5) (a : BitVec 5) (f : BitVec 1) : RoundTrip.Statement (.vrmin t e y d a f) := by
  intro w0 h0 hf0
  have g0 {x : Field} := @Field.get w0 [⟨30, 1#2⟩, ⟨27, t⟩, ⟨21, 46#6⟩, ⟨18, e⟩, ⟨16, y⟩, ⟨11, d⟩, ⟨6, a⟩, ⟨0, f⟩] (Option.some.inj h0).symm rfl x
  have he : wordEngine w0 = .v := by rw [wordEngine, show fld w0 30 2 = 1#2 from g0 0 rfl]; rfl
  refine decodeWord_of .v he ?_ hf0
  show decodeV w0 = _
  unfold decodeV
  rw [show wordOp w0 = 46 from congrArg BitVec.toNat (g0 2 rfl)]
  refine (if_pos ?_).trans ?_
  · exact Field.zero (fs := [⟨30, 1#2⟩, ⟨27, t⟩, ⟨21, 46#6⟩, ⟨18, e⟩, ⟨16, y⟩, ⟨11, d⟩, ⟨6, a⟩, ⟨0, f⟩]) (Option.some.inj h0).symm rfl 1 5 rfl
  show (Except.ok (.vrmin (fld w0 27 3) (fld w0 18 3) (fld w0 16 2) (fld w0 11 5) (fld w0 6 5) (fld w0 0 1)) : Except Reject Instr) = _
  rw [show fld w0 27 3 = t from g0 1 rfl, show fld w0 18 3 = e from g0 3 rfl, show fld w0 16 2 = y from g0 4 rfl, show fld w0 11 5 = d from g0 5 rfl, show fld w0 6 5 = a from g0 6 rfl, show fld w0 0 1 = f from g0 7 rfl]

theorem RoundTrip.vperm (t : BitVec 3) (e : BitVec 3) (d : BitVec 5) (a : BitVec 5) (i : BitVec 5) : RoundTrip.Statement (.vperm t e d a i) := by
  intro w0 h0 hf0
  have g0 {x : Field} := @Field.get w0 [⟨30, 1#2⟩, ⟨27, t⟩, ⟨21, 47#6⟩, ⟨18, e⟩, ⟨11, d⟩, ⟨6, a⟩, ⟨1, i⟩] (Option.some.inj h0).symm rfl x
  have he : wordEngine w0 = .v := by rw [wordEngine, show fld w0 30 2 = 1#2 from g0 0 rfl]; rfl
  refine decodeWord_of .v he ?_ hf0
  show decodeV w0 = _
  unfold decodeV
  rw [show wordOp w0 = 47 from congrArg BitVec.toNat (g0 2 rfl)]
  refine (if_pos ?_).trans ?_
  · exact ⟨Field.zero (fs := [⟨30, 1#2⟩, ⟨27, t⟩, ⟨21, 47#6⟩, ⟨18, e⟩, ⟨11, d⟩, ⟨6, a⟩, ⟨1, i⟩]) (Option.some.inj h0).symm rfl 16 2 rfl, Field.zero (fs := [⟨30, 1#2⟩, ⟨27, t⟩, ⟨21, 47#6⟩, ⟨18, e⟩, ⟨11, d⟩, ⟨6, a⟩, ⟨1, i⟩]) (Option.some.inj h0).symm rfl 0 1 rfl⟩
  show (Except.ok (.vperm (fld w0 27 3) (fld w0 18 3) (fld w0 11 5) (fld w0 6 5) (fld w0 1 5)) : Except Reject Instr) = _
  rw [show fld w0 27 3 = t from g0 1 rfl, show fld w0 18 3 = e from g0 3 rfl, show fld w0 11 5 = d from g0 4 rfl, show fld w0 6 5 = a from g0 5 rfl, show fld w0 1 5 = i from g0 6 rfl]

theorem RoundTrip.vbcast (t : BitVec 3) (e : BitVec 3) (w : BitVec 2) (d : BitVec 5) (a : BitVec 5) (i : BitVec 5) : RoundTrip.Statement (.vbcast t e w d a i) := by
  intro w0 h0 hf0
  have g0 {x : Field} := @Field.get w0 [⟨30, 1#2⟩, ⟨27, t⟩, ⟨21, 48#6⟩, ⟨18, e⟩, ⟨16, w⟩, ⟨11, d⟩, ⟨6, a⟩, ⟨1, i⟩] (Option.some.inj h0).symm rfl x
  have he : wordEngine w0 = .v := by rw [wordEngine, show fld w0 30 2 = 1#2 from g0 0 rfl]; rfl
  refine decodeWord_of .v he ?_ hf0
  show decodeV w0 = _
  unfold decodeV
  rw [show wordOp w0 = 48 from congrArg BitVec.toNat (g0 2 rfl)]
  refine (if_pos ?_).trans ?_
  · exact Field.zero (fs := [⟨30, 1#2⟩, ⟨27, t⟩, ⟨21, 48#6⟩, ⟨18, e⟩, ⟨16, w⟩, ⟨11, d⟩, ⟨6, a⟩, ⟨1, i⟩]) (Option.some.inj h0).symm rfl 0 1 rfl
  show (Except.ok (.vbcast (fld w0 27 3) (fld w0 18 3) (fld w0 16 2) (fld w0 11 5) (fld w0 6 5) (fld w0 1 5)) : Except Reject Instr) = _
  rw [show fld w0 27 3 = t from g0 1 rfl, show fld w0 18 3 = e from g0 3 rfl, show fld w0 16 2 = w from g0 4 rfl, show fld w0 11 5 = d from g0 5 rfl, show fld w0 6 5 = a from g0 6 rfl, show fld w0 1 5 = i from g0 7 rfl]

theorem RoundTrip.vslide (t : BitVec 3) (e : BitVec 3) (d : BitVec 5) (a : BitVec 5) (n : BitVec 8) : RoundTrip.Statement (.vslide t e d a n) := by
  intro w0 h0 hf0
  have hs : w0 = BitVec.ofNat 32 (Field.sum [⟨30, 1#2⟩, ⟨27, t⟩, ⟨21, 49#6⟩, ⟨18, e⟩, ⟨16, BitVec.extractLsb' 6 2 n⟩, ⟨11, d⟩, ⟨6, a⟩, ⟨0, BitVec.extractLsb' 0 6 n⟩]) := by
    refine (Option.some.inj h0).symm.trans (Eq.trans (congrArg pack ?_) (Field.pack_map _))
    simp only [List.map]
    rw [high_bits (m := 2) (n := 6) n 64 rfl, low_bits (m := 2) (n := 6) n 64 rfl]
    rfl
  have g0 {x : Field} := @Field.get w0 _ hs rfl x
  have he : wordEngine w0 = .v := by rw [wordEngine, show fld w0 30 2 = 1#2 from g0 0 rfl]; rfl
  refine decodeWord_of .v he ?_ hf0
  show decodeV w0 = _
  unfold decodeV
  rw [show wordOp w0 = 49 from congrArg BitVec.toNat (g0 2 rfl)]
  show (Except.ok (.vslide (fld w0 27 3) (fld w0 18 3) (fld w0 11 5) (fld w0 6 5) (fld w0 16 2 ++ fld w0 0 6)) : Except Reject Instr) = _
  rw [show fld w0 27 3 = t from g0 1 rfl, show fld w0 18 3 = e from g0 3 rfl, show fld w0 11 5 = d from g0 5 rfl, show fld w0 6 5 = a from g0 6 rfl, show fld w0 16 2 = BitVec.extractLsb' 6 2 n from g0 4 rfl, show fld w0 0 6 = BitVec.extractLsb' 0 6 n from g0 7 rfl, show BitVec.extractLsb' 6 2 n ++ BitVec.extractLsb' 0 6 n = n from split_bits (m := 2) (n := 6) n]

theorem RoundTrip.viota (t : BitVec 3) (e : BitVec 3) (w : BitVec 2) (d : BitVec 5) : RoundTrip.Statement (.viota t e w d) := by
  intro w0 h0 hf0
  have g0 {x : Field} := @Field.get w0 [⟨30, 1#2⟩, ⟨27, t⟩, ⟨21, 50#6⟩, ⟨18, e⟩, ⟨16, w⟩, ⟨11, d⟩] (Option.some.inj h0).symm rfl x
  have he : wordEngine w0 = .v := by rw [wordEngine, show fld w0 30 2 = 1#2 from g0 0 rfl]; rfl
  refine decodeWord_of .v he ?_ hf0
  show decodeV w0 = _
  unfold decodeV
  rw [show wordOp w0 = 50 from congrArg BitVec.toNat (g0 2 rfl)]
  refine (if_pos ?_).trans ?_
  · exact Field.zero (fs := [⟨30, 1#2⟩, ⟨27, t⟩, ⟨21, 50#6⟩, ⟨18, e⟩, ⟨16, w⟩, ⟨11, d⟩]) (Option.some.inj h0).symm rfl 0 11 rfl
  show (Except.ok (.viota (fld w0 27 3) (fld w0 18 3) (fld w0 16 2) (fld w0 11 5)) : Except Reject Instr) = _
  rw [show fld w0 27 3 = t from g0 1 rfl, show fld w0 18 3 = e from g0 3 rfl, show fld w0 16 2 = w from g0 4 rfl, show fld w0 11 5 = d from g0 5 rfl]

theorem RoundTrip.vsld (t : BitVec 3) (e : BitVec 3) (d : BitVec 5) (q : BitVec 4) (r : BitVec 5) : RoundTrip.Statement (.vsld t e d q r) := by
  intro w0 h0 hf0
  have g0 {x : Field} := @Field.get w0 [⟨30, 1#2⟩, ⟨27, t⟩, ⟨21, 51#6⟩, ⟨18, e⟩, ⟨11, d⟩, ⟨6, q⟩, ⟨1, r⟩] (Option.some.inj h0).symm rfl x
  have he : wordEngine w0 = .v := by rw [wordEngine, show fld w0 30 2 = 1#2 from g0 0 rfl]; rfl
  refine decodeWord_of .v he ?_ hf0
  show decodeV w0 = _
  unfold decodeV
  rw [show wordOp w0 = 51 from congrArg BitVec.toNat (g0 2 rfl)]
  refine (if_pos ?_).trans ?_
  · exact ⟨Field.zero (fs := [⟨30, 1#2⟩, ⟨27, t⟩, ⟨21, 51#6⟩, ⟨18, e⟩, ⟨11, d⟩, ⟨6, q⟩, ⟨1, r⟩]) (Option.some.inj h0).symm rfl 16 2 rfl, Field.zero (fs := [⟨30, 1#2⟩, ⟨27, t⟩, ⟨21, 51#6⟩, ⟨18, e⟩, ⟨11, d⟩, ⟨6, q⟩, ⟨1, r⟩]) (Option.some.inj h0).symm rfl 10 1 rfl, Field.zero (fs := [⟨30, 1#2⟩, ⟨27, t⟩, ⟨21, 51#6⟩, ⟨18, e⟩, ⟨11, d⟩, ⟨6, q⟩, ⟨1, r⟩]) (Option.some.inj h0).symm rfl 0 1 rfl⟩
  show (Except.ok (.vsld (fld w0 27 3) (fld w0 18 3) (fld w0 11 5) (fld w0 6 4) (fld w0 1 5)) : Except Reject Instr) = _
  rw [show fld w0 27 3 = t from g0 1 rfl, show fld w0 18 3 = e from g0 3 rfl, show fld w0 11 5 = d from g0 4 rfl, show fld w0 6 4 = q from g0 5 rfl, show fld w0 1 5 = r from g0 6 rfl]

theorem RoundTrip.vsst (t : BitVec 3) (e : BitVec 3) (d : BitVec 5) (q : BitVec 4) (r : BitVec 5) : RoundTrip.Statement (.vsst t e d q r) := by
  intro w0 h0 hf0
  have g0 {x : Field} := @Field.get w0 [⟨30, 1#2⟩, ⟨27, t⟩, ⟨21, 52#6⟩, ⟨18, e⟩, ⟨11, d⟩, ⟨6, q⟩, ⟨1, r⟩] (Option.some.inj h0).symm rfl x
  have he : wordEngine w0 = .v := by rw [wordEngine, show fld w0 30 2 = 1#2 from g0 0 rfl]; rfl
  refine decodeWord_of .v he ?_ hf0
  show decodeV w0 = _
  unfold decodeV
  rw [show wordOp w0 = 52 from congrArg BitVec.toNat (g0 2 rfl)]
  refine (if_pos ?_).trans ?_
  · exact ⟨Field.zero (fs := [⟨30, 1#2⟩, ⟨27, t⟩, ⟨21, 52#6⟩, ⟨18, e⟩, ⟨11, d⟩, ⟨6, q⟩, ⟨1, r⟩]) (Option.some.inj h0).symm rfl 16 2 rfl, Field.zero (fs := [⟨30, 1#2⟩, ⟨27, t⟩, ⟨21, 52#6⟩, ⟨18, e⟩, ⟨11, d⟩, ⟨6, q⟩, ⟨1, r⟩]) (Option.some.inj h0).symm rfl 10 1 rfl, Field.zero (fs := [⟨30, 1#2⟩, ⟨27, t⟩, ⟨21, 52#6⟩, ⟨18, e⟩, ⟨11, d⟩, ⟨6, q⟩, ⟨1, r⟩]) (Option.some.inj h0).symm rfl 0 1 rfl⟩
  show (Except.ok (.vsst (fld w0 27 3) (fld w0 18 3) (fld w0 11 5) (fld w0 6 4) (fld w0 1 5)) : Except Reject Instr) = _
  rw [show fld w0 27 3 = t from g0 1 rfl, show fld w0 18 3 = e from g0 3 rfl, show fld w0 11 5 = d from g0 4 rfl, show fld w0 6 4 = q from g0 5 rfl, show fld w0 1 5 = r from g0 6 rfl]

theorem RoundTrip.vgath (t : BitVec 3) (e : BitVec 3) (d : BitVec 5) (i : BitVec 5) (q : BitVec 4) : RoundTrip.Statement (.vgath t e d i q) := by
  intro w0 h0 hf0
  have g0 {x : Field} := @Field.get w0 [⟨30, 1#2⟩, ⟨27, t⟩, ⟨21, 53#6⟩, ⟨18, e⟩, ⟨11, d⟩, ⟨6, i⟩, ⟨1, q⟩] (Option.some.inj h0).symm rfl x
  have he : wordEngine w0 = .v := by rw [wordEngine, show fld w0 30 2 = 1#2 from g0 0 rfl]; rfl
  refine decodeWord_of .v he ?_ hf0
  show decodeV w0 = _
  unfold decodeV
  rw [show wordOp w0 = 53 from congrArg BitVec.toNat (g0 2 rfl)]
  refine (if_pos ?_).trans ?_
  · exact ⟨Field.zero (fs := [⟨30, 1#2⟩, ⟨27, t⟩, ⟨21, 53#6⟩, ⟨18, e⟩, ⟨11, d⟩, ⟨6, i⟩, ⟨1, q⟩]) (Option.some.inj h0).symm rfl 16 2 rfl, Field.zero (fs := [⟨30, 1#2⟩, ⟨27, t⟩, ⟨21, 53#6⟩, ⟨18, e⟩, ⟨11, d⟩, ⟨6, i⟩, ⟨1, q⟩]) (Option.some.inj h0).symm rfl 5 1 rfl, Field.zero (fs := [⟨30, 1#2⟩, ⟨27, t⟩, ⟨21, 53#6⟩, ⟨18, e⟩, ⟨11, d⟩, ⟨6, i⟩, ⟨1, q⟩]) (Option.some.inj h0).symm rfl 0 1 rfl⟩
  show (Except.ok (.vgath (fld w0 27 3) (fld w0 18 3) (fld w0 11 5) (fld w0 6 5) (fld w0 1 4)) : Except Reject Instr) = _
  rw [show fld w0 27 3 = t from g0 1 rfl, show fld w0 18 3 = e from g0 3 rfl, show fld w0 11 5 = d from g0 4 rfl, show fld w0 6 5 = i from g0 5 rfl, show fld w0 1 4 = q from g0 6 rfl]

theorem RoundTrip.vscat (t : BitVec 3) (e : BitVec 3) (d : BitVec 5) (i : BitVec 5) (q : BitVec 4) : RoundTrip.Statement (.vscat t e d i q) := by
  intro w0 h0 hf0
  have g0 {x : Field} := @Field.get w0 [⟨30, 1#2⟩, ⟨27, t⟩, ⟨21, 54#6⟩, ⟨18, e⟩, ⟨11, d⟩, ⟨6, i⟩, ⟨1, q⟩] (Option.some.inj h0).symm rfl x
  have he : wordEngine w0 = .v := by rw [wordEngine, show fld w0 30 2 = 1#2 from g0 0 rfl]; rfl
  refine decodeWord_of .v he ?_ hf0
  show decodeV w0 = _
  unfold decodeV
  rw [show wordOp w0 = 54 from congrArg BitVec.toNat (g0 2 rfl)]
  refine (if_pos ?_).trans ?_
  · exact ⟨Field.zero (fs := [⟨30, 1#2⟩, ⟨27, t⟩, ⟨21, 54#6⟩, ⟨18, e⟩, ⟨11, d⟩, ⟨6, i⟩, ⟨1, q⟩]) (Option.some.inj h0).symm rfl 16 2 rfl, Field.zero (fs := [⟨30, 1#2⟩, ⟨27, t⟩, ⟨21, 54#6⟩, ⟨18, e⟩, ⟨11, d⟩, ⟨6, i⟩, ⟨1, q⟩]) (Option.some.inj h0).symm rfl 5 1 rfl, Field.zero (fs := [⟨30, 1#2⟩, ⟨27, t⟩, ⟨21, 54#6⟩, ⟨18, e⟩, ⟨11, d⟩, ⟨6, i⟩, ⟨1, q⟩]) (Option.some.inj h0).symm rfl 0 1 rfl⟩
  show (Except.ok (.vscat (fld w0 27 3) (fld w0 18 3) (fld w0 11 5) (fld w0 6 5) (fld w0 1 4)) : Except Reject Instr) = _
  rw [show fld w0 27 3 = t from g0 1 rfl, show fld w0 18 3 = e from g0 3 rfl, show fld w0 11 5 = d from g0 4 rfl, show fld w0 6 5 = i from g0 5 rfl, show fld w0 1 4 = q from g0 6 rfl]

theorem RoundTrip.vpart (t : BitVec 3) (k : BitVec 2) (d : BitVec 4) (i : BitVec 5) : RoundTrip.Statement (.vpart t k d i) := by
  intro w0 h0 hf0
  have g0 {x : Field} := @Field.get w0 [⟨30, 1#2⟩, ⟨27, t⟩, ⟨21, 55#6⟩, ⟨16, k⟩, ⟨12, d⟩, ⟨6, i⟩] (Option.some.inj h0).symm rfl x
  have he : wordEngine w0 = .v := by rw [wordEngine, show fld w0 30 2 = 1#2 from g0 0 rfl]; rfl
  refine decodeWord_of .v he ?_ hf0
  show decodeV w0 = _
  unfold decodeV
  rw [show wordOp w0 = 55 from congrArg BitVec.toNat (g0 2 rfl)]
  refine (if_pos ?_).trans ?_
  · exact ⟨Field.zero (fs := [⟨30, 1#2⟩, ⟨27, t⟩, ⟨21, 55#6⟩, ⟨16, k⟩, ⟨12, d⟩, ⟨6, i⟩]) (Option.some.inj h0).symm rfl 18 3 rfl, Field.zero (fs := [⟨30, 1#2⟩, ⟨27, t⟩, ⟨21, 55#6⟩, ⟨16, k⟩, ⟨12, d⟩, ⟨6, i⟩]) (Option.some.inj h0).symm rfl 11 1 rfl, Field.zero (fs := [⟨30, 1#2⟩, ⟨27, t⟩, ⟨21, 55#6⟩, ⟨16, k⟩, ⟨12, d⟩, ⟨6, i⟩]) (Option.some.inj h0).symm rfl 0 6 rfl⟩
  show (Except.ok (.vpart (fld w0 27 3) (fld w0 16 2) (fld w0 12 4) (fld w0 6 5)) : Except Reject Instr) = _
  rw [show fld w0 27 3 = t from g0 1 rfl, show fld w0 16 2 = k from g0 3 rfl, show fld w0 12 4 = d from g0 4 rfl, show fld w0 6 5 = i from g0 5 rfl]

theorem RoundTrip.vxs (t : BitVec 3) (w : BitVec 2) (d : BitVec 6) (a : BitVec 5) : RoundTrip.Statement (.vxs t w d a) := by
  intro w0 h0 hf0
  have hs : w0 = BitVec.ofNat 32 (Field.sum [⟨30, 1#2⟩, ⟨27, t⟩, ⟨21, 56#6⟩, ⟨16, w⟩, ⟨11, BitVec.extractLsb' 0 5 d⟩, ⟨6, a⟩, ⟨5, BitVec.extractLsb' 5 1 d⟩]) := by
    refine (Option.some.inj h0).symm.trans (Eq.trans (congrArg pack ?_) (Field.pack_map _))
    simp only [List.map]
    rw [high_bits (m := 1) (n := 5) d 32 rfl, low_bits (m := 1) (n := 5) d 32 rfl]
    rfl
  have g0 {x : Field} := @Field.get w0 _ hs rfl x
  have he : wordEngine w0 = .v := by rw [wordEngine, show fld w0 30 2 = 1#2 from g0 0 rfl]; rfl
  refine decodeWord_of .v he ?_ hf0
  show decodeV w0 = _
  unfold decodeV
  rw [show wordOp w0 = 56 from congrArg BitVec.toNat (g0 2 rfl)]
  refine (if_neg ?_).trans ?_
  · exact fun h1 => absurd h1.2.2 (fun e => absurd ((show fld w0 0 5 = 0#5 from Field.zero (fs := [⟨30, 1#2⟩, ⟨27, t⟩, ⟨21, 56#6⟩, ⟨16, w⟩, ⟨11, BitVec.extractLsb' 0 5 d⟩, ⟨6, a⟩, ⟨5, BitVec.extractLsb' 5 1 d⟩]) hs rfl 0 5 rfl).symm.trans e) (by decide))
  refine (if_pos ?_).trans ?_
  · exact ⟨Field.zero (fs := [⟨30, 1#2⟩, ⟨27, t⟩, ⟨21, 56#6⟩, ⟨16, w⟩, ⟨11, BitVec.extractLsb' 0 5 d⟩, ⟨6, a⟩, ⟨5, BitVec.extractLsb' 5 1 d⟩]) hs rfl 18 3 rfl, Field.zero (fs := [⟨30, 1#2⟩, ⟨27, t⟩, ⟨21, 56#6⟩, ⟨16, w⟩, ⟨11, BitVec.extractLsb' 0 5 d⟩, ⟨6, a⟩, ⟨5, BitVec.extractLsb' 5 1 d⟩]) hs rfl 0 5 rfl⟩
  show (Except.ok (.vxs (fld w0 27 3) (fld w0 16 2) (fld w0 5 1 ++ fld w0 11 5) (fld w0 6 5)) : Except Reject Instr) = _
  rw [show fld w0 27 3 = t from g0 1 rfl, show fld w0 16 2 = w from g0 3 rfl, show fld w0 5 1 = BitVec.extractLsb' 5 1 d from g0 6 rfl, show fld w0 11 5 = BitVec.extractLsb' 0 5 d from g0 4 rfl, show fld w0 6 5 = a from g0 5 rfl, show BitVec.extractLsb' 5 1 d ++ BitVec.extractLsb' 0 5 d = d from split_bits (m := 1) (n := 5) d]

theorem RoundTrip.vxsPart (t : BitVec 3) (d : BitVec 6) : RoundTrip.Statement (.vxsPart t d) := by
  intro w0 h0 hf0
  have hs : w0 = BitVec.ofNat 32 (Field.sum [⟨30, 1#2⟩, ⟨27, t⟩, ⟨21, 56#6⟩, ⟨11, BitVec.extractLsb' 0 5 d⟩, ⟨5, BitVec.extractLsb' 5 1 d⟩, ⟨0, 1#5⟩]) := by
    refine (Option.some.inj h0).symm.trans (Eq.trans (congrArg pack ?_) (Field.pack_map _))
    simp only [List.map]
    rw [high_bits (m := 1) (n := 5) d 32 rfl, low_bits (m := 1) (n := 5) d 32 rfl]
    rfl
  have g0 {x : Field} := @Field.get w0 _ hs rfl x
  have he : wordEngine w0 = .v := by rw [wordEngine, show fld w0 30 2 = 1#2 from g0 0 rfl]; rfl
  refine decodeWord_of .v he ?_ hf0
  show decodeV w0 = _
  unfold decodeV
  rw [show wordOp w0 = 56 from congrArg BitVec.toNat (g0 2 rfl)]
  refine (if_pos ?_).trans ?_
  · exact ⟨Field.zero (fs := [⟨30, 1#2⟩, ⟨27, t⟩, ⟨21, 56#6⟩, ⟨11, BitVec.extractLsb' 0 5 d⟩, ⟨5, BitVec.extractLsb' 5 1 d⟩, ⟨0, 1#5⟩]) hs rfl 16 5 rfl, Field.zero (fs := [⟨30, 1#2⟩, ⟨27, t⟩, ⟨21, 56#6⟩, ⟨11, BitVec.extractLsb' 0 5 d⟩, ⟨5, BitVec.extractLsb' 5 1 d⟩, ⟨0, 1#5⟩]) hs rfl 6 5 rfl, g0 5 rfl⟩
  show (Except.ok (.vxsPart (fld w0 27 3) (fld w0 5 1 ++ fld w0 11 5)) : Except Reject Instr) = _
  rw [show fld w0 27 3 = t from g0 1 rfl, show fld w0 5 1 = BitVec.extractLsb' 5 1 d from g0 4 rfl, show fld w0 11 5 = BitVec.extractLsb' 0 5 d from g0 3 rfl, show BitVec.extractLsb' 5 1 d ++ BitVec.extractLsb' 0 5 d = d from split_bits (m := 1) (n := 5) d]

theorem RoundTrip.vsx (t : BitVec 3) (e : BitVec 3) (w : BitVec 2) (d : BitVec 5) (a : BitVec 6) : RoundTrip.Statement (.vsx t e w d a) := by
  intro w0 h0 hf0
  have hs : w0 = BitVec.ofNat 32 (Field.sum [⟨30, 1#2⟩, ⟨27, t⟩, ⟨21, 57#6⟩, ⟨18, e⟩, ⟨16, w⟩, ⟨11, d⟩, ⟨6, BitVec.extractLsb' 0 5 a⟩, ⟨5, BitVec.extractLsb' 5 1 a⟩]) := by
    refine (Option.some.inj h0).symm.trans (Eq.trans (congrArg pack ?_) (Field.pack_map _))
    simp only [List.map]
    rw [high_bits (m := 1) (n := 5) a 32 rfl, low_bits (m := 1) (n := 5) a 32 rfl]
    rfl
  have g0 {x : Field} := @Field.get w0 _ hs rfl x
  have he : wordEngine w0 = .v := by rw [wordEngine, show fld w0 30 2 = 1#2 from g0 0 rfl]; rfl
  refine decodeWord_of .v he ?_ hf0
  show decodeV w0 = _
  unfold decodeV
  rw [show wordOp w0 = 57 from congrArg BitVec.toNat (g0 2 rfl)]
  refine (if_pos ?_).trans ?_
  · exact Field.zero (fs := [⟨30, 1#2⟩, ⟨27, t⟩, ⟨21, 57#6⟩, ⟨18, e⟩, ⟨16, w⟩, ⟨11, d⟩, ⟨6, BitVec.extractLsb' 0 5 a⟩, ⟨5, BitVec.extractLsb' 5 1 a⟩]) hs rfl 0 5 rfl
  show (Except.ok (.vsx (fld w0 27 3) (fld w0 18 3) (fld w0 16 2) (fld w0 11 5) (fld w0 5 1 ++ fld w0 6 5)) : Except Reject Instr) = _
  rw [show fld w0 27 3 = t from g0 1 rfl, show fld w0 18 3 = e from g0 3 rfl, show fld w0 16 2 = w from g0 4 rfl, show fld w0 11 5 = d from g0 5 rfl, show fld w0 5 1 = BitVec.extractLsb' 5 1 a from g0 7 rfl, show fld w0 6 5 = BitVec.extractLsb' 0 5 a from g0 6 rfl, show BitVec.extractLsb' 5 1 a ++ BitVec.extractLsb' 0 5 a = a from split_bits (m := 1) (n := 5) a]

theorem RoundTrip.mma (t : BitVec 3) (c : BitVec 7) (a : BitVec 4) (b : BitVec 4) (n : BitVec 1) (m : BitVec 1) (e : BitVec 1) (s : BitVec 1) : RoundTrip.Statement (.mma t c a b n m e s) := by
  intro w0 h0 hf0
  have g0 {x : Field} := @Field.get w0 [⟨30, 2#2⟩, ⟨27, t⟩, ⟨21, 1#6⟩, ⟨14, c⟩, ⟨10, a⟩, ⟨6, b⟩, ⟨5, n⟩, ⟨4, m⟩, ⟨3, e⟩, ⟨2, s⟩] (Option.some.inj h0).symm rfl x
  have he : wordEngine w0 = .m := by rw [wordEngine, show fld w0 30 2 = 2#2 from g0 0 rfl]; rfl
  refine decodeWord_of .m he ?_ hf0
  show decodeM w0 = _
  unfold decodeM
  rw [show wordOp w0 = 1 from congrArg BitVec.toNat (g0 2 rfl)]
  refine (if_pos ?_).trans ?_
  · exact Field.zero (fs := [⟨30, 2#2⟩, ⟨27, t⟩, ⟨21, 1#6⟩, ⟨14, c⟩, ⟨10, a⟩, ⟨6, b⟩, ⟨5, n⟩, ⟨4, m⟩, ⟨3, e⟩, ⟨2, s⟩]) (Option.some.inj h0).symm rfl 0 2 rfl
  show (Except.ok (.mma (fld w0 27 3) (fld w0 14 7) (fld w0 10 4) (fld w0 6 4) (fld w0 5 1) (fld w0 4 1) (fld w0 3 1) (fld w0 2 1)) : Except Reject Instr) = _
  rw [show fld w0 27 3 = t from g0 1 rfl, show fld w0 14 7 = c from g0 3 rfl, show fld w0 10 4 = a from g0 4 rfl, show fld w0 6 4 = b from g0 5 rfl, show fld w0 5 1 = n from g0 6 rfl, show fld w0 4 1 = m from g0 7 rfl, show fld w0 3 1 = e from g0 8 rfl, show fld w0 2 1 = s from g0 9 rfl]

theorem RoundTrip.mmasN4 (t : BitVec 3) (c : BitVec 7) (a : BitVec 4) (b : BitVec 4) (n : BitVec 1) (m : BitVec 1) (e : BitVec 1) (s : BitVec 1) : RoundTrip.Statement (.mmasN4 t c a b n m e s) := by
  intro w0 h0 hf0
  have g0 {x : Field} := @Field.get w0 [⟨30, 2#2⟩, ⟨27, t⟩, ⟨21, 2#6⟩, ⟨14, c⟩, ⟨10, a⟩, ⟨6, b⟩, ⟨5, n⟩, ⟨4, m⟩, ⟨3, e⟩, ⟨2, s⟩] (Option.some.inj h0).symm rfl x
  have he : wordEngine w0 = .m := by rw [wordEngine, show fld w0 30 2 = 2#2 from g0 0 rfl]; rfl
  refine decodeWord_of .m he ?_ hf0
  show decodeM w0 = _
  unfold decodeM
  rw [show wordOp w0 = 2 from congrArg BitVec.toNat (g0 2 rfl)]
  refine (if_pos ?_).trans ?_
  · exact Field.zero (fs := [⟨30, 2#2⟩, ⟨27, t⟩, ⟨21, 2#6⟩, ⟨14, c⟩, ⟨10, a⟩, ⟨6, b⟩, ⟨5, n⟩, ⟨4, m⟩, ⟨3, e⟩, ⟨2, s⟩]) (Option.some.inj h0).symm rfl 0 2 rfl
  show (Except.ok (.mmasN4 (fld w0 27 3) (fld w0 14 7) (fld w0 10 4) (fld w0 6 4) (fld w0 5 1) (fld w0 4 1) (fld w0 3 1) (fld w0 2 1)) : Except Reject Instr) = _
  rw [show fld w0 27 3 = t from g0 1 rfl, show fld w0 14 7 = c from g0 3 rfl, show fld w0 10 4 = a from g0 4 rfl, show fld w0 6 4 = b from g0 5 rfl, show fld w0 5 1 = n from g0 6 rfl, show fld w0 4 1 = m from g0 7 rfl, show fld w0 3 1 = e from g0 8 rfl, show fld w0 2 1 = s from g0 9 rfl]

theorem RoundTrip.mmasN8 (t : BitVec 3) (c : BitVec 7) (a : BitVec 4) (b : BitVec 4) (n : BitVec 1) (m : BitVec 1) (e : BitVec 1) (s : BitVec 1) : RoundTrip.Statement (.mmasN8 t c a b n m e s) := by
  intro w0 h0 hf0
  have g0 {x : Field} := @Field.get w0 [⟨30, 2#2⟩, ⟨27, t⟩, ⟨21, 2#6⟩, ⟨14, c⟩, ⟨10, a⟩, ⟨6, b⟩, ⟨5, n⟩, ⟨4, m⟩, ⟨3, e⟩, ⟨2, s⟩, ⟨0, 1#2⟩] (Option.some.inj h0).symm rfl x
  have he : wordEngine w0 = .m := by rw [wordEngine, show fld w0 30 2 = 2#2 from g0 0 rfl]; rfl
  refine decodeWord_of .m he ?_ hf0
  show decodeM w0 = _
  unfold decodeM
  rw [show wordOp w0 = 2 from congrArg BitVec.toNat (g0 2 rfl)]
  refine (if_neg ?_).trans ?_
  · exact fun h1 => absurd h1 (fun e => absurd ((show fld w0 0 2 = 1#2 from g0 10 rfl).symm.trans e) (by decide))
  refine (if_pos ?_).trans ?_
  · exact g0 10 rfl
  show (Except.ok (.mmasN8 (fld w0 27 3) (fld w0 14 7) (fld w0 10 4) (fld w0 6 4) (fld w0 5 1) (fld w0 4 1) (fld w0 3 1) (fld w0 2 1)) : Except Reject Instr) = _
  rw [show fld w0 27 3 = t from g0 1 rfl, show fld w0 14 7 = c from g0 3 rfl, show fld w0 10 4 = a from g0 4 rfl, show fld w0 6 4 = b from g0 5 rfl, show fld w0 5 1 = n from g0 6 rfl, show fld w0 4 1 = m from g0 7 rfl, show fld w0 3 1 = e from g0 8 rfl, show fld w0 2 1 = s from g0 9 rfl]

theorem RoundTrip.mzero (t : BitVec 3) (c : BitVec 7) (k : BitVec 4) : RoundTrip.Statement (.mzero t c k) := by
  intro w0 h0 hf0
  have g0 {x : Field} := @Field.get w0 [⟨30, 2#2⟩, ⟨27, t⟩, ⟨21, 3#6⟩, ⟨14, c⟩, ⟨10, k⟩] (Option.some.inj h0).symm rfl x
  have he : wordEngine w0 = .m := by rw [wordEngine, show fld w0 30 2 = 2#2 from g0 0 rfl]; rfl
  refine decodeWord_of .m he ?_ hf0
  show decodeM w0 = _
  unfold decodeM
  rw [show wordOp w0 = 3 from congrArg BitVec.toNat (g0 2 rfl)]
  refine (if_pos ?_).trans ?_
  · exact Field.zero (fs := [⟨30, 2#2⟩, ⟨27, t⟩, ⟨21, 3#6⟩, ⟨14, c⟩, ⟨10, k⟩]) (Option.some.inj h0).symm rfl 0 10 rfl
  show (Except.ok (.mzero (fld w0 27 3) (fld w0 14 7) (fld w0 10 4)) : Except Reject Instr) = _
  rw [show fld w0 27 3 = t from g0 1 rfl, show fld w0 14 7 = c from g0 3 rfl, show fld w0 10 4 = k from g0 4 rfl]

theorem RoundTrip.mload (t : BitVec 3) (c : BitVec 7) (a : BitVec 4) : RoundTrip.Statement (.mload t c a) := by
  intro w0 h0 hf0
  have g0 {x : Field} := @Field.get w0 [⟨30, 2#2⟩, ⟨27, t⟩, ⟨21, 4#6⟩, ⟨14, c⟩, ⟨10, a⟩] (Option.some.inj h0).symm rfl x
  have he : wordEngine w0 = .m := by rw [wordEngine, show fld w0 30 2 = 2#2 from g0 0 rfl]; rfl
  refine decodeWord_of .m he ?_ hf0
  show decodeM w0 = _
  unfold decodeM
  rw [show wordOp w0 = 4 from congrArg BitVec.toNat (g0 2 rfl)]
  refine (if_pos ?_).trans ?_
  · exact Field.zero (fs := [⟨30, 2#2⟩, ⟨27, t⟩, ⟨21, 4#6⟩, ⟨14, c⟩, ⟨10, a⟩]) (Option.some.inj h0).symm rfl 0 10 rfl
  show (Except.ok (.mload (fld w0 27 3) (fld w0 14 7) (fld w0 10 4)) : Except Reject Instr) = _
  rw [show fld w0 27 3 = t from g0 1 rfl, show fld w0 14 7 = c from g0 3 rfl, show fld w0 10 4 = a from g0 4 rfl]

theorem RoundTrip.mout (t : BitVec 3) (c : BitVec 7) (a : BitVec 4) (s : BitVec 1) (y : BitVec 2) : RoundTrip.Statement (.mout t c a s y) := by
  intro w0 h0 hf0
  have g0 {x : Field} := @Field.get w0 [⟨30, 2#2⟩, ⟨27, t⟩, ⟨21, 5#6⟩, ⟨14, c⟩, ⟨10, a⟩, ⟨2, s⟩, ⟨0, y⟩] (Option.some.inj h0).symm rfl x
  have he : wordEngine w0 = .m := by rw [wordEngine, show fld w0 30 2 = 2#2 from g0 0 rfl]; rfl
  refine decodeWord_of .m he ?_ hf0
  show decodeM w0 = _
  unfold decodeM
  rw [show wordOp w0 = 5 from congrArg BitVec.toNat (g0 2 rfl)]
  refine (if_pos ?_).trans ?_
  · exact Field.zero (fs := [⟨30, 2#2⟩, ⟨27, t⟩, ⟨21, 5#6⟩, ⟨14, c⟩, ⟨10, a⟩, ⟨2, s⟩, ⟨0, y⟩]) (Option.some.inj h0).symm rfl 3 7 rfl
  show (Except.ok (.mout (fld w0 27 3) (fld w0 14 7) (fld w0 10 4) (fld w0 2 1) (fld w0 0 2)) : Except Reject Instr) = _
  rw [show fld w0 27 3 = t from g0 1 rfl, show fld w0 14 7 = c from g0 3 rfl, show fld w0 10 4 = a from g0 4 rfl, show fld w0 2 1 = s from g0 5 rfl, show fld w0 0 2 = y from g0 6 rfl]

theorem RoundTrip.mcopy (t : BitVec 3) (c : BitVec 7) (s : BitVec 7) (y : BitVec 1) : RoundTrip.Statement (.mcopy t c s y) := by
  intro w0 h0 hf0
  have g0 {x : Field} := @Field.get w0 [⟨30, 2#2⟩, ⟨27, t⟩, ⟨21, 6#6⟩, ⟨14, c⟩, ⟨6, s⟩, ⟨1, y⟩] (Option.some.inj h0).symm rfl x
  have he : wordEngine w0 = .m := by rw [wordEngine, show fld w0 30 2 = 2#2 from g0 0 rfl]; rfl
  refine decodeWord_of .m he ?_ hf0
  show decodeM w0 = _
  unfold decodeM
  rw [show wordOp w0 = 6 from congrArg BitVec.toNat (g0 2 rfl)]
  refine (if_pos ?_).trans ?_
  · exact ⟨Field.zero (fs := [⟨30, 2#2⟩, ⟨27, t⟩, ⟨21, 6#6⟩, ⟨14, c⟩, ⟨6, s⟩, ⟨1, y⟩]) (Option.some.inj h0).symm rfl 13 1 rfl, Field.zero (fs := [⟨30, 2#2⟩, ⟨27, t⟩, ⟨21, 6#6⟩, ⟨14, c⟩, ⟨6, s⟩, ⟨1, y⟩]) (Option.some.inj h0).symm rfl 2 4 rfl, Field.zero (fs := [⟨30, 2#2⟩, ⟨27, t⟩, ⟨21, 6#6⟩, ⟨14, c⟩, ⟨6, s⟩, ⟨1, y⟩]) (Option.some.inj h0).symm rfl 0 1 rfl⟩
  show (Except.ok (.mcopy (fld w0 27 3) (fld w0 14 7) (fld w0 6 7) (fld w0 1 1)) : Except Reject Instr) = _
  rw [show fld w0 27 3 = t from g0 1 rfl, show fld w0 14 7 = c from g0 3 rfl, show fld w0 6 7 = s from g0 4 rfl, show fld w0 1 1 = y from g0 5 rfl]

theorem RoundTrip.madd (t : BitVec 3) (c : BitVec 7) (s : BitVec 7) (n : BitVec 1) (u : BitVec 1) (y : BitVec 2) : RoundTrip.Statement (.madd t c s n u y) := by
  intro w0 h0 hf0
  have g0 {x : Field} := @Field.get w0 [⟨30, 2#2⟩, ⟨27, t⟩, ⟨21, 7#6⟩, ⟨14, c⟩, ⟨6, s⟩, ⟨5, n⟩, ⟨2, u⟩, ⟨0, y⟩] (Option.some.inj h0).symm rfl x
  have he : wordEngine w0 = .m := by rw [wordEngine, show fld w0 30 2 = 2#2 from g0 0 rfl]; rfl
  refine decodeWord_of .m he ?_ hf0
  show decodeM w0 = _
  unfold decodeM
  rw [show wordOp w0 = 7 from congrArg BitVec.toNat (g0 2 rfl)]
  refine (if_pos ?_).trans ?_
  · exact ⟨Field.zero (fs := [⟨30, 2#2⟩, ⟨27, t⟩, ⟨21, 7#6⟩, ⟨14, c⟩, ⟨6, s⟩, ⟨5, n⟩, ⟨2, u⟩, ⟨0, y⟩]) (Option.some.inj h0).symm rfl 13 1 rfl, Field.zero (fs := [⟨30, 2#2⟩, ⟨27, t⟩, ⟨21, 7#6⟩, ⟨14, c⟩, ⟨6, s⟩, ⟨5, n⟩, ⟨2, u⟩, ⟨0, y⟩]) (Option.some.inj h0).symm rfl 3 2 rfl⟩
  show (Except.ok (.madd (fld w0 27 3) (fld w0 14 7) (fld w0 6 7) (fld w0 5 1) (fld w0 2 1) (fld w0 0 2)) : Except Reject Instr) = _
  rw [show fld w0 27 3 = t from g0 1 rfl, show fld w0 14 7 = c from g0 3 rfl, show fld w0 6 7 = s from g0 4 rfl, show fld w0 5 1 = n from g0 5 rfl, show fld w0 2 1 = u from g0 6 rfl, show fld w0 0 2 = y from g0 7 rfl]

theorem RoundTrip.mbias (t : BitVec 3) (c : BitVec 7) (a : BitVec 4) (n : BitVec 1) (l : BitVec 1) (u : BitVec 1) (y : BitVec 2) : RoundTrip.Statement (.mbias t c a n l u y) := by
  intro w0 h0 hf0
  have g0 {x : Field} := @Field.get w0 [⟨30, 2#2⟩, ⟨27, t⟩, ⟨21, 8#6⟩, ⟨14, c⟩, ⟨10, a⟩, ⟨5, n⟩, ⟨4, l⟩, ⟨2, u⟩, ⟨0, y⟩] (Option.some.inj h0).symm rfl x
  have he : wordEngine w0 = .m := by rw [wordEngine, show fld w0 30 2 = 2#2 from g0 0 rfl]; rfl
  refine decodeWord_of .m he ?_ hf0
  show decodeM w0 = _
  unfold decodeM
  rw [show wordOp w0 = 8 from congrArg BitVec.toNat (g0 2 rfl)]
  refine (if_pos ?_).trans ?_
  · exact ⟨Field.zero (fs := [⟨30, 2#2⟩, ⟨27, t⟩, ⟨21, 8#6⟩, ⟨14, c⟩, ⟨10, a⟩, ⟨5, n⟩, ⟨4, l⟩, ⟨2, u⟩, ⟨0, y⟩]) (Option.some.inj h0).symm rfl 6 4 rfl, Field.zero (fs := [⟨30, 2#2⟩, ⟨27, t⟩, ⟨21, 8#6⟩, ⟨14, c⟩, ⟨10, a⟩, ⟨5, n⟩, ⟨4, l⟩, ⟨2, u⟩, ⟨0, y⟩]) (Option.some.inj h0).symm rfl 3 1 rfl⟩
  show (Except.ok (.mbias (fld w0 27 3) (fld w0 14 7) (fld w0 10 4) (fld w0 5 1) (fld w0 4 1) (fld w0 2 1) (fld w0 0 2)) : Except Reject Instr) = _
  rw [show fld w0 27 3 = t from g0 1 rfl, show fld w0 14 7 = c from g0 3 rfl, show fld w0 10 4 = a from g0 4 rfl, show fld w0 5 1 = n from g0 5 rfl, show fld w0 4 1 = l from g0 6 rfl, show fld w0 2 1 = u from g0 7 rfl, show fld w0 0 2 = y from g0 8 rfl]

theorem RoundTrip.mscale (t : BitVec 3) (c : BitVec 7) (a : BitVec 4) (n : BitVec 1) (l : BitVec 1) (y : BitVec 2) : RoundTrip.Statement (.mscale t c a n l y) := by
  intro w0 h0 hf0
  have g0 {x : Field} := @Field.get w0 [⟨30, 2#2⟩, ⟨27, t⟩, ⟨21, 9#6⟩, ⟨14, c⟩, ⟨10, a⟩, ⟨5, n⟩, ⟨4, l⟩, ⟨0, y⟩] (Option.some.inj h0).symm rfl x
  have he : wordEngine w0 = .m := by rw [wordEngine, show fld w0 30 2 = 2#2 from g0 0 rfl]; rfl
  refine decodeWord_of .m he ?_ hf0
  show decodeM w0 = _
  unfold decodeM
  rw [show wordOp w0 = 9 from congrArg BitVec.toNat (g0 2 rfl)]
  refine (if_pos ?_).trans ?_
  · exact ⟨Field.zero (fs := [⟨30, 2#2⟩, ⟨27, t⟩, ⟨21, 9#6⟩, ⟨14, c⟩, ⟨10, a⟩, ⟨5, n⟩, ⟨4, l⟩, ⟨0, y⟩]) (Option.some.inj h0).symm rfl 6 4 rfl, Field.zero (fs := [⟨30, 2#2⟩, ⟨27, t⟩, ⟨21, 9#6⟩, ⟨14, c⟩, ⟨10, a⟩, ⟨5, n⟩, ⟨4, l⟩, ⟨0, y⟩]) (Option.some.inj h0).symm rfl 2 2 rfl⟩
  show (Except.ok (.mscale (fld w0 27 3) (fld w0 14 7) (fld w0 10 4) (fld w0 5 1) (fld w0 4 1) (fld w0 0 2)) : Except Reject Instr) = _
  rw [show fld w0 27 3 = t from g0 1 rfl, show fld w0 14 7 = c from g0 3 rfl, show fld w0 10 4 = a from g0 4 rfl, show fld w0 5 1 = n from g0 5 rfl, show fld w0 4 1 = l from g0 6 rfl, show fld w0 0 2 = y from g0 7 rfl]

theorem RoundTrip.mwait (t : BitVec 3) (k : BitVec 3) : RoundTrip.Statement (.mwait t k) := by
  intro w0 h0 hf0
  have g0 {x : Field} := @Field.get w0 [⟨30, 2#2⟩, ⟨27, t⟩, ⟨21, 10#6⟩, ⟨0, k⟩] (Option.some.inj h0).symm rfl x
  have he : wordEngine w0 = .m := by rw [wordEngine, show fld w0 30 2 = 2#2 from g0 0 rfl]; rfl
  refine decodeWord_of .m he ?_ hf0
  show decodeM w0 = _
  unfold decodeM
  rw [show wordOp w0 = 10 from congrArg BitVec.toNat (g0 2 rfl)]
  refine (if_pos ?_).trans ?_
  · exact Field.zero (fs := [⟨30, 2#2⟩, ⟨27, t⟩, ⟨21, 10#6⟩, ⟨0, k⟩]) (Option.some.inj h0).symm rfl 3 18 rfl
  show (Except.ok (.mwait (fld w0 27 3) (fld w0 0 3)) : Except Reject Instr) = _
  rw [show fld w0 27 3 = t from g0 1 rfl, show fld w0 0 3 = k from g0 3 rfl]

theorem RoundTrip.msig (t : BitVec 3) (k : BitVec 3) : RoundTrip.Statement (.msig t k) := by
  intro w0 h0 hf0
  have g0 {x : Field} := @Field.get w0 [⟨30, 2#2⟩, ⟨27, t⟩, ⟨21, 10#6⟩, ⟨3, 1#18⟩, ⟨0, k⟩] (Option.some.inj h0).symm rfl x
  have he : wordEngine w0 = .m := by rw [wordEngine, show fld w0 30 2 = 2#2 from g0 0 rfl]; rfl
  refine decodeWord_of .m he ?_ hf0
  show decodeM w0 = _
  unfold decodeM
  rw [show wordOp w0 = 10 from congrArg BitVec.toNat (g0 2 rfl)]
  refine (if_neg ?_).trans ?_
  · exact fun h1 => absurd h1 (fun e => absurd ((show fld w0 3 18 = 1#18 from g0 3 rfl).symm.trans e) (by decide))
  refine (if_pos ?_).trans ?_
  · exact g0 3 rfl
  show (Except.ok (.msig (fld w0 27 3) (fld w0 0 3)) : Except Reject Instr) = _
  rw [show fld w0 27 3 = t from g0 1 rfl, show fld w0 0 3 = k from g0 4 rfl]

theorem RoundTrip.mnop (t : BitVec 3) : RoundTrip.Statement (.mnop t) := by
  intro w0 h0 hf0
  have g0 {x : Field} := @Field.get w0 [⟨30, 2#2⟩, ⟨27, t⟩, ⟨21, 11#6⟩] (Option.some.inj h0).symm rfl x
  have he : wordEngine w0 = .m := by rw [wordEngine, show fld w0 30 2 = 2#2 from g0 0 rfl]; rfl
  refine decodeWord_of .m he ?_ hf0
  show decodeM w0 = _
  unfold decodeM
  rw [show wordOp w0 = 11 from congrArg BitVec.toNat (g0 2 rfl)]
  refine (if_pos ?_).trans ?_
  · exact Field.zero (fs := [⟨30, 2#2⟩, ⟨27, t⟩, ⟨21, 11#6⟩]) (Option.some.inj h0).symm rfl 0 21 rfl
  show (Except.ok (.mnop (fld w0 27 3)) : Except Reject Instr) = _
  rw [show fld w0 27 3 = t from g0 1 rfl]

theorem RoundTrip.xmov (t : BitVec 3) (s : BitVec 4) (d : BitVec 4) (q : BitVec 1) (r : BitVec 1) (c : BitVec 2) (b : BitVec 1) (g : BitVec 3) : RoundTrip.Statement (.xmov t s d q r c b g) := by
  intro w0 h0 hf0
  have g0 {x : Field} := @Field.get w0 [⟨30, 3#2⟩, ⟨27, t⟩, ⟨21, 1#6⟩, ⟨17, s⟩, ⟨13, d⟩, ⟨12, q⟩, ⟨11, r⟩, ⟨9, c⟩, ⟨8, b⟩, ⟨5, g⟩] (Option.some.inj h0).symm rfl x
  have he : wordEngine w0 = .x := by rw [wordEngine, show fld w0 30 2 = 3#2 from g0 0 rfl]; rfl
  refine decodeWord_of .x he ?_ hf0
  show decodeX w0 = _
  unfold decodeX
  rw [show wordOp w0 = 1 from congrArg BitVec.toNat (g0 2 rfl)]
  refine (if_pos ?_).trans ?_
  · exact Field.zero (fs := [⟨30, 3#2⟩, ⟨27, t⟩, ⟨21, 1#6⟩, ⟨17, s⟩, ⟨13, d⟩, ⟨12, q⟩, ⟨11, r⟩, ⟨9, c⟩, ⟨8, b⟩, ⟨5, g⟩]) (Option.some.inj h0).symm rfl 0 5 rfl
  show (Except.ok (.xmov (fld w0 27 3) (fld w0 17 4) (fld w0 13 4) (fld w0 12 1) (fld w0 11 1) (fld w0 9 2) (fld w0 8 1) (fld w0 5 3)) : Except Reject Instr) = _
  rw [show fld w0 27 3 = t from g0 1 rfl, show fld w0 17 4 = s from g0 3 rfl, show fld w0 13 4 = d from g0 4 rfl, show fld w0 12 1 = q from g0 5 rfl, show fld w0 11 1 = r from g0 6 rfl, show fld w0 9 2 = c from g0 7 rfl, show fld w0 8 1 = b from g0 8 rfl, show fld w0 5 3 = g from g0 9 rfl]

theorem RoundTrip.xgath (t : BitVec 3) (s : BitVec 4) (d : BitVec 4) (q : BitVec 1) (r : BitVec 1) (c : BitVec 2) (b : BitVec 1) (g : BitVec 3) (i : BitVec 4) : RoundTrip.Statement (.xgath t s d q r c b g i) := by
  intro w0 h0 hf0
  have g0 {x : Field} := @Field.get w0 [⟨30, 3#2⟩, ⟨27, t⟩, ⟨21, 2#6⟩, ⟨17, s⟩, ⟨13, d⟩, ⟨12, q⟩, ⟨11, r⟩, ⟨9, c⟩, ⟨8, b⟩, ⟨5, g⟩, ⟨0, i⟩] (Option.some.inj h0).symm rfl x
  have he : wordEngine w0 = .x := by rw [wordEngine, show fld w0 30 2 = 3#2 from g0 0 rfl]; rfl
  refine decodeWord_of .x he ?_ hf0
  show decodeX w0 = _
  unfold decodeX
  rw [show wordOp w0 = 2 from congrArg BitVec.toNat (g0 2 rfl)]
  refine (if_pos ?_).trans ?_
  · exact Field.zero (fs := [⟨30, 3#2⟩, ⟨27, t⟩, ⟨21, 2#6⟩, ⟨17, s⟩, ⟨13, d⟩, ⟨12, q⟩, ⟨11, r⟩, ⟨9, c⟩, ⟨8, b⟩, ⟨5, g⟩, ⟨0, i⟩]) (Option.some.inj h0).symm rfl 4 1 rfl
  show (Except.ok (.xgath (fld w0 27 3) (fld w0 17 4) (fld w0 13 4) (fld w0 12 1) (fld w0 11 1) (fld w0 9 2) (fld w0 8 1) (fld w0 5 3) (fld w0 0 4)) : Except Reject Instr) = _
  rw [show fld w0 27 3 = t from g0 1 rfl, show fld w0 17 4 = s from g0 3 rfl, show fld w0 13 4 = d from g0 4 rfl, show fld w0 12 1 = q from g0 5 rfl, show fld w0 11 1 = r from g0 6 rfl, show fld w0 9 2 = c from g0 7 rfl, show fld w0 8 1 = b from g0 8 rfl, show fld w0 5 3 = g from g0 9 rfl, show fld w0 0 4 = i from g0 10 rfl]

theorem RoundTrip.xscat (t : BitVec 3) (s : BitVec 4) (d : BitVec 4) (q : BitVec 1) (r : BitVec 1) (c : BitVec 2) (b : BitVec 1) (g : BitVec 3) (i : BitVec 4) : RoundTrip.Statement (.xscat t s d q r c b g i) := by
  intro w0 h0 hf0
  have g0 {x : Field} := @Field.get w0 [⟨30, 3#2⟩, ⟨27, t⟩, ⟨21, 3#6⟩, ⟨17, s⟩, ⟨13, d⟩, ⟨12, q⟩, ⟨11, r⟩, ⟨9, c⟩, ⟨8, b⟩, ⟨5, g⟩, ⟨0, i⟩] (Option.some.inj h0).symm rfl x
  have he : wordEngine w0 = .x := by rw [wordEngine, show fld w0 30 2 = 3#2 from g0 0 rfl]; rfl
  refine decodeWord_of .x he ?_ hf0
  show decodeX w0 = _
  unfold decodeX
  rw [show wordOp w0 = 3 from congrArg BitVec.toNat (g0 2 rfl)]
  refine (if_pos ?_).trans ?_
  · exact Field.zero (fs := [⟨30, 3#2⟩, ⟨27, t⟩, ⟨21, 3#6⟩, ⟨17, s⟩, ⟨13, d⟩, ⟨12, q⟩, ⟨11, r⟩, ⟨9, c⟩, ⟨8, b⟩, ⟨5, g⟩, ⟨0, i⟩]) (Option.some.inj h0).symm rfl 4 1 rfl
  show (Except.ok (.xscat (fld w0 27 3) (fld w0 17 4) (fld w0 13 4) (fld w0 12 1) (fld w0 11 1) (fld w0 9 2) (fld w0 8 1) (fld w0 5 3) (fld w0 0 4)) : Except Reject Instr) = _
  rw [show fld w0 27 3 = t from g0 1 rfl, show fld w0 17 4 = s from g0 3 rfl, show fld w0 13 4 = d from g0 4 rfl, show fld w0 12 1 = q from g0 5 rfl, show fld w0 11 1 = r from g0 6 rfl, show fld w0 9 2 = c from g0 7 rfl, show fld w0 8 1 = b from g0 8 rfl, show fld w0 5 3 = g from g0 9 rfl, show fld w0 0 4 = i from g0 10 rfl]

theorem RoundTrip.xset (t : BitVec 3) (s : BitVec 4) (d : BitVec 4) (q : BitVec 1) (r : BitVec 1) (c : BitVec 2) (b : BitVec 1) (g : BitVec 3) : RoundTrip.Statement (.xset t s d q r c b g) := by
  intro w0 h0 hf0
  have g0 {x : Field} := @Field.get w0 [⟨30, 3#2⟩, ⟨27, t⟩, ⟨21, 4#6⟩, ⟨17, s⟩, ⟨13, d⟩, ⟨12, q⟩, ⟨11, r⟩, ⟨9, c⟩, ⟨8, b⟩, ⟨5, g⟩] (Option.some.inj h0).symm rfl x
  have he : wordEngine w0 = .x := by rw [wordEngine, show fld w0 30 2 = 3#2 from g0 0 rfl]; rfl
  refine decodeWord_of .x he ?_ hf0
  show decodeX w0 = _
  unfold decodeX
  rw [show wordOp w0 = 4 from congrArg BitVec.toNat (g0 2 rfl)]
  refine (if_pos ?_).trans ?_
  · exact Field.zero (fs := [⟨30, 3#2⟩, ⟨27, t⟩, ⟨21, 4#6⟩, ⟨17, s⟩, ⟨13, d⟩, ⟨12, q⟩, ⟨11, r⟩, ⟨9, c⟩, ⟨8, b⟩, ⟨5, g⟩]) (Option.some.inj h0).symm rfl 0 5 rfl
  show (Except.ok (.xset (fld w0 27 3) (fld w0 17 4) (fld w0 13 4) (fld w0 12 1) (fld w0 11 1) (fld w0 9 2) (fld w0 8 1) (fld w0 5 3)) : Except Reject Instr) = _
  rw [show fld w0 27 3 = t from g0 1 rfl, show fld w0 17 4 = s from g0 3 rfl, show fld w0 13 4 = d from g0 4 rfl, show fld w0 12 1 = q from g0 5 rfl, show fld w0 11 1 = r from g0 6 rfl, show fld w0 9 2 = c from g0 7 rfl, show fld w0 8 1 = b from g0 8 rfl, show fld w0 5 3 = g from g0 9 rfl]

theorem RoundTrip.xred (t : BitVec 3) (s : BitVec 4) (d : BitVec 4) (q : BitVec 1) (r : BitVec 1) (c : BitVec 2) (b : BitVec 1) (g : BitVec 3) (o : BitVec 3) : RoundTrip.Statement (.xred t s d q r c b g o) := by
  intro w0 h0 hf0
  have g0 {x : Field} := @Field.get w0 [⟨30, 3#2⟩, ⟨27, t⟩, ⟨21, 5#6⟩, ⟨17, s⟩, ⟨13, d⟩, ⟨12, q⟩, ⟨11, r⟩, ⟨9, c⟩, ⟨8, b⟩, ⟨5, g⟩, ⟨0, o⟩] (Option.some.inj h0).symm rfl x
  have he : wordEngine w0 = .x := by rw [wordEngine, show fld w0 30 2 = 3#2 from g0 0 rfl]; rfl
  refine decodeWord_of .x he ?_ hf0
  show decodeX w0 = _
  unfold decodeX
  rw [show wordOp w0 = 5 from congrArg BitVec.toNat (g0 2 rfl)]
  refine (if_pos ?_).trans ?_
  · exact Field.zero (fs := [⟨30, 3#2⟩, ⟨27, t⟩, ⟨21, 5#6⟩, ⟨17, s⟩, ⟨13, d⟩, ⟨12, q⟩, ⟨11, r⟩, ⟨9, c⟩, ⟨8, b⟩, ⟨5, g⟩, ⟨0, o⟩]) (Option.some.inj h0).symm rfl 3 2 rfl
  show (Except.ok (.xred (fld w0 27 3) (fld w0 17 4) (fld w0 13 4) (fld w0 12 1) (fld w0 11 1) (fld w0 9 2) (fld w0 8 1) (fld w0 5 3) (fld w0 0 3)) : Except Reject Instr) = _
  rw [show fld w0 27 3 = t from g0 1 rfl, show fld w0 17 4 = s from g0 3 rfl, show fld w0 13 4 = d from g0 4 rfl, show fld w0 12 1 = q from g0 5 rfl, show fld w0 11 1 = r from g0 6 rfl, show fld w0 9 2 = c from g0 7 rfl, show fld w0 8 1 = b from g0 8 rfl, show fld w0 5 3 = g from g0 9 rfl, show fld w0 0 3 = o from g0 10 rfl]

theorem RoundTrip.xfill (t : BitVec 3) (n : BitVec 6) (q : BitVec 1) (r : BitVec 1) (c : BitVec 2) (b : BitVec 1) (g : BitVec 3) : RoundTrip.Statement (.xfill t n q r c b g) := by
  intro w0 h0 hf0
  have g0 {x : Field} := @Field.get w0 [⟨30, 3#2⟩, ⟨27, t⟩, ⟨21, 6#6⟩, ⟨15, n⟩, ⟨12, q⟩, ⟨11, r⟩, ⟨9, c⟩, ⟨8, b⟩, ⟨5, g⟩] (Option.some.inj h0).symm rfl x
  have he : wordEngine w0 = .x := by rw [wordEngine, show fld w0 30 2 = 3#2 from g0 0 rfl]; rfl
  refine decodeWord_of .x he ?_ hf0
  show decodeX w0 = _
  unfold decodeX
  rw [show wordOp w0 = 6 from congrArg BitVec.toNat (g0 2 rfl)]
  refine (if_pos ?_).trans ?_
  · exact ⟨Field.zero (fs := [⟨30, 3#2⟩, ⟨27, t⟩, ⟨21, 6#6⟩, ⟨15, n⟩, ⟨12, q⟩, ⟨11, r⟩, ⟨9, c⟩, ⟨8, b⟩, ⟨5, g⟩]) (Option.some.inj h0).symm rfl 13 2 rfl, Field.zero (fs := [⟨30, 3#2⟩, ⟨27, t⟩, ⟨21, 6#6⟩, ⟨15, n⟩, ⟨12, q⟩, ⟨11, r⟩, ⟨9, c⟩, ⟨8, b⟩, ⟨5, g⟩]) (Option.some.inj h0).symm rfl 0 5 rfl⟩
  show (Except.ok (.xfill (fld w0 27 3) (fld w0 15 6) (fld w0 12 1) (fld w0 11 1) (fld w0 9 2) (fld w0 8 1) (fld w0 5 3)) : Except Reject Instr) = _
  rw [show fld w0 27 3 = t from g0 1 rfl, show fld w0 15 6 = n from g0 3 rfl, show fld w0 12 1 = q from g0 4 rfl, show fld w0 11 1 = r from g0 5 rfl, show fld w0 9 2 = c from g0 6 rfl, show fld w0 8 1 = b from g0 7 rfl, show fld w0 5 3 = g from g0 8 rfl]

theorem RoundTrip.xdrain (t : BitVec 3) (n : BitVec 6) (q : BitVec 1) (r : BitVec 1) (c : BitVec 2) (b : BitVec 1) (g : BitVec 3) : RoundTrip.Statement (.xdrain t n q r c b g) := by
  intro w0 h0 hf0
  have g0 {x : Field} := @Field.get w0 [⟨30, 3#2⟩, ⟨27, t⟩, ⟨21, 7#6⟩, ⟨15, n⟩, ⟨12, q⟩, ⟨11, r⟩, ⟨9, c⟩, ⟨8, b⟩, ⟨5, g⟩] (Option.some.inj h0).symm rfl x
  have he : wordEngine w0 = .x := by rw [wordEngine, show fld w0 30 2 = 3#2 from g0 0 rfl]; rfl
  refine decodeWord_of .x he ?_ hf0
  show decodeX w0 = _
  unfold decodeX
  rw [show wordOp w0 = 7 from congrArg BitVec.toNat (g0 2 rfl)]
  refine (if_pos ?_).trans ?_
  · exact ⟨Field.zero (fs := [⟨30, 3#2⟩, ⟨27, t⟩, ⟨21, 7#6⟩, ⟨15, n⟩, ⟨12, q⟩, ⟨11, r⟩, ⟨9, c⟩, ⟨8, b⟩, ⟨5, g⟩]) (Option.some.inj h0).symm rfl 13 2 rfl, Field.zero (fs := [⟨30, 3#2⟩, ⟨27, t⟩, ⟨21, 7#6⟩, ⟨15, n⟩, ⟨12, q⟩, ⟨11, r⟩, ⟨9, c⟩, ⟨8, b⟩, ⟨5, g⟩]) (Option.some.inj h0).symm rfl 0 5 rfl⟩
  show (Except.ok (.xdrain (fld w0 27 3) (fld w0 15 6) (fld w0 12 1) (fld w0 11 1) (fld w0 9 2) (fld w0 8 1) (fld w0 5 3)) : Except Reject Instr) = _
  rw [show fld w0 27 3 = t from g0 1 rfl, show fld w0 15 6 = n from g0 3 rfl, show fld w0 12 1 = q from g0 4 rfl, show fld w0 11 1 = r from g0 5 rfl, show fld w0 9 2 = c from g0 6 rfl, show fld w0 8 1 = b from g0 7 rfl, show fld w0 5 3 = g from g0 8 rfl]

theorem RoundTrip.xsync (t : BitVec 3) (q : BitVec 1) (r : BitVec 1) (c : BitVec 2) : RoundTrip.Statement (.xsync t q r c) := by
  intro w0 h0 hf0
  have g0 {x : Field} := @Field.get w0 [⟨30, 3#2⟩, ⟨27, t⟩, ⟨21, 8#6⟩, ⟨12, q⟩, ⟨11, r⟩, ⟨9, c⟩] (Option.some.inj h0).symm rfl x
  have he : wordEngine w0 = .x := by rw [wordEngine, show fld w0 30 2 = 3#2 from g0 0 rfl]; rfl
  refine decodeWord_of .x he ?_ hf0
  show decodeX w0 = _
  unfold decodeX
  rw [show wordOp w0 = 8 from congrArg BitVec.toNat (g0 2 rfl)]
  refine (if_pos ?_).trans ?_
  · exact ⟨Field.zero (fs := [⟨30, 3#2⟩, ⟨27, t⟩, ⟨21, 8#6⟩, ⟨12, q⟩, ⟨11, r⟩, ⟨9, c⟩]) (Option.some.inj h0).symm rfl 13 8 rfl, Field.zero (fs := [⟨30, 3#2⟩, ⟨27, t⟩, ⟨21, 8#6⟩, ⟨12, q⟩, ⟨11, r⟩, ⟨9, c⟩]) (Option.some.inj h0).symm rfl 0 9 rfl⟩
  show (Except.ok (.xsync (fld w0 27 3) (fld w0 12 1) (fld w0 11 1) (fld w0 9 2)) : Except Reject Instr) = _
  rw [show fld w0 27 3 = t from g0 1 rfl, show fld w0 12 1 = q from g0 3 rfl, show fld w0 11 1 = r from g0 4 rfl, show fld w0 9 2 = c from g0 5 rfl]

theorem RoundTrip.xwait (t : BitVec 3) (k : BitVec 3) : RoundTrip.Statement (.xwait t k) := by
  intro w0 h0 hf0
  have g0 {x : Field} := @Field.get w0 [⟨30, 3#2⟩, ⟨27, t⟩, ⟨21, 9#6⟩, ⟨0, k⟩] (Option.some.inj h0).symm rfl x
  have he : wordEngine w0 = .x := by rw [wordEngine, show fld w0 30 2 = 3#2 from g0 0 rfl]; rfl
  refine decodeWord_of .x he ?_ hf0
  show decodeX w0 = _
  unfold decodeX
  rw [show wordOp w0 = 9 from congrArg BitVec.toNat (g0 2 rfl)]
  refine (if_pos ?_).trans ?_
  · exact Field.zero (fs := [⟨30, 3#2⟩, ⟨27, t⟩, ⟨21, 9#6⟩, ⟨0, k⟩]) (Option.some.inj h0).symm rfl 3 18 rfl
  show (Except.ok (.xwait (fld w0 27 3) (fld w0 0 3)) : Except Reject Instr) = _
  rw [show fld w0 27 3 = t from g0 1 rfl, show fld w0 0 3 = k from g0 3 rfl]

theorem RoundTrip.xsig (t : BitVec 3) (k : BitVec 3) : RoundTrip.Statement (.xsig t k) := by
  intro w0 h0 hf0
  have g0 {x : Field} := @Field.get w0 [⟨30, 3#2⟩, ⟨27, t⟩, ⟨21, 9#6⟩, ⟨3, 1#18⟩, ⟨0, k⟩] (Option.some.inj h0).symm rfl x
  have he : wordEngine w0 = .x := by rw [wordEngine, show fld w0 30 2 = 3#2 from g0 0 rfl]; rfl
  refine decodeWord_of .x he ?_ hf0
  show decodeX w0 = _
  unfold decodeX
  rw [show wordOp w0 = 9 from congrArg BitVec.toNat (g0 2 rfl)]
  refine (if_neg ?_).trans ?_
  · exact fun h1 => absurd h1 (fun e => absurd ((show fld w0 3 18 = 1#18 from g0 3 rfl).symm.trans e) (by decide))
  refine (if_pos ?_).trans ?_
  · exact g0 3 rfl
  show (Except.ok (.xsig (fld w0 27 3) (fld w0 0 3)) : Except Reject Instr) = _
  rw [show fld w0 27 3 = t from g0 1 rfl, show fld w0 0 3 = k from g0 4 rfl]

theorem RoundTrip.xnop (t : BitVec 3) : RoundTrip.Statement (.xnop t) := by
  intro w0 h0 hf0
  have g0 {x : Field} := @Field.get w0 [⟨30, 3#2⟩, ⟨27, t⟩, ⟨21, 10#6⟩] (Option.some.inj h0).symm rfl x
  have he : wordEngine w0 = .x := by rw [wordEngine, show fld w0 30 2 = 3#2 from g0 0 rfl]; rfl
  refine decodeWord_of .x he ?_ hf0
  show decodeX w0 = _
  unfold decodeX
  rw [show wordOp w0 = 10 from congrArg BitVec.toNat (g0 2 rfl)]
  refine (if_pos ?_).trans ?_
  · exact Field.zero (fs := [⟨30, 3#2⟩, ⟨27, t⟩, ⟨21, 10#6⟩]) (Option.some.inj h0).symm rfl 0 21 rfl
  show (Except.ok (.xnop (fld w0 27 3)) : Except Reject Instr) = _
  rw [show fld w0 27 3 = t from g0 1 rfl]

theorem RoundTrip.callkRetire : RoundTrip.Statement .callkRetire :=
  fun _ h => nomatch h

theorem RoundTrip.nestCycle : RoundTrip.Statement .nestCycle :=
  fun _ h => nomatch h

theorem RoundTrip.nestExit : RoundTrip.Statement .nestExit :=
  fun _ h => nomatch h

theorem RoundTrip.loadDataReturn : RoundTrip.Statement .loadDataReturn :=
  fun _ h => nomatch h

theorem RoundTrip.atomicopCompletion {a1} {b1} : RoundTrip.Statement (.atomicopCompletion a1 b1) :=
  fun _ h => nomatch h

theorem RoundTrip.priResponse {a1} {b1} : RoundTrip.Statement (.priResponse a1 b1) :=
  fun _ h => nomatch h

theorem RoundTrip.xlatRetire : RoundTrip.Statement .xlatRetire :=
  fun _ h => nomatch h

theorem RoundTrip.fenceRetire : RoundTrip.Statement .fenceRetire :=
  fun _ h => nomatch h

theorem RoundTrip.arrivalRegister : RoundTrip.Statement .arrivalRegister :=
  fun _ h => nomatch h

theorem RoundTrip.phaseComplete {a1} : RoundTrip.Statement (.phaseComplete a1) :=
  fun _ h => nomatch h

theorem RoundTrip.barrierRelease {a1} : RoundTrip.Statement (.barrierRelease a1) :=
  fun _ h => nomatch h

theorem RoundTrip.planeStoreSettle : RoundTrip.Statement .planeStoreSettle :=
  fun _ h => nomatch h

theorem RoundTrip.muldivResult : RoundTrip.Statement .muldivResult :=
  fun _ h => nomatch h

theorem RoundTrip.vResultLand : RoundTrip.Statement .vResultLand :=
  fun _ h => nomatch h

theorem RoundTrip.conditionPushDeferred : RoundTrip.Statement .conditionPushDeferred :=
  fun _ h => nomatch h

theorem RoundTrip.pendingTokenPush : RoundTrip.Statement .pendingTokenPush :=
  fun _ h => nomatch h

theorem RoundTrip.pathEntryPop {a1} : RoundTrip.Statement (.pathEntryPop a1) :=
  fun _ h => nomatch h

theorem RoundTrip.mWordComplete : RoundTrip.Statement .mWordComplete :=
  fun _ h => nomatch h

theorem RoundTrip.xChunk : RoundTrip.Statement .xChunk :=
  fun _ h => nomatch h

theorem RoundTrip.xCommandComplete : RoundTrip.Statement .xCommandComplete :=
  fun _ h => nomatch h

theorem RoundTrip.revocation {a1} {b1} : RoundTrip.Statement (.revocation a1 b1) :=
  fun _ h => nomatch h

theorem RoundTrip.pageMoveRequest {a1} {b1} {c1} : RoundTrip.Statement (.pageMoveRequest a1 b1 c1) :=
  fun _ h => nomatch h

theorem RoundTrip.timer : RoundTrip.Statement .timer :=
  fun _ h => nomatch h

theorem RoundTrip.interruptTake : RoundTrip.Statement .interruptTake :=
  fun _ h => nomatch h

theorem RoundTrip.trapEntry : RoundTrip.Statement .trapEntry :=
  fun _ h => nomatch h

theorem RoundTrip.replayEntryLand : RoundTrip.Statement .replayEntryLand :=
  fun _ h => nomatch h

theorem RoundTrip.fatalError : RoundTrip.Statement .fatalError :=
  fun _ h => nomatch h

theorem RoundTrip.watchdog {a1} : RoundTrip.Statement (.watchdog a1) :=
  fun _ h => nomatch h

theorem RoundTrip.pauseHoldEnd : RoundTrip.Statement .pauseHoldEnd :=
  fun _ h => nomatch h

theorem RoundTrip.haltRetire : RoundTrip.Statement .haltRetire :=
  fun _ h => nomatch h

theorem RoundTrip.preemption : RoundTrip.Statement .preemption :=
  fun _ h => nomatch h

theorem RoundTrip.restore {a1} : RoundTrip.Statement (.restore a1) :=
  fun _ h => nomatch h

theorem RoundTrip.dispatch {a1} : RoundTrip.Statement (.dispatch a1) :=
  fun _ h => nomatch h

theorem RoundTrip.regionComplete {a1} : RoundTrip.Statement (.regionComplete a1) :=
  fun _ h => nomatch h

theorem RoundTrip.fairnessPeriod : RoundTrip.Statement .fairnessPeriod :=
  fun _ h => nomatch h

theorem RoundTrip.priorityPreemptWait {a1} : RoundTrip.Statement (.priorityPreemptWait a1) :=
  fun _ h => nomatch h

theorem RoundTrip.policyCheck {a1} : RoundTrip.Statement (.policyCheck a1) :=
  fun _ h => nomatch h

theorem RoundTrip.start {a1} {b1} {c1} : RoundTrip.Statement (.start a1 b1 c1) :=
  fun _ h => nomatch h

theorem RoundTrip.abort {a1} {b1} : RoundTrip.Statement (.abort a1 b1) :=
  fun _ h => nomatch h

theorem RoundTrip.signal {a1} {b1} : RoundTrip.Statement (.signal a1 b1) :=
  fun _ h => nomatch h

theorem RoundTrip.ccbNoop {a1} {b1} : RoundTrip.Statement (.ccbNoop a1 b1) :=
  fun _ h => nomatch h

theorem RoundTrip.ccbReservedOp {a1} {b1} {c1} : RoundTrip.Statement (.ccbReservedOp a1 b1 c1) :=
  fun _ h => nomatch h

theorem RoundTrip.query {a1} : RoundTrip.Statement (.query a1) :=
  fun _ h => nomatch h

theorem RoundTrip.join {a1} : RoundTrip.Statement (.join a1) :=
  fun _ h => nomatch h

theorem RoundTrip.regccb {a1} {b1} {c1} {d1} {e1} : RoundTrip.Statement (.regccb a1 b1 c1 d1 e1) :=
  fun _ h => nomatch h

theorem RoundTrip.unregccb {a1} {b1} {c1} {d1} {e1} : RoundTrip.Statement (.unregccb a1 b1 c1 d1 e1) :=
  fun _ h => nomatch h

theorem RoundTrip.setsegtab {a1} {b1} {c1} {d1} {e1} : RoundTrip.Statement (.setsegtab a1 b1 c1 d1 e1) :=
  fun _ h => nomatch h

theorem RoundTrip.regseg {a1} {b1} {c1} {d1} {e1} : RoundTrip.Statement (.regseg a1 b1 c1 d1 e1) :=
  fun _ h => nomatch h

theorem RoundTrip.bumpgen {a1} {b1} {c1} {d1} {e1} : RoundTrip.Statement (.bumpgen a1 b1 c1 d1 e1) :=
  fun _ h => nomatch h

theorem RoundTrip.declwin {a1} {b1} {c1} {d1} {e1} : RoundTrip.Statement (.declwin a1 b1 c1 d1 e1) :=
  fun _ h => nomatch h

theorem RoundTrip.peerap {a1} {b1} {c1} {d1} {e1} : RoundTrip.Statement (.peerap a1 b1 c1 d1 e1) :=
  fun _ h => nomatch h

theorem RoundTrip.setplane {a1} {b1} {c1} {d1} {e1} : RoundTrip.Statement (.setplane a1 b1 c1 d1 e1) :=
  fun _ h => nomatch h

theorem RoundTrip.planealloc {a1} {b1} {c1} {d1} {e1} : RoundTrip.Statement (.planealloc a1 b1 c1 d1 e1) :=
  fun _ h => nomatch h

theorem RoundTrip.planefree {a1} {b1} {c1} {d1} {e1} : RoundTrip.Statement (.planefree a1 b1 c1 d1 e1) :=
  fun _ h => nomatch h

theorem RoundTrip.dcmdReservedOp {a1} {b1} {c1} {d1} {e1} {f1} : RoundTrip.Statement (.dcmdReservedOp a1 b1 c1 d1 e1 f1) :=
  fun _ h => nomatch h

theorem RoundTrip.hostMemoryWrite {a1} {b1} : RoundTrip.Statement (.hostMemoryWrite a1 b1) :=
  fun _ h => nomatch h

theorem RoundTrip.atomicopRequest : RoundTrip.Statement .atomicopRequest :=
  fun _ h => nomatch h

theorem RoundTrip.msixVectorUnmask {a1} : RoundTrip.Statement (.msixVectorUnmask a1) :=
  fun _ h => nomatch h

theorem RoundTrip.remoteWriteApply {a1} : RoundTrip.Statement (.remoteWriteApply a1) :=
  fun _ h => nomatch h

theorem RoundTrip.lazyReleaseFlush : RoundTrip.Statement .lazyReleaseFlush :=
  fun _ h => nomatch h

theorem RoundTrip.flitReceive {a1} {b1} {c1} {d1} {e1} : RoundTrip.Statement (.flitReceive a1 b1 c1 d1 e1) :=
  fun _ h => nomatch h

theorem RoundTrip.read {a1} {b1} {c1} {d1} : RoundTrip.Statement (.read a1 b1 c1 d1) :=
  fun _ h => nomatch h

theorem RoundTrip.readdata {a1} {b1} {c1} : RoundTrip.Statement (.readdata a1 b1 c1) :=
  fun _ h => nomatch h

theorem RoundTrip.write {a1} {b1} {c1} {d1} {e1} {f1} : RoundTrip.Statement (.write a1 b1 c1 d1 e1 f1) :=
  fun _ h => nomatch h

theorem RoundTrip.op {a1} {b1} {c1} {d1} {e1} {f1} {g1} {h1} {i1} : RoundTrip.Statement (.op a1 b1 c1 d1 e1 f1 g1 h1 i1) :=
  fun _ h => nomatch h

theorem RoundTrip.opdata {a1} {b1} {c1} : RoundTrip.Statement (.opdata a1 b1 c1) :=
  fun _ h => nomatch h

theorem RoundTrip.ack {a1} {b1} : RoundTrip.Statement (.ack a1 b1) :=
  fun _ h => nomatch h

theorem RoundTrip.peerLinkFail {a1} : RoundTrip.Statement (.peerLinkFail a1) :=
  fun _ h => nomatch h

theorem RoundTrip.rillLinkRetraining {a1} : RoundTrip.Statement (.rillLinkRetraining a1) :=
  fun _ h => nomatch h

theorem RoundTrip.rillLinkDown {a1} : RoundTrip.Statement (.rillLinkDown a1) :=
  fun _ h => nomatch h

theorem RoundTrip.rillLinkUp {a1} : RoundTrip.Statement (.rillLinkUp a1) :=
  fun _ h => nomatch h

theorem RoundTrip.dieIsolationStop {a1} : RoundTrip.Statement (.dieIsolationStop a1) :=
  fun _ h => nomatch h

theorem RoundTrip.isolationConfirm {a1} : RoundTrip.Statement (.isolationConfirm a1) :=
  fun _ h => nomatch h

theorem RoundTrip.dieThrottle {a1} {b1} : RoundTrip.Statement (.dieThrottle a1 b1) :=
  fun _ h => nomatch h

theorem RoundTrip.semget {a1} {b1} : RoundTrip.Statement (.semget a1 b1) :=
  fun _ h => nomatch h

theorem RoundTrip.semput {a1} : RoundTrip.Statement (.semput a1) :=
  fun _ h => nomatch h

theorem RoundTrip.semaphoreLeaseExpiry : RoundTrip.Statement .semaphoreLeaseExpiry :=
  fun _ h => nomatch h

theorem RoundTrip.getenum {a1} : RoundTrip.Statement (.getenum a1) :=
  fun _ h => nomatch h

theorem RoundTrip.getcounters {a1} : RoundTrip.Statement (.getcounters a1) :=
  fun _ h => nomatch h

theorem RoundTrip.imagestage {a1} {b1} {c1} : RoundTrip.Statement (.imagestage a1 b1 c1) :=
  fun _ h => nomatch h

theorem RoundTrip.imagecommit {a1} {b1} : RoundTrip.Statement (.imagecommit a1 b1) :=
  fun _ h => nomatch h

theorem RoundTrip.keyinstall {a1} {b1} {c1} {d1} : RoundTrip.Statement (.keyinstall a1 b1 c1 d1) :=
  fun _ h => nomatch h

theorem RoundTrip.keydestroy {a1} {b1} {c1} : RoundTrip.Statement (.keydestroy a1 b1 c1) :=
  fun _ h => nomatch h

theorem RoundTrip.setpolicy {a1} {b1} {c1} : RoundTrip.Statement (.setpolicy a1 b1 c1) :=
  fun _ h => nomatch h

theorem RoundTrip.debug {a1} {b1} : RoundTrip.Statement (.debug a1 b1) :=
  fun _ h => nomatch h

theorem RoundTrip.reset {a1} : RoundTrip.Statement (.reset a1) :=
  fun _ h => nomatch h

theorem RoundTrip.getMeasurements {a1} : RoundTrip.Statement (.getMeasurements a1) :=
  fun _ h => nomatch h

theorem RoundTrip.deviceReset : RoundTrip.Statement .deviceReset :=
  fun _ h => nomatch h

theorem RoundTrip.powerOn : RoundTrip.Statement .powerOn :=
  fun _ h => nomatch h

theorem RoundTrip.trainingComplete {a1} {b1} : RoundTrip.Statement (.trainingComplete a1 b1) :=
  fun _ h => nomatch h

theorem RoundTrip.counterPersist : RoundTrip.Statement .counterPersist :=
  fun _ h => nomatch h

theorem RoundTrip.translationWalkComplete : RoundTrip.Statement .translationWalkComplete :=
  fun _ h => nomatch h

theorem RoundTrip.cfenceRetire : RoundTrip.Statement .cfenceRetire :=
  fun _ h => nomatch h

theorem RoundTrip.stlRetire : RoundTrip.Statement .stlRetire :=
  fun _ h => nomatch h

theorem RoundTrip.sluiceOrHomeAnswer : RoundTrip.Statement .sluiceOrHomeAnswer :=
  fun _ h => nomatch h

theorem RoundTrip.instructionFetch {a1} : RoundTrip.Statement (.instructionFetch a1) :=
  fun _ h => nomatch h

theorem RoundTrip.powerLoss : RoundTrip.Statement .powerLoss :=
  fun _ h => nomatch h

end Sys2Proof.Laws
end

