-- ==== Sys2Proof/Laws/Scalar.lean ====
section
/-! SUPPORT. What the shared operations of S's words do, said once: a register result, a multiply or divide, a
compare, and the words that only push. -/
namespace Sys2Proof.Machine

theorem passes_of_next (s u : State) (e : Engine) (t m : BitVec 3)
    (h : (u.core.eng e) = ((s.core.takeTokens e t m).pass e).eng e) : Passes s u e := by
  intro hn
  rw [h]
  simpa using Core.pass_next (s.core.takeTokens e t m) e (by simpa using hn)

/-- The turn of an S word besides its effect: what a core keeps from before its tokens are taken to the end of the
turn. -/
theorem keepsUnits_turn (c k : Core) (hv : k.vec = c.vec) (hm : k.mat = c.mat) (hx : k.xfer = c.xfer)
    (ha : k.active = c.active) (hs : k.shadow = c.shadow) (hd : k.deque = c.deque) (hj : k.job = c.job) :
    KeepsUnits c (k.endTurn .s) := by
  constructor <;> simp [*]

theorem State.scalarOp_writes (s : State) (i : Instr) (t : BitVec 3) (d : BitVec 6) (v : Word) (h : i.gate s = .go) :
    WritesReg s t d v (s.scalarOp i t d v) := by
  have e : s.scalarOp i t d v = (s.onCore (fun c => (((c.takeTokens .s t 0).pass .s).result t d v).endTurn .s)) := by
    rw [State.scalarOp, State.issue_go _ _ _ _ _ _ h]; rfl
  have hreg : ∀ r, (((s.core.takeTokens .s t 0).pass .s).result t d v).reg r = (s.core.setReg d v).reg r := by
    intro r
    exact (Core.reg_eq _ _ (by simp [Core.result, Core.setReg]; split <;> simp) r)
  rw [e]
  constructor
  · show (((s.core.takeTokens .s t 0).pass .s).result t d v).reg d = _
    rw [hreg, Core.setReg_self]
  · constructor
    · intro r hr
      show (((s.core.takeTokens .s t 0).pass .s).result t d v).reg r = _
      rw [hreg, Core.setReg_other _ _ _ _ (by simpa using hr)]
    · constructor <;> simp [Core.result]
    · exact keepsUnits_turn _ _ (by simp [Core.result]) (by simp [Core.result]) (by simp [Core.result])
        (by simp [Core.result]) (by simp [Core.result]) (by simp [Core.result]) (by simp [Core.result])
    · simp [Core.result]
    · constructor <;> simp [Core.result]
    · simp
    · simp [Core.result]
  · constructor <;> simp [Core.result, retires]
  · intro p
    rw [← Core.tokens_takeTokens]
    exact Core.tokens_congr (by simp [Core.result]) _ _
  · simp [Core.result]
  · simp [Core.result]
  · exact passes_of_next _ _ _ t 0 (by simp [Core.result])

/-- An S word whose effect leaves the core as it is but for a push ps. -/
theorem State.issue_onlyPushes (s : State) (i : Instr) (t m : BitVec 3) (ps : List Push) (h : i.gate s = .go) :
    OnlyPushes s t m ps (s.issue .s t m (i.gate s) (fun s => s.onCore (·.addPushes ps))) := by
  rw [State.issue_go _ _ _ _ _ _ h]
  constructor
  · constructor
    · intro r _
      exact Core.reg_eq _ _ (by simp) r
    · constructor <;> simp
    · exact keepsUnits_turn _ _ (by simp) (by simp) (by simp) (by simp) (by simp) (by simp) (by simp)
    · simp
    · constructor <;> simp
    · simp
    · simp
  · constructor <;> simp
  · intro p
    rw [← Core.tokens_takeTokens]
    exact Core.tokens_congr (by simp) _ _
  · simp
  · simp
  · exact passes_of_next _ _ _ t m (by simp)

/-- An S word that stays in flight. -/
theorem State.issue_startsWork (s : State) (i : Instr) (t : BitVec 3) (n : Nat) (w : SWork) (hd : Option (BitVec 4))
    (h : i.gate s = .go) :
    StartsWork s t n w hd (s.issue .s t 0 (i.gate s) (fun u => u.onCore (·.addFlight s.dev.cycle n w t hd))) := by
  rw [State.issue_go _ _ _ _ _ _ h]
  constructor
  · exact ⟨⟨n, w, sigMask t, s.dev.cycle, false, hd⟩, by simp [Core.addFlight], rfl, rfl, rfl, rfl, rfl, rfl⟩
  · constructor
    · intro r _
      exact Core.reg_eq _ _ (by simp) r
    · constructor <;> simp
    · exact keepsUnits_turn _ _ (by simp) (by simp) (by simp) (by simp) (by simp) (by simp) (by simp)
    · simp
    · constructor <;> simp
    · simp
    · simp
  · constructor <;> simp
  · intro p
    rw [← Core.tokens_takeTokens]
    exact Core.tokens_congr (by simp) _ _
  · simp
  · exact passes_of_next _ _ _ t 0 (by simp)

end Sys2Proof.Machine
end

