-- ==== Sys2Proof/Laws/Streams.lean ====
section
/-! SUPPORT. The checks of streams at use pass where Safety.lean says so (spec/04 R79, R80; spec/11 R208, R218). -/
namespace Sys2Proof.Machine

theorem nat_min (a b : Nat) : Nat.min a b = min a b := rfl

@[simp] theorem Gate.ite_go (p : Prop) [Decidable p] (g : Gate) (h : p) : (if p then Gate.go else g) = .go := if_pos h

theorem StreamFits.check {c : Core} {n : BitVec 4} {f k s : Prop} {reads : Bool} {m : Stream → Prop} {fb kb sb : Bool}
    {mb : Stream → Bool} (h : StreamFits c n f k s reads m) (hf : f → fb = true) (hk : k → kb = true) (hs : s → sb = true)
    (hm : ∀ q, m q → mb q = true) : c.checkStream n fb kb sb reads mb = .go := by
  have link : (if (c.stream n).men ∧ ((c.stream n).mq = n ∨ (c.stream (c.stream n).mq).fmt ≠ 9 ∨
      1 < (c.stream (c.stream n).mq).kind) then matfmt n 5 else .go) = .go := by
    rw [if_neg]
    rintro ⟨hb, h1 | h1 | h1⟩
    · exact h.named hb h1
    · exact h1 (h.marked hb).1
    · exact absurd (h.marked hb).2 (Nat.not_le.mpr h1)
  unfold Core.checkStream
  simp only []
  rw [link]
  split
  · rename_i hr
    rw [Bool.and_eq_true] at hr
    have h3 := h.sized hr.1 hr.2
    simp [h.format.1, hf h.format.2, hk h.kind, h.shape.1, hs h.shape.2, h.aligned, h3.1, hm _ h3.2, h.even hr.1 hr.2]
  · simp [h.format.1, hf h.format.2, hk h.kind, h.shape.1, hs h.shape.2, h.aligned]

theorem TileReady.gate {c : Core} {q : Stream} (h : TileReady c q) : c.streamTileGate q = .go := by
  unfold Core.streamTileGate
  split
  · rename_i hk
    simp [Core.tileGate, h hk]
  · rfl

theorem Stream.rowOver_none (q : Stream) (i : Idx) (limit r lo hi : Nat)
    (h : ∀ k, lo ≤ k → k < hi → q.elemOff i r k + q.elemSize ≤ limit) : q.rowOver i limit r lo hi = none := by
  unfold Stream.elemSize at h
  unfold Stream.rowOver
  split
  · rfl
  · have key : (List.range (hi - lo)).find? (fun k => decide (limit < q.elemOff i r (lo + k) +
        if q.width < 8 then 1 else q.width / 8)) = none := by
      rw [List.find?_eq_none]
      intro k hk
      simpa using h (lo + k) (by omega) (by have := List.mem_range.mp hk; omega)
    dsimp only
    rw [key]
    exact ite_self _

theorem InSpad.gate {c : Core} {q : Stream} {i : Idx} {rlo rhi lo hi : Nat} {recs : Bool}
    (h : InSpad c q i rlo rhi lo hi recs) : c.spadGate q i rlo rhi lo hi recs = .go := by
  unfold Core.spadGate
  simp only [nat_min]
  split
  · rename_i hk
    have hk : q.kind ≤ 1 := by omega
    have rows : (List.range (min rhi q.vrows - rlo)).findSome?
        (fun k => q.rowOver i (c.spadLimit q) (rlo + k) lo (min hi q.vcols)) = none := by
      rw [List.findSome?_eq_none_iff]
      intro r hr
      have hr := List.mem_range.mp hr
      refine q.rowOver_none i _ _ _ _ (fun k h1 h2 => (h hk _ k (by omega) (by omega) (by omega) h1 (by omega) (by omega)).1)
    simp only [rows]
    split
    · rename_i hrec
      rw [Bool.and_eq_true] at hrec
      have : q.recOver i (c.spadLimit q) rlo (min rhi q.vrows) lo (min hi q.vcols) = none := by
        unfold Stream.recOver
        rw [List.findSome?_eq_none_iff]
        intro r hr
        rw [List.findSome?_eq_none_iff]
        intro k hk'
        have hr := List.mem_range.mp hr
        have hk' := List.mem_range.mp hk'
        have := (h hk (rlo + r) (lo + k) (by omega) (by omega) (by omega) (by omega) (by omega) (by omega)).2 hrec.1 hrec.2
        simp only []
        rw [if_neg (by omega)]
      rw [this]
    · rfl
  · rfl

theorem InAccs.each {c : Core} {q : Stream} {i : Idx} {hi : Nat} (h : InAccs c q i hi) :
    ∀ k ∈ q.accNums i hi, if q.fmt = 3 then k % 2 = 0 ∧ k + 1 < c.store.accs else k < c.store.accs := by
  unfold Stream.accNums
  split
  · rename_i hk
    intro k hm
    obtain ⟨b, hb, rfl⟩ := List.mem_map.mp hm
    have hb := List.mem_range.mp hb
    simp only [nat_min] at hb
    exact h hk.1 hk.2 (32 * b) (by omega) (by omega)
  · simp

theorem InAccs.gate {c : Core} {q : Stream} {i : Idx} {hi : Nat} (h : InAccs c q i hi) : c.accvGate q i hi = .go := by
  unfold Core.accvGate
  have : (q.accNums i hi).find? (fun k => decide (c.store.accs ≤ k + if q.fmt = 3 then 1 else 0)) = none := by
    rw [List.find?_eq_none]
    intro k hm
    have := h.each k hm
    split at this <;> simp [*] <;> omega
  simp only [this]

/-- An FP64 accumulator stream in range starts its pairs at even accumulators (R109). -/
theorem InAccs.even {c : Core} {q : Stream} {i : Idx} {hi : Nat} (h : InAccs c q i hi) : q.pairsEven i hi = true := by
  unfold Stream.pairsEven
  by_cases hf : q.fmt = 3
  · have : (q.accNums i hi).all (fun k => decide (k % 2 = 0)) = true := by
      rw [List.all_eq_true]
      intro k hm
      have := h.each k hm
      rw [if_pos hf] at this
      simpa using this.1
    simp [hf, this]
  · simp [hf]

theorem InHandle.gate {s : State} {q : Stream} {i : Idx} {rows cols : Nat} {w : Bool}
    (h : InHandle s.core q i rows cols w) : s.globalGate q i rows cols w = .go := by
  unfold State.globalGate
  simp only [nat_min]
  split
  · rename_i hk
    have inside : (List.range (min rows q.vrows)).all (fun r =>
        (q.rowOver i (s.core.handle q.handle).len.toNat r 0 (min cols q.vcols)).isNone) = true := by
      rw [List.all_eq_true]
      intro r hr
      have hr := List.mem_range.mp hr
      rw [q.rowOver_none i _ r 0 _ (fun k _ h2 => h.inside hk.1 r k (by omega) (by omega) (by omega) (by omega))]
      rfl
    have right : (!w || decide ((s.core.handle q.handle).fn ≠ 0)) = true := by
      cases w
      · rfl
      · simpa using h.right hk.1 hk.2.1 hk.2.2 rfl
    simp only [inside, right]
    simp [Core.handleGate, h.valid hk.1 hk.2.1 hk.2.2]
  · rfl

end Sys2Proof.Machine
end

