-- ==== Sys2Proof/Laws/Vector.lean ====
section
/-! SUPPORT. Packed elements, and what the issue of a V word does, said once (spec/08 R153 to R157). -/
namespace Sys2Proof.Machine

/-! ### Packed elements (R153) -/

theorem packBits_lt (w : Nat) (xs : List Nat) : packBits w xs < 2 ^ (w * xs.length) := by
  induction xs with
  | nil => exact Nat.one_pos
  | cons x xs ih =>
    have hx := Nat.mod_lt x (Nat.two_pow_pos w)
    have hm : 2 ^ w * packBits w xs + 2 ^ w ≤ 2 ^ w * 2 ^ (w * xs.length) := by
      rw [← Nat.mul_succ]; exact Nat.mul_le_mul_left _ ih
    rw [packBits, List.length_cons, Nat.mul_succ, Nat.add_comm (w * xs.length) w, Nat.pow_add]
    omega

theorem packBits_shift (w : Nat) (xs : List Nat) (i : Nat) :
    packBits w xs / 2 ^ (w * i) % 2 ^ w = ((xs[i]?).getD 0) % 2 ^ w := by
  induction xs generalizing i with
  | nil => simp [packBits]
  | cons x xs ih =>
    cases i with
    | zero => simp [packBits]
    | succ i =>
      have hx := Nat.mod_lt x (Nat.two_pow_pos w)
      rw [packBits, Nat.mul_succ, Nat.add_comm (w * i) w, Nat.pow_add, ← Nat.div_div_eq_div_mul,
        Nat.add_mul_div_left _ _ (Nat.two_pow_pos w), Nat.div_eq_of_lt hx, Nat.zero_add, ih]
      simp

/-- Element i of a packed register is the i-th of the list, in w bits. -/
theorem bitsAt_packBits {n w : Nat} {xs : List Nat} (h : w * xs.length ≤ n) (i : Nat) (hi : i < xs.length) :
    bitsAt (BitVec.ofNat n (packBits w xs)) w i = (xs[i]?).getD 0 % 2 ^ w := by
  have hlt : packBits w xs < 2 ^ n := Nat.lt_of_lt_of_le (packBits_lt w xs) (Nat.pow_le_pow_right (by omega) h)
  have hs : w * i + w ≤ n := by
    have := Nat.mul_le_mul_left w (Nat.succ_le_of_lt hi)
    rw [Nat.mul_succ] at this
    omega
  rw [bitsAt, BitVec.extractLsb'_toNat, BitVec.toNat_ofNat, Nat.mod_eq_of_lt hlt, Nat.shiftRight_eq_div_pow]
  exact packBits_shift w xs i

theorem bitsAt_vecOf (w : Nat) (f : Nat → Nat) (i : Nat) (hi : i < 8192 / w) : bitsAt (vecOf w f) w i = f i % 2 ^ w := by
  rw [vecOf, bitsAt_packBits _ i (by simpa using hi)]
  · simp [hi]
  · simpa using Nat.mul_div_le 8192 w

theorem bitsAt_vecFlags (w : Nat) (f : Nat → Nat × Flags) (i : Nat) (hi : i < 8192 / w) :
    bitsAt (vecFlags w f).1 w i = (f i).1 % 2 ^ w := by
  rw [vecFlags]
  dsimp only
  rw [bitsAt_packBits _ i (by simpa using hi)]
  · simp [hi]
  · simpa using Nat.mul_div_le 8192 w

theorem vecFlags_flags (w : Nat) (f : Nat → Nat × Flags) : (vecFlags w f).2 = allFlags (8192 / w) (fun i => (f i).2) := by
  simp [vecFlags, allFlags, List.foldl_map]

theorem allFlags_congr {n : Nat} {g h : Nat → Flags} (e : ∀ i < n, g i = h i) : allFlags n g = allFlags n h := by
  have : (List.range n).map g = (List.range n).map h := List.map_congr_left (fun i hi => e i (List.mem_range.mp hi))
  simpa [allFlags, List.foldl_map] using congrArg (fun xs => xs.foldl (fun a x => a ||| x) (0 : Flags)) this

@[simp] theorem allFlags_zero (n : Nat) : allFlags n (fun _ => 0) = 0 := by
  unfold allFlags
  induction List.range n with
  | nil => rfl
  | cons x xs ih => simpa using ih

/-! ### Results in block order (R155) -/

/-- The cores read alike: the state that V's words read is the same. -/
structure ReadsAlike (c k : Core) : Prop where
  vec    : k.vec = c.vec
  scalar : k.scalar = c.scalar
  store  : k.store = c.store
  active : k.active = c.active
  idx    : k.idx = c.idx
  mat    : k.mat = c.mat

theorem ReadsAlike.with {c k : Core} (h : ReadsAlike c k) (fs : List Flight) :
    ReadsAlike (c.withFlights fs) (k.withFlights fs) := by
  constructor <;> simp [Core.withFlights, h.vec, h.scalar, h.store, h.active, h.idx, h.mat]

/-- Cores that read alike give the same results. -/
theorem Core.steps_alike {c k : Core} (h : ReadsAlike c k) (f : Core → Nat → List Flight)
    (hf : ∀ x y, ReadsAlike x y → f y = f x) (n : Nat) : k.steps f n = c.steps f n := by
  induction n with
  | zero => rfl
  | succ n ih => simp only [Core.steps, ih, hf _ _ (h.with _)]

theorem Core.steps_length (c : Core) (f : Core → Nat → Flight) (n : Nat) :
    (c.steps (fun x k => [f x k]) n).length = n := by
  induction n with
  | zero => rfl
  | succ n ih => simp [Core.steps, ih]

/-- Result k is read with the results before it in flight. -/
theorem Core.steps_get (c : Core) (f : Core → Nat → Flight) (n k : Nat) (h : k < n) :
    (c.steps (fun x k => [f x k]) n)[k]? = some (f (c.withFlights ((c.steps (fun x k => [f x k]) n).take k)) k) := by
  induction n with
  | zero => omega
  | succ n ih =>
    have hl := c.steps_length f n
    simp only [Core.steps]
    by_cases hk : k = n
    · subst hk
      rw [List.getElem?_append_right (by omega), List.take_append_of_le_length (by omega), List.take_of_length_le (by omega)]
      simp [hl]
    · rw [List.getElem?_append_left (by omega), ih (by omega), List.take_append_of_le_length (by omega)]

/-! ### The issue of a V word -/

/-- A word whose gate is open and whose effect is to put results in flight. -/
theorem State.vectorOp_flies (s : State) (i : Instr) (t : BitVec 3) (occ : Nat) (fs : List Flight) (f : Core → Core)
    (h : i.gate s = .go) (hf : ∀ k : Core, ReadsAlike s.core k → f k = k.fly t occ fs) :
    Flies s t occ fs (s.vectorOp i t f) := by
  have e : s.vectorOp i t f = s.onCore (fun c => (((c.takeTokens .v t 0).pass .v).fly t occ fs).endTurn .v) := by
    rw [State.vectorOp, State.issue_go _ _ _ _ _ _ h]
    show State.onCore (State.onCore (State.onCore s _) _) _ = _
    simp only [State.onCore]
    rw [hf]
    constructor <;> simp
  rw [e]
  constructor
  · simp [Core.fly]
  · simp [Core.fly]
  · simp [Core.fly]
  · intro p
    rw [← Core.tokens_takeTokens]
    exact Core.tokens_congr (by simp [Core.fly]) _ _
  · constructor <;> simp [Core.fly]
  · constructor
    · intro r
      exact Core.reg_eq _ _ (by simp [Core.fly]) r
    · constructor <;> simp [Core.fly]
    all_goals try (simp [Core.fly]; done)
    · constructor <;> simp [Core.fly]
    · exact passes_of_next _ _ _ t 0 (by simp)

/-- A word over a block whose register k is given whole. -/
theorem State.vectorOp_block (s : State) (i : Instr) (t e : BitVec 3) (d : BitVec 5) (lat w : Nat)
    (el : State → Nat → Nat → Nat × Flags) (g : Core → Nat → BitVec 8192 × Flags) (f : Core → Core)
    (h : i.gate s = .go) (hf : ∀ k : Core, ReadsAlike s.core k → f k = k.vMap t e d lat g)
    (ha : ∀ x y, ReadsAlike x y → g y = g x)
    (hv : ∀ fs k, k < extSize e → ∀ i < 8192 / w, bitsAt (g (s.after fs).core k).1 w i = (el (s.after fs) k i).1 % 2 ^ w)
    (hg : ∀ fs k, k < extSize e → (g (s.after fs).core k).2 = allFlags (8192 / w) (fun i => (el (s.after fs) k i).2)) :
    WritesBlock s t e d lat w el (s.vectorOp i t f) := by
  let one : Core → Nat → Flight := fun x k => flight (k + lat) (.vreg (s.core.phys (blockReg e d k)) (g x k).1 0 1024) (g x k).2
  refine ⟨s.core.steps (fun x k => [one x k]) (extSize e), State.vectorOp_flies s i t _ _ f h ?_, s.core.steps_length one _, ?_⟩
  · intro k hk
    have hp : k.phys = s.core.phys := by funext n; simp [Core.phys, hk.vec]
    rw [hf k hk, Core.vMap, hp]
    congr 1
    exact Core.steps_alike hk (fun x j => [one x j]) (fun x y hxy => by funext j; simp only [one, ha x y hxy]) _
  · intro k hk
    refine ⟨(g (s.after ((s.core.steps (fun x k => [one x k]) (extSize e)).take k)).core k).1, ?_, hv _ k hk⟩
    rw [s.core.steps_get one _ k hk, ← hg _ k hk]
    rfl

/-- A word that takes its blocks element by element. -/
theorem State.vectorOp_triple (s : State) (i : Instr) (t e : BitVec 3) (w lat : Nat) (d a b : BitVec 5)
    (g : Core → Nat → Nat → Nat → Nat × Flags) (el : State → Nat → Nat → Nat × Flags) (h : i.gate s = .go)
    (hg : ∀ k : Core, k.scalar = s.core.scalar → g k = g s.core)
    (he : ∀ fs, let r := s.after fs
      ∀ k < extSize e, ∀ j < 8192 / w,
      (g s.core (elemAt r e a w k j) (elemAt r e b w k j) (elemAt r e d w k j)).1 % 2 ^ w = (el r k j).1 % 2 ^ w ∧
      (g s.core (elemAt r e a w k j) (elemAt r e b w k j) (elemAt r e d w k j)).2 = (el r k j).2) :
    WritesBlock s t e d lat w el (s.vectorOp i t (fun c => c.triple t e w lat d a b (g c))) := by
  refine State.vectorOp_block s i t e d lat w el (fun c k => vecFlags w (fun j =>
    g s.core (bitsAt (c.src e a k) w j) (bitsAt (c.src e b k) w j) (bitsAt (c.src e d k) w j))) _ h ?_ ?_ ?_ ?_
  · intro k hk
    simp only [Core.triple, hg k hk.scalar]
  · intro x y hxy
    funext k
    simp only [Core.src, Core.vregAt, Core.phys, hxy.vec]
  · intro fs k hk j hj
    rw [bitsAt_vecFlags _ _ _ hj]
    exact (he fs k hk j hj).1
  · intro fs k hk
    rw [vecFlags_flags]
    exact allFlags_congr (fun j hj => (he fs k hk j hj).2)

end Sys2Proof.Machine
end

