-- ==== Sys2Proof/Tests/Slice0.lean ====
section
/-! SUPPORT. Tests: ill-formed terms, words written out from the manual's encodings, single steps whose results come
from the manual's rules by hand, and for each statement a state and operands that meet its hypotheses. -/
namespace Sys2Proof.Tests
open Sys2Proof Sys2Proof.Machine

/-! ### Ill-formed terms: one for each check of WellFormed -/

theorem test_ill_tok : (Instr.add 4 1 2 3).wellFormed = false := by decide
theorem test_ill_halt_signal : (Instr.halt 5).wellFormed = false := by decide
theorem test_ill_crr_number : (Instr.crr 0 1 0x0F).wellFormed = false := by decide
theorem test_ill_crw_number : (Instr.crw 0 1 0x00).wellFormed = false := by decide
theorem test_ill_twait_mask : (Instr.twait 0 0).wellFormed = false := by decide
theorem test_ill_vsig_mask : (Instr.vsig 0 0).wellFormed = false := by decide
theorem test_ill_mwait_mask : (Instr.mwait 0 0).wellFormed = false := by decide
theorem test_ill_xsig_mask : (Instr.xsig 0 0).wellFormed = false := by decide
theorem test_ill_scfg_field : (Instr.scfg 0 0 1 18).wellFormed = false := by decide
theorem test_ill_ncfg_level : (Instr.ncfg 0 1 6).wellFormed = false := by decide
theorem test_ill_nmask_level : (Instr.nmaskFirst 0 1 6).wellFormed = false := by decide
theorem test_ill_vcmp_float_cond : (Instr.vcmp 0 0 4 0 1 2 0).wellFormed = false := by decide
theorem test_ill_vcmp_int_cond : (Instr.vcmp 0 0 6 0 1 2 1).wellFormed = false := by decide
theorem test_ill_vcvt_same : (Instr.vcvt 0 0 0 1 2 0 0).wellFormed = false := by decide
theorem test_ill_vcvt_saturate_float : (Instr.vcvt 0 0 0 1 2 1 1).wellFormed = false := by decide
theorem test_ill_vpack_format : (Instr.vpack 0 0 0 1 2 11).wellFormed = false := by decide
theorem test_ill_vunpk_format : (Instr.vunpk 0 0 2 1 2 7).wellFormed = false := by decide
theorem test_ill_mout_type : (Instr.mout 0 0 0 0 3).wellFormed = false := by decide
theorem test_ill_mout_pair : (Instr.mout 0 1 0 0 2).wellFormed = false := by decide
theorem test_ill_mcopy_pair : (Instr.mcopy 0 0 1 1).wellFormed = false := by decide
theorem test_ill_madd_pair : (Instr.madd 0 0 1 0 0 2).wellFormed = false := by decide
theorem test_ill_mscale_type : (Instr.mscale 0 0 0 0 0 1).wellFormed = false := by decide
theorem test_ill_xmov_scope : (Instr.xmov 0 0 0 0 0 1 0 0).wellFormed = false := by decide
theorem test_ill_xmov_tag : (Instr.xmov 0 0 0 0 0 0 0 1).wellFormed = false := by decide
theorem test_ill_start_slot : (Instr.start 4096 false 1).wellFormed = false := by decide
theorem test_ill_ccb_op : (Instr.ccbReservedOp 0 3 1).wellFormed = false := by decide
theorem test_ill_dcmd_op : (Instr.dcmdReservedOp 10 1 0 0 0 0).wellFormed = false := by decide
theorem test_ill_vector : (Instr.msixVectorUnmask 2048).wellFormed = false := by decide
theorem test_ill_die : (Instr.remoteWriteApply 8).wellFormed = false := by decide
theorem test_ill_peer_link : (Instr.peerLinkFail 12).wellFormed = false := by decide
theorem test_ill_rill_link : (Instr.rillLinkUp 10).wellFormed = false := by decide
theorem test_ill_read_length : (Instr.read 0 0 0 65).wellFormed = false := by decide
theorem test_ill_write_mask : (Instr.write 0 0 0 [true] [] 0).wellFormed = false := by decide

/-- The decoder refuses what these terms would be written as (R24, R37). -/
theorem test_decode_refuses : decodeTableWord 32 0x20291E68 = none ∧ decodeTableWord 32 0x03600000 = none ∧
    decodeTableWord 32 0x00000000 = none ∧ decodeTableWord 32 0x00441048 = some (.mul 0 8 8 9) ∧
    decodeTableWord 32 0x0044104F = none := by decide

/-! ### Words written out from the encodings of spec/02 R31 to R36, field by field -/

/-- SR, SI: tag 00, tok, op 01 to 0F, d at 15, a at 9, b at 3, fn at 0; imm9 at 0. -/
theorem test_decode_scalar : decodeTableWord 32 0x00291E68 = some (.add 0 18 15 13) ∧
    decodeTableWord 32 0x00A411FF = some (.addi 0 8 8 0x1FF) := by decide
/-- Control flow: JR s62 is op 15, sub 0, a = 62; BCQ is op 11 with its offset at 0; TRAP 5 is op 19. -/
theorem test_decode_control : decodeTableWord 32 0x02A07C00 = some (.jr 0 62) ∧
    decodeTableWord 32 0x023FFFFC = some (.bcq 0 0x1FFFFC) ∧ decodeTableWord 32 0x03200005 = some (.trap 0 5) ∧
    decodeTableWord 32 0x03400001 = some (.tret 0) := by decide
/-- TWAIT M is op 1B, mode 0, mask 2; TSIG V and X is mode 1 with mask 5. -/
theorem test_decode_tokens : decodeTableWord 32 0x03600002 = some (.twait 0 2) ∧
    decodeTableWord 32 0x03600105 = some (.tsig 0 5) := by decide
/-- SCFG q0, FORM, s8 is op 1C; NCFG 0, TRIP, s17 is op 1D; NEST 8 rows at 8 with a swap is op 1F. -/
theorem test_decode_nest : decodeTableWord 32 0x03801000 = some (.scfg 0 0 8 0) ∧
    decodeTableWord 32 0x03A02200 = some (.ncfg 0 17 0) ∧ decodeTableWord 32 0x03E38F00 = some (.nest 0 7 7 1) := by decide
/-- LDS s63 is op 2B; XLAT.RW h0, s5, s18 with tok 7 is op 34, fn 1. -/
theorem test_decode_memory : decodeTableWord 32 0x057F8000 = some (.lds 0 63 0 0) ∧
    decodeTableWord 32 0x3E800A91 = some (.xlatRw 7 0 5 18) := by decide
/-- VR, tag 01: VFMA is op 04, VSEL is op 21, VSLIDE is op 31, VCMP is op 20. -/
theorem test_decode_vector : decodeTableWord 32 0x40884000 = some (.vfma 0 2 0 8 0 0) ∧
    decodeTableWord 32 0x44232044 = some (.vsel 0 0 3 4 1 2) ∧
    decodeTableWord 32 0x46201081 = some (.vslide 0 0 2 2 1) ∧ decodeTableWord 32 0x44000087 = some (.vcmp 0 0 0 0 2 3 1) := by
  decide
/-- MM, tag 10: MMA is op 01, MZERO a4 for three accumulators is op 03, MCOPY a3, a9 is op 06, MWAIT V is op 0A. -/
theorem test_decode_matrix : decodeTableWord 32 0x98200088 = some (.mma 3 0 0 2 0 0 1 0) ∧
    decodeTableWord 32 0x80610800 = some (.mzero 0 4 2) ∧ decodeTableWord 32 0x80C0C240 = some (.mcopy 0 3 9 0) ∧
    decodeTableWord 32 0x81400002 = some (.mwait 0 2) := by decide
/-- XC, tag 11: XMOV is op 01, XFILL 5 is op 06, XSYNC at SYSTEM with rel is op 08, XSIG M is op 09. -/
theorem test_decode_transfer : decodeTableWord 32 0xD82A8E00 = some (.xmov 3 5 4 0 1 3 0 0) ∧
    decodeTableWord 32 0xC0C28000 = some (.xfill 0 5 0 0 0 0 0) ∧ decodeTableWord 32 0xC1000E00 = some (.xsync 0 0 1 3) ∧
    decodeTableWord 32 0xC120000C = some (.xsig 0 4) := by decide

/-! ### Small states -/

/-- The machine after reset with its core running. -/
def cpu : State := { State.reset with core := { Core.idle 0 with running := true } }

/-- The same with values in registers. -/
def regs (rs : List (BitVec 6 × Word)) : State :=
  { cpu with core := rs.foldl (fun c r => c.setReg r.1 r.2) cpu.core }

/-- A page of 4 KiB of some kind at address 0x10000 of PASID 0, with its frame at 0x200000 of its memory. -/
def page (k : PageKind) (x : Bool := false) : Page :=
  ⟨0, 0x10000, 12, k, true, !x, x, if k = .host then hostBase + 0x200000 else 0x200000, 0, none, false⟩

/-- A handle over all of it with every right. -/
def handle (k : PageKind) : Handle := ⟨0x10000, 0x1000, 2, .valid, [page k]⟩

/-- The state with that page mapped and handle 1 over it. -/
def mapped (k : PageKind) (s : State) : State :=
  { s with
    core := { s.core with store := { s.core.store with handles := s.core.store.handles.set 1 (handle k) } },
    dev := { s.dev with pages := [page k] } }

/-- A value of the state after one instruction. -/
def after {α : Type} (i : Instr) (s : State) (f : State → α) : Option α :=
  match exec i s with
  | .next u => some (f u)
  | _ => none

/-- The core is tag 1's one member. -/
def barred (m : Member) (s : State) : State :=
  { s with dev := { s.dev with tags := s.dev.tags.set 1 ⟨some 5, false, 7, false, [m]⟩ } }

def member : Member := ⟨0, false, false, false, 0, 0, false, none, false, none⟩

theorem sReady {c : Core} {t m : BitVec 3} {ds : List (BitVec 6)} (h : c.walk = none ∧ c.pushPending .s = false ∧
    c.slipOk .s = true ∧ c.tokensOk .s t m = true ∧ c.scalar.hold = .none ∧ c.scalar.late = [] ∧ c.faultComing = false ∧
    ∀ r ∈ ds, c.ready r = true) : SReady c t m ds :=
  ⟨⟨h.1, h.2.1, h.2.2.1, h.2.2.2.1⟩, h.2.2.2.2.1, h.2.2.2.2.2.1, h.2.2.2.2.2.2.1, h.2.2.2.2.2.2.2⟩

theorem reaches {s : State} {h : BitVec 4} {o size : Nat} {p : Page} (k : s.core.fenced = false ∧ s.core.handleReady h = true ∧
    s.heldAt h o = false ∧ (s.core.handle h).state = .valid ∧ o % size = 0 ∧ o + size ≤ (s.core.handle h).len.toNat ∧
    s.core.handlePage h o = some p ∧ size ≤ s.core.pageRoom h o p ∧
    (∀ l ∈ linesOf ((s.core.handle h).va.toNat + o) size, s.core.pageOf h (64 * l) = some p) ∧ p.va % 64 = 0 ∧
    p.frame % 64 = 0) : Reaches s h o size p :=
  ⟨k.1, k.2.1, k.2.2.1, k.2.2.2.1, k.2.2.2.2.1, k.2.2.2.2.2.1, k.2.2.2.2.2.2.1, k.2.2.2.2.2.2.2.1,
    k.2.2.2.2.2.2.2.2.1, k.2.2.2.2.2.2.2.2.2⟩

theorem releasedOf {s : State} {c : BitVec 2} (h : s.core.scalar.flights = [] ∧ s.dev.peerReqs = [] ∧ s.dev.allReached = true ∧
    s.dev.lostLines = []) : Released s c :=
  ⟨fun f hf => by simp [h.1] at hf, fun _ r hr => by simp [h.2.1] at hr, fun _ => h.2.2.1,
    fun _ x hx => by simp [h.2.2.2] at hx⟩

theorem accepts {c : Core} {g : BitVec 3} (h : c.scalar.late = [] ∧ c.pushPending .s = false ∧
    ∀ p : Fin 3, g.getLsbD p.val = true → c.tokens (Engine.s.partner p) 0 < 15) : Accepts c g := ⟨h.1, h.2.1, h.2.2⟩

theorem memoryOk {s : State} (h : s.dev.mem.wf = true ∧ s.core.store.spad.wf = true ∧ s.others = []) : MemoryOk s :=
  ⟨h.1, h.2.1, fun c hc => by simp [h.2.2] at hc⟩

/-! ### A state and operands for each statement -/

theorem witness_ComputingForms : SReady (regs [(1, 5), (2, 7)]).core 0 0 [1, 2, 0] ∧ (regs [(1, 5), (2, 7)]).core.nest = none :=
  ⟨sReady (by decide), rfl⟩

theorem witness_MultiplyDivide : SReady (regs [(1, 5)]).core 0 0 [1, 0, 3] ∧ (regs [(1, 5)]).core.dividing = false :=
  ⟨sReady (by decide), by decide⟩

/-- A core whose condition queue holds a bit. -/
def decided : State := { cpu with core := { cpu.core with queues := { cpu.core.queues with cond := [true] } } }

theorem witness_ComparesAndBranches : SReady cpu.core 0 0 [1, 2] ∧ PathReady decided.core 0 [] ∧
    decided.core.queues.cond = true :: [] :=
  ⟨sReady (by decide), ⟨sReady (by decide), .inr (by decide)⟩, rfl⟩

theorem witness_JumpsAndCalls : PathReady (regs [(5, 0x103)]).core 0 [5, 62] := ⟨sReady (by decide), .inr (by decide)⟩

/-- One valid segment of 16 bytes, one entry, whose table is at 0x1000 and names offset 8; the code handle in s10, s11. -/
def segmented (tag : Word) : State :=
  let s := regs [(10, 0x10000000000), (11, tag), (12, 0)]
  { s with dev := { s.dev with segtab := 0x400, segcnt := 1,
                               mem := [(0x401, 0x10), (0x408, 16), (0x40C, 1), (0x411, 0x10), (0x418, 1), (0x1000, 2)] } }

theorem segmented_tag (tag : Word) : (segmented tag).core.reg (pairOdd 5) = tag := rfl

theorem witness_CallsThroughHandles :
    let s := segmented (sealTag 0 0x10000000000)
    PathReady s.core 0 [pairEven 5, pairOdd 5, 12, 62] ∧
    s.core.reg (pairOdd 5) = sealTag s.dev.bootKey (s.core.reg (pairEven 5)) ∧
    s.dev.segment 0 = some ⟨0x1000, 16, 1, 0, 0x1000, true⟩ ∧ s.dev.readPhys 0x1000 4 = some [2, 0, 0, 0] :=
  ⟨⟨sReady (by decide), .inr (by decide)⟩, segmented_tag _, by decide, by decide⟩

def calling : State := { cpu with core := { cpu.core with scalar := { cpu.core.scalar with hold := .callk 0 0x1008 0x104 1 } } }
def following : State :=
  { cpu with core := { cpu.core with queues := { cpu.core.queues with pathM := [⟨true, 0x1008⟩] } } }

theorem witness_CallsThroughHandles_retire : calling.core.scalar.hold = .callk 0 0x1008 0x104 1 ∧
    following.core.path .m = ⟨true, 0x1008⟩ :: [] := ⟨rfl, rfl⟩

theorem witness_ControlRegisters : SReady (regs [(1, 9)]).core 0 0 [1] := sReady (by decide)

/-- A core with a token from V and one from X. -/
def signalled : State :=
  { cpu with core := { cpu.core with queues := { cpu.core.queues with tok := (cpu.core.queues.tok.set 0 1).set 2 1 } } }

theorem witness_WaitsAndTraps : SReady cpu.core 0 0 [] ∧ SReady signalled.core 0 5 [] ∧
    cpu.core.engV.pc = cpu.core.engS.pc ∧ cpu.baraOpen = false ∧ cpu.collision = none :=
  ⟨sReady (by decide), sReady (by decide), rfl, by decide, by decide⟩

theorem witness_ShadowConfiguration : SReady (regs [(1, 8)]).core 0 0 [1] ∧ (17 : BitVec 9).toNat < 18 ∧
    (5 : BitVec 3).toNat < 6 := ⟨sReady (by decide), by decide, by decide⟩

/-- One word for each clause about encodings of ComputingForms, ComparesAndBranches and ShadowConfiguration, at the
bounds of the fields: SHLI by 4 and its bits [8:6] set, CGEU, fn 6, an sd of 1; fields 17 and level 5, and sd[5:4] set. -/
theorem witness_Encodings :
    [0x01269004, 0x012691C4, 0x00801005, 0x00801006, 0x00809001, 0x0381FA11, 0x03A02340, 0x03C01340, 0x03C01341,
      0x0388FA11, 0x03A02380, 0x03C01342].map
      (fun n => let w : W32 := BitVec.ofNat 32 n
        (w.extractLsb' 30 2, w.extractLsb' 27 3, w.extractLsb' 21 6, w.extractLsb' 15 6, w.extractLsb' 0 9)) =
    [(0, 0, 0x09, 13, 4), (0, 0, 0x09, 13, 0x1C4), (0, 0, 0x04, 0, 5), (0, 0, 0x04, 0, 6), (0, 0, 0x04, 1, 1),
      (0, 0, 0x1C, 3, 17), (0, 0, 0x1D, 0, 0x140), (0, 0, 0x1E, 0, 0x140), (0, 0, 0x1E, 0, 0x141),
      (0, 0, 0x1C, 0x11, 17), (0, 0, 0x1D, 0, 0x180), (0, 0, 0x1E, 0, 0x142)] := by decide

def dev1 : State := mapped .device (regs [(1, 0xFF8), (2, 0x1122334455667788)])

/-- The last byte, halfword, word and doubleword of the handle. -/
theorem witness_Loads : SReady dev1.core 0 0 [1, 2] ∧ Reaches dev1 1 0xFFF 1 (page .device) ∧
    Reaches dev1 1 0xFFE 2 (page .device) ∧ Reaches dev1 1 0xFFC 4 (page .device) ∧ Reaches dev1 1 0xFF8 8 (page .device) ∧
    (0xFF8 : Word) + BitVec.ofNat 64 (0 * 8) = 0xFF8 :=
  ⟨sReady (by decide), reaches (by decide), reaches (by decide), reaches (by decide), reaches (by decide), by decide⟩

/-- Handle 0 is INVALID; handle 1 passes its end at 0xFF8 + 8 and is misaligned at 0xFFC + 8. -/
def held (h : Handle) : State :=
  { dev1 with core := { dev1.core with store := { dev1.core.store with handles := dev1.core.store.handles.set 1 h } } }
def revoked : State := held { handle .device with state := .revoked }
def readOnly : State := held { handle .device with fn := 0 }

theorem witness_WordsRefused : SReady dev1.core 0 0 [1, 2] ∧ dev1.core.cleared = false ∧ dev1.core.fenced = false ∧
    dev1.core.handleReady 0 = true ∧ (dev1.core.handle 0).state = .invalid ∧ (revoked.core.handle 1).state = .revoked ∧
    (dev1.core.handle 1).len.toNat < 0x1000 + 8 ∧ (readOnly.core.handle 1).fn = 0 ∧ dev1.member 0 = none ∧
    (encode (.bar 0 0)).isSome = true :=
  ⟨sReady (by decide), by decide, by decide, by decide, by decide, by decide, by decide, by decide, by decide, by decide⟩

theorem witness_Stores : MemoryOk dev1 ∧ SReady dev1.core 0 0 [1, 2] ∧ (dev1.core.handle 1).fn ≠ 0 ∧
    Reaches dev1 1 0xFF8 8 (page .device) ∧ dev1.dev.boundAt (page .device) 0x10FF8 = none ∧
    dev1.homeOf 1 0xFF8 (page .device) = 0x200FF8 ∧ 0x200FF8 + 8 ≤ enumPage ∧
    (dev1.core.handle 1).va.toNat + 0xFF8 < 2 ^ 64 ∧ dev1.dev.reachable .device 0x200FF8 none = true :=
  ⟨memoryOk (by decide), sReady (by decide), by decide, reaches (by decide), by decide, by decide, by decide, by decide, by decide⟩

/-- A plane region of a page bound to tag 1. -/
def planed (members : List Member) : State :=
  let s := mapped .plane (regs [(1, 0), (2, 0x1122334455667788)])
  { s with dev := { s.dev with tags := s.dev.tags.set 1 ⟨some 5, false, 7, false, members⟩,
                               planes := [⟨0, 0, .priority, 0x200000, 0x1000, some (1, 0), []⟩] } }

theorem witness_PlaneStores : SReady (planed [member]).core 0 0 [1, 2] ∧ (planed [member]).core.cleared = false ∧
    Reaches (planed [member]) 1 0 8 (page .plane) ∧ Reaches (planed [member]) 1 0xFF8 8 (page .plane) ∧
    (planed [member]).dev.planeAt 0x200000 = some ⟨0, 0, .priority, 0x200000, 0x1000, some (1, 0), []⟩ ∧
    (planed [member]).dev.isMember ⟨0, 0, .priority, 0x200000, 0x1000, some (1, 0), []⟩ 0 = true ∧
    (planed []).dev.isMember ⟨0, 0, .priority, 0x200000, 0x1000, some (1, 0), []⟩ 0 = false :=
  ⟨sReady (by decide), by decide, reaches (by decide), reaches (by decide), by decide, by decide, by decide⟩

theorem witness_ReleaseStores : MemoryOk dev1 ∧ SReady dev1.core 0 0 [1, 2] ∧ Released dev1 2 ∧
    dev1.dev.cycle % 256 = dev1.core.id % 256 ∧ Reaches dev1 1 0xFF8 8 (page .device) ∧
    Reaches dev1 1 0xFFC 4 (page .device) :=
  ⟨memoryOk (by decide), sReady (by decide), releasedOf (by decide), by decide, reaches (by decide), reaches (by decide)⟩

/-- The reset partition has 2 MiB less what accumulators, vector registers and tiles take; its last doubleword, the one
past it, and a misaligned offset. -/
theorem witness_ScratchpadWords : MemoryOk cpu ∧ SReady cpu.core 0 0 [1, 2] ∧ cpu.core.cleared = false ∧
    cpu.core.store.spadBytes % 8 = 0 ∧ 8 < cpu.core.store.spadBytes :=
  ⟨memoryOk (by decide), sReady (by decide), by decide, by decide, by decide⟩

/-- Host memory at the handle, in a window whose page AtomicOps do not reach. -/
def hosting : State :=
  let s := mapped .host (regs [(1, 0xFF8), (2, 1)])
  { s with dev := { s.dev with windows := [⟨0, 0x200000, 0x1000, true, .cache⟩] } }

theorem witness_Atomics : MemoryOk dev1 ∧ SReady dev1.core 0 0 [1, 2] ∧ Reaches dev1 1 0xFF8 8 (page .device) ∧
    Reaches dev1 1 0xFFC 4 (page .device) ∧ (dev1.core.handle 1).fn = 2 ∧ Released dev1 3 ∧
    dev1.homeOf ((1 : BitVec 3).setWidth 4) 0xFF8 (page .device) + 8 ≤ enumPage ∧ Reaches hosting 1 0xFF8 8 (page .host) ∧
    hosting.dev.route (hostBase + 0x200FF8) .add 3 = .cache :=
  ⟨memoryOk (by decide), sReady (by decide), reaches (by decide), reaches (by decide), by decide, releasedOf (by decide), by decide,
    reaches (by decide), by decide⟩

def cached : State :=
  let s := regs [(1, 0x10000), (2, 0x1000)]
  { s with dev := { s.dev with tcache := [(0, page .device)], pages := [page .device] } }
/-- An XLAT that falls due. -/
def translating (ps : List Page) : State :=
  { cached with core := { cached.core with scalar := { cached.core.scalar with
      flights := [⟨0, .xlat 1 0x10000 0x1000 2 ps, 1, 0, false, some 1⟩] } } }

/-- The XLAT's token is not accepted where the queue toward V is full. -/
def clogged (s : State) : State :=
  { s with core := { s.core with queues := { s.core.queues with tok := s.core.queues.tok.set 3 15 } } }

theorem witness_Translations : SReady cached.core 0 0 [1, 2] ∧ cached.core.fenced = false ∧
    cached.core.handleReady 1 = true ∧ cached.core.handleInUse 1 = false ∧
    xlatPages cached.cachedPages cached.pasid 2 0x10000 0x11000 16385 0x10000 [] = .hit [page .device] ∧
    xlatPages ({ cached with dev := { cached.dev with tcache := [(0, { page .device with w := false })] } } : State).cachedPages
      0 2 0x10000 0x11000 16385 0x10000 [] = .fault 0x09 0x10000 ∧
    (translating [page .device]).core.scalar.flights = [] ++ ⟨0, .xlat 1 0x10000 0x1000 2 [page .device], 1, 0, false, some 1⟩ :: [] ∧
    [page .device].all (fun p => (translating []).dev.pages.contains p) = true ∧
    [page .host].all (fun p => (translating []).dev.pages.contains p) = false ∧
    ({ (translating []).core with scalar := { (translating []).core.scalar with flights := [] } } : Core).accepts
      ⟨0, .xlat 1 0x10000 0x1000 2 [], 1, 0, false, some 1⟩ = true ∧
    ({ (clogged (translating [])).core with scalar := { (clogged (translating [])).core.scalar with flights := [] } } : Core).accepts
      ⟨0, .xlat 1 0x10000 0x1000 2 [], 1, 0, false, some 1⟩ = false :=
  ⟨sReady (by decide), by decide, by decide, by decide, by decide, by decide, rfl, by decide, by decide, by decide, by decide⟩

/-- Handle 2 takes up the whole table. -/
theorem witness_Translations_full :
    let s : State := { cached with core := { cached.core with store := { cached.core.store with
      handles := cached.core.store.handles.set 2 { handle .device with pages := List.replicate 4096 (page .device) } } } }
    4096 < [page .device].length + s.core.tableUsed 1 ∧ [page .device][4096 - s.core.tableUsed 1]? = some (page .device) := by
  decide +kernel

/-- A READY tile of class 0 over handle 1, with a pin. -/
def tiled (x : Tile) : State :=
  let s := mapped .device (regs [(1, 3), (2, 9)])
  { s with core := { s.core with store := { s.core.store with tiles := s.core.store.tiles.set 3 x,
                                                              classes := s.core.store.classes.set 0 ⟨1, 0, true⟩ } } }
def tile : Tile := ⟨2, 0, true, .ready, 0, true, 1, 0, 1, 9⟩

theorem witness_HandleAndTileWords : SReady (tiled tile).core 0 0 [1] ∧ (tiled tile).core.handleReady 1 = true ∧
    (tiled tile).core.handleInUse 1 = false ∧ (tiled tile).core.tileInUse 3 = false ∧
    ((tiled tile).core.tile 3).used = true ∧ ((tiled tile).core.tile 3).state = .ready ∧
    SReady (tiled tile).core 0 0 [pairEven 4, pairOdd 4] :=
  ⟨sReady (by decide), by decide, by decide, by decide, by decide, by decide, sReady (by decide)⟩

/-- A hit, a miss without a victim, one with an EMPTY victim, and one with a dirty READY victim. -/
theorem witness_TileProbes : PathReady (tiled tile).core 0 [5, 2] ∧ (tiled tile).core.probeHit 0 9 = some 3 ∧
    (tiled tile).core.probeHit 0 8 = none ∧ (tiled tile).core.probeVictim 0 = none ∧
    (tiled { tile with state := .empty, pin := 0 }).core.probeHit 0 9 = none ∧
    (tiled { tile with state := .empty, pin := 0 }).core.probeVictim 0 = some 3 ∧
    (tiled { tile with pin := 0 }).core.probeVictim 0 = some 3 ∧
    (tiled { tile with pin := 0 }).core.journalLoad + (tiled { tile with pin := 0 }).core.probeEntries 3 ≤ 32 :=
  ⟨⟨sReady (by decide), .inr (by decide)⟩, by decide, by decide, by decide, by decide, by decide, by decide, by decide⟩

/-- An S word in flight. -/
def flying (w : SWork) : State :=
  { cpu with core := { cpu.core with scalar := { cpu.core.scalar with flights := [⟨0, w, 1, 0, false, none⟩] } } }

/-- Die 7 is cut off and not yet confirmed as isolated; a write of core 0 to a peer was lost. -/
def cutOff (s : State) : State := { s with dev := { s.dev with stopAt := [(7, 0)] } }
def losing (s : State) : State := { s with dev := { s.dev with lostLines := [(0, 0x10000)] } }

theorem witness_Fences : cpu.lostGate 3 = .go ∧ SReady cpu.core 0 0 [1, 2] ∧
    (flying (.fence 2)).core.scalar.flights = [] ++ ⟨0, .fence 2, 1, 0, false, none⟩ :: [] ∧
    (flying (.fence 2)).fenceOk 2 0 = true ∧ (flying (.cfence 2 0x10000 0x1000)).fenceOk 2 0 = true ∧
    cpu.core.accepts ⟨0, .cfence 2 0x10000 0x1000, 1, 0, false, none⟩ = true ∧
    (clogged cpu).core.accepts ⟨0, .cfence 2 0x10000 0x1000, 1, 0, false, none⟩ = false ∧
    (flying (.stl 2)).core.scalar.flights = [] ++ ⟨0, .stl 2, 1, 0, false, none⟩ :: [] ∧
    (flying (.stl 2)).dev.allReached = true ∧ (cutOff (flying (.stl 2))).dev.allReached = false ∧
    (losing cpu).dev.lostLines = ((losing cpu).core.id, 0x10000) :: [] ∧ (losing cpu).core.cleared = false ∧
    (let s := mapped .code cpu
     findPage [page .code true] 0 (128 * 512) = some (page .code true) ∧ (page .code true).w ≠ (page .code true).x ∧
     ({ s with dev := { s.dev with pages := [page .code true] } } : State).dev.isCode ((page .code true).addr 0x10000) = true) :=
  ⟨by decide, sReady (by decide), rfl, by decide, by decide, by decide, by decide, rfl, by decide, by decide, by decide, by decide,
    by decide⟩

theorem witness_ResultsReturn :
    ((flying (.load 5 9 none [])).core.scalar.flights.filter (fun f => f.remain = 0)).Pairwise
      (fun f g => f.dest ≠ g.dest ∨ f.dest = none) ∧
    (∀ f ∈ (flying (.muldiv 5 9 false)).core.vec.flights, f.remain = 0 → f.again = false) := by
  decide

/-- A member that can arrive, one whose phase is unreleased, and one that may leave BARW at once. -/
theorem witness_BarrierWords : (barred member cpu).member 1 = some member ∧ (barred member cpu).core.fenced = false ∧
    ((barred member cpu).dev.tag 1).members.filter (fun x => x.core = (barred member cpu).core.id) = [member] ∧
    SReady (barred member cpu).core 0 0 [] ∧ SReady (barred member (regs [(1, 64)])).core 0 0 [1] ∧
    SReady (barred member cpu).core 0 0 [pairEven 4, pairOdd 4] ∧
    (barred { member with unreleased := true } cpu).member 1 = some { member with unreleased := true } ∧
    (barred { member with collided := some 4 } cpu).member 1 = some { member with collided := some 4 } ∧
    (barred member cpu).core.sigRoom (sigMask 1) = true ∧ (barred member cpu).lostGate 1 = .go :=
  ⟨by decide, by decide, by decide, sReady (by decide), sReady (by decide), sReady (by decide), by decide, by decide, by decide,
    by decide⟩

/-- The same member, whose core has a load out. -/
def loadOut : State :=
  let s := barred member cpu
  { s with core := { s.core with scalar := { s.core.scalar with flights := [⟨9, .load 5 0 none [], 0, 0, false, some 1⟩] } } }

theorem witness_BarrierWords_loads : loadOut.member 1 = some member ∧ SReady loadOut.core 0 0 [] ∧
    loadOut.core.fenced = false ∧ loadOut.lostGate 1 = .go ∧
    (loadOut.core.scalar.flights.head?).map (·.work) = some (.load 5 0 none []) :=
  ⟨by decide, sReady (by decide), by decide, by decide, by decide⟩

/-- A phase that is complete without and with a STEP, an open one, and a release that is due. -/
def arrived : Member := { member with arrived := true, unreleased := true }
def stepped : State :=
  { cpu with dev := { cpu.dev with tags := cpu.dev.tags.set 1 ⟨some 5, true, 7, true, [arrived]⟩ } }
def released : State :=
  let s := barred { arrived with arrived := false, due := some 0 } cpu
  { s with core := { s.core with scalar := { s.core.scalar with hold := .barrier 1 2 } } }

theorem witness_PhasesAndReleases : (barred member cpu).dev.phaseReady 1 = false ∧
    (barred arrived cpu).dev.phaseReady 1 = true ∧ ((barred arrived cpu).dev.tag 1).stepped = false ∧
    stepped.dev.phaseReady 1 = true ∧ (stepped.dev.tag 1).stepped = true ∧
    released.dev.released 1 = [{ arrived with arrived := false, due := some 0 }] ∧
    released.core.scalar.hold = .barrier 1 2 := by
  decide

/-- A plane region bound to tag 1, with two stores to its first word and one to its last. -/
def landed (rule : PlaneRule) : Plane :=
  ⟨0, 0, rule, 0x200000, 0x1000, some (1, 0),
    [⟨0x200000, 0x10000, 0, 3, 7, false⟩, ⟨0x200000, 0x10000, 1, 3, 9, false⟩, ⟨0x200FFC, 0x10FFC, 0, 0, 1, false⟩]⟩
theorem witness_PhasesAndReleases_values :
    let s := { stepped with dev := { stepped.dev with planes := [landed .fault] } }
    MemoryOk s ∧ s.dev.phaseReady 1 = true ∧ s.dev.boundTo 1 = [landed .fault] ∧
    (∀ y ∈ (landed .fault).next, y.addr + 4 ≤ enumPage ∧
      ∀ z ∈ (landed .fault).next, y.addr = z.addr ∨ y.addr + 4 ≤ z.addr ∨ z.addr + 4 ≤ y.addr) ∧
    ((landed .fault).next.filter (fun z => z.addr = 0x200000)).length = 2 :=
  ⟨memoryOk (by decide), by decide, by decide, by decide, by decide⟩

/-- A member whose arrival can register, and one of a DEVICE tag whose core has lost a write. -/
def arrivingAt (device : Bool) : State :=
  { cpu with dev := { cpu.dev with
      tags := cpu.dev.tags.set 1 ⟨some 5, device, 7, false, [{ member with arriving := true, unreleased := true }]⟩ } }
theorem witness_ArrivalsAndSettlement : (∀ g, (arrivingAt true).canRegister g = true → (arrivingAt true).lostGate 2 = .go) ∧
    (losing (arrivingAt true)).canRegister 1 = true ∧ (∀ k, k ≠ 1 → (losing (arrivingAt true)).canRegister k = false) ∧
    ((losing (arrivingAt true)).dev.tag 1).device = true ∧ (arrivingAt false).canRegister 1 = true ∧
    (losing (arrivingAt true)).dev.lostLines = ((losing (arrivingAt true)).core.id, 0x10000) :: [] := by
  decide

/-- A deque without records, with one, and full. -/
def dequed (bank : List (BitVec 512)) : State :=
  let s := regs [(1, 0x40)]
  { s with core := { s.core with deque := { s.core.deque with bank := bank } } }

theorem witness_QueueWords : SReady (dequed []).core 0 0 [1] ∧ SReady (dequed []).core 0 0 [1, 5] ∧
    SReady (dequed []).core 0 0 [1, 2, 3, 4, 5] ∧ (0x40 : Nat) + 64 ≤ (dequed []).core.store.tsave ∧
    (dequed [7]).core.deque.bank = [] ++ [7] ∧ (dequed (List.replicate 30 7)).core.deque.bank.length < 31 ∧
    32 ≤ (dequed (List.replicate 32 7)).core.deque.bank.length ∧ (dequed []).core.cleared = false ∧
    Released (dequed []) 2 :=
  ⟨sReady (by decide), sReady (by decide), sReady (by decide), by decide, rfl, by decide, by decide, by decide,
    releasedOf (by decide)⟩

theorem onePage {d : Device} {pasid : BitVec 20} {va n : Nat} {p : Page} (h : p.kind = .device ∧ p.canRead = true ∧
    p.canWrite = true ∧ p.va ≤ va ∧ p.addr va + n ≤ enumPage)
    (k : ∀ x < n, findPage d.pages pasid (va + x) = some p ∧ d.reachable .device (p.addr (va + x)) p.dieLocal = true) :
    OnePage d pasid va n p := by
  have at' : ∀ x, va ≤ x → x < va + n → va + (x - va) = x ∧ x - va < n := fun x h1 h2 => by omega
  refine ⟨fun x h1 h2 => ?_, h.1, h.2.1, h.2.2.1, fun x h1 h2 => ?_, h.2.2.2⟩
  · have := (k _ (at' x h1 h2).2).1
    rwa [(at' x h1 h2).1] at this
  · have := (k _ (at' x h1 h2).2).2
    rwa [(at' x h1 h2).1] at this

/-- A join block at the start of handle 1, whose COUNT and LATCHES are as given. -/
def joining (count latches : BitVec 8) : State :=
  let s := mapped .device (regs [(1, 0), (2, 5)])
  { s with dev := { s.dev with mem := (if count = 0 then [] else [(0x200000, count)]) ++
                                        (if latches = 0 then [] else [(0x200008, latches)]) } }

theorem witness_TaskJoins : MemoryOk (joining 1 1) ∧ MemoryOk (joining 2 0) ∧ SReady (joining 1 1).core 0 0 (1 :: 2 :: allRegs) ∧
    (joining 1 1).core.handleReady 1 = true ∧ ((joining 1 1).core.handle 1).state = .valid ∧
    ((joining 1 1).core.handle 1).fn = 2 ∧ (joining 1 1).homeOf 1 0 (page .device) = 0x200000 ∧
    ((joining 1 1).readHandle 1 0 16).2 = none ∧ leNat ((joining 1 1).dev.bytesAt 0x200000 8) = 1 ∧
    leNat ((joining 1 1).dev.bytesAt 0x200008 8) = 1 ∧ Released (joining 1 1) 2 :=
  ⟨memoryOk (by decide), memoryOk (by decide), sReady (by decide), by decide, by decide, by decide, by decide, by decide,
    by decide, by decide, releasedOf (by decide)⟩

theorem witness_TaskJoins_block : ∀ k < 640, (joining 1 1).core.handlePage 1 k = some (page .device) ∧
    k < (joining 1 1).core.pageRoom 1 0 (page .device) ∧
    (joining 1 1).dev.reachable .device (0x200000 + k) none = true := by
  decide +kernel

/-- The current core's answer is due. -/
def answered (i : Instr) (v : Word) : State :=
  let s := regs [(1, 0x40)]
  { s with core := { s.core with scalar := { s.core.scalar with hold := .answer 0 i v 0 0 } } }

theorem witness_AnswersArrive : MemoryOk (answered (.qpop 0 5 1) 1) ∧ (answered (.qpop 0 5 1) 1).answerDue = [0] ∧
    (answered (.qlen 0 5) 3).answerDue = [0] ∧ (answered (.qsteal 0 5 1) 0).answerDue = [0] ∧
    (answered (.qpop 0 5 1) 1).core.scalar.hold = .answer 0 (.qpop 0 5 1) 1 0 0 ∧
    Accepts (answered (.qpop 0 5 1) 1).core (sigMask 7) :=
  ⟨memoryOk (by decide), by decide, by decide, by decide, rfl, accepts (by decide)⟩

/-- A launched region with work left, on the current core. -/
def region : Region :=
  { key := 5, pasid := 0, rcb := 0x10000, parent := none, ccb := none, state := .running, maxCores := 1, gang := false,
    prio := 0, domain := 0, part := 0x21, codeLo := 0, codeTag := 0, entry := 0, entryVa := 0x10000, paramRcb := 0,
    tilesVa := 0, classes := Vector.replicate 8 .reset, tiles := Vector.replicate 64 .reset, spillBase := 0, spillSize := 0, kind := 0, order := 0, counts := [2, 1, 1], seed := none, sigAddr := 0,
    sigVal := 0, imageBase := 0, imageStride := 0, chain := [], total := 2, dispatched := 0, started := 0, params := [],
    images := [], kept := [], children := 0, chained := false, launchedAt := 0, serial := 0, readySince := none, deficit := 0,
    restarts := 0, ending := none }

/-- A machine that holds a region, with the current core at work for it. -/
def hosted (r : Region) (s : State) : State :=
  { s with core := { s.core with job := ⟨some 5, 0, 0, 0, false, none⟩ }, dev := { s.dev with regions := [r] } }

theorem witness_AnswersArrive_wnext :
    (hosted region (answered (.wnext 0 5) 0)).dev.regionOf (hosted region (answered (.wnext 0 5) 0)).core = some region ∧
    (hosted region (answered (.wnext 0 5) 0)).answerDue = [0] ∧ region.dispatched < region.total ∧
    ({ region with dispatched := 2 } : Region).total ≤ 2 := by
  decide

/-- The core's region has its control block and a Spillway ring of eight records at the mapped page. -/
def ringed (bank : List (BitVec 512)) (spill : Nat) : State :=
  let s := hosted { region with spillBase := 0x10000, spillSize := 8 } (mapped .device (dequed bank))
  { s with core := { s.core with deque := { s.core.deque with spill := spill } } }

theorem witness_QueueWords_ring : MemoryOk (ringed (List.replicate 31 7) 0) ∧
    (ringed [7] 1).dev.regionOf (ringed [7] 1).core = some { region with spillBase := 0x10000, spillSize := 8 } ∧
    OnePage (ringed (List.replicate 31 7) 0).dev 0 0x10000 512 (page .device) ∧
    (List.replicate 31 (7 : BitVec 512)).length = 31 ∧ (ringed [7] 1).core.deque.spill = 1 ∧
    ((ringed [7] 1).dev.readVa 0 0x10000 64).isSome = true :=
  ⟨memoryOk (by decide), by decide, onePage (by decide) (by decide +kernel), by decide, by decide, by decide +kernel⟩

/-- The answer of an RSPAWN to a control block at the mapped page, and one that is busy there. -/
def spawning : State :=
  let s := hosted { region with rcb := 0x10100 } (mapped .device cpu)
  { s with core := { s.core with scalar := { s.core.scalar with hold := .answer 0 (.rspawn 0 5 1) 0x10000 0 0 } } }

theorem witness_AnswersArrive_launch : MemoryOk spawning ∧ spawning.answerDue = [0] ∧ Accepts spawning.core (sigMask 0) ∧
    spawning.core.scalar.hold = .answer 0 (.rspawn 0 5 1) 0x10000 0 0 ∧ spawning.dev.rcbOk 0 0x10000 = true ∧
    spawning.dev.rcbOk 0 0x20000 = false ∧ spawning.dev.region? (regionKey 0 0x10000) = none ∧
    (({ spawning.dev with regions := [{ region with key := regionKey 0 0x10000 }] } : Device).region?
      (regionKey 0 0x10000)).isSome = true ∧ OnePage spawning.dev 0 0x10100 256 (page .device) :=
  ⟨memoryOk (by decide), by decide, accepts (by decide), rfl, by decide +kernel, by decide +kernel, by decide, by decide,
    onePage (by decide) (by decide +kernel)⟩

/-- A victim on the same die whose bank holds two records. -/
def robbing : State :=
  let s := hosted region (answered (.qsteal 0 5 1) 0)
  { s with others := [{ Core.idle 1 with running := true, job := ⟨some 5, 1, 0, 0, false, none⟩,
                                          deque := { Deque.reset with bank := [7, 9] } }] }

theorem witness_AnswersArrive_steal :
    robbing.answerDue = [0] ∧
    (robbing.victims.findSome? (fun id => robbing.cores.find? (fun c => c.id = id && c.deque.bank ≠ []))).map (·.deque.bank) =
      some [7, 9] ∧ (∀ c ∈ robbing.others, c.running = true ∧ c.deque.spill = 0 ∧ c.id ≠ robbing.core.id) ∧
    (answered (.qsteal 0 5 1) 0).victims = [] := by
  decide +kernel

theorem vReady {c : Core} {t m : BitVec 3} (h : c.walk = none ∧ c.pushPending .v = false ∧ c.slipOk .v = true ∧
    c.tokensOk .v t m = true ∧ c.vec.busy = 0 ∧ c.queues.held = []) : VReady c t m :=
  ⟨⟨h.1, h.2.1, h.2.2.1, h.2.2.2.1⟩, h.2.2.2.2.1, h.2.2.2.2.2⟩

/-- Operands of the special functions: 3 and −3 for VRCP, 3 for VRSQ and VLG2, and 1.5 for VEX2. -/
theorem witness_VectorFloats : VReady cpu.core 0 0 ∧ Fmt.f32.value (0x40400000 : W32).toNat = .fin false 0xC00000 (-22) ∧
    Fmt.f32.value (0xC0400000 : W32).toNat = .fin true 0xC00000 (-22) ∧ pow2? 0xC00000 (-22) = none ∧
    Fmt.f32.value (0x3FC00000 : W32).toNat = .fin false 0xC00000 (-23) ∧ topExp 0xC00000 (-23) < 8 ∧ -64 ≤ topExp 0xC00000 (-23) ∧
    0xC00000 % 2 ^ 23 ≠ 0 :=
  ⟨vReady (by decide), by decide, by decide, by decide, by decide, by decide, by decide, by decide⟩
theorem witness_VectorIntegers : VReady cpu.core 0 0 := vReady (by decide)
theorem witness_VectorMasks : VReady cpu.core 0 0 := vReady (by decide)
theorem witness_VectorMoves : VReady cpu.core 0 0 := vReady (by decide)
/-- FP32 to FP64 widens, FP64 to FP32 narrows; the FP4 format of code 13 has scale records. -/
theorem witness_VectorConversions : VReady cpu.core 0 0 ∧ fmtWidth 0 ≤ fmtWidth 3 ∧ fmtWidth 0 < fmtWidth 3 ∧
    fmtScaled 13 = true ∧ fmtWidth 13 ≤ typWidth 0 ∧ vunpkOk 0 13 = true :=
  ⟨vReady (by decide), by decide, by decide, by decide, by decide, by decide⟩
theorem witness_VectorReductions : VReady cpu.core 0 0 := vReady (by decide)

/-- Stream 0 is a SPAD stream of 32 rows and 32 columns of FP32. -/
def streamed (form geom pitch : Word) : State :=
  let q : Stream := ((Stream.zero.set 0 form).set 2 geom).set 3 pitch
  { cpu with core := { cpu.core with active := { cpu.core.active with streams := Vector.replicate 16 q } } }
def square : State := streamed 0 0x0020002000200020 128

theorem streamFits {c : Core} {n : BitVec 4} {p q r : Prop} {reads : Bool} {m : Stream → Prop} (hp : p) (hq : q) (hr : r)
    (h : (c.stream n).fmt ≠ 15 ∧ (c.stream n).geomOk = true ∧ (c.stream n).aligned = true ∧ (c.stream n).men = false) :
    StreamFits c n p q r reads m :=
  ⟨⟨h.1, hp⟩, hq, ⟨h.2.1, hr⟩, h.2.2.1, fun k => by simp [h.2.2.2] at k, fun k => by simp [h.2.2.2] at k,
    fun _ k => by simp [h.2.2.2] at k, fun _ k => by simp [h.2.2.2] at k⟩

theorem square_stream (n : BitVec 4) : square.core.stream n = square.core.stream 0 := by
  simp [Core.stream, square, streamed]

theorem square_inSpad (n : BitVec 4) (b : Bool) (rhi hi : Nat) (hr : rhi ≤ 32) (hc : hi ≤ 32) :
    InSpad square.core (square.core.stream n) Idx.zero 0 rhi 0 hi b := by
  rw [square_stream]
  intro _ r k _ h1 _ _ h2 _
  have hk : ∀ r < 32, ∀ k < 32, (square.core.stream 0).elemOff Idx.zero r k + (square.core.stream 0).elemSize ≤
      square.core.spadLimit (square.core.stream 0) := by decide
  exact ⟨hk r (by omega) k (by omega), fun _ h => absurd h (by decide)⟩

theorem witness_VectorStreams : VReady square.core 0 0 ∧ TileReady square.core (square.core.stream 0) ∧
    StreamFits square.core 0 True True True true ∧
    InSpad square.core (square.core.stream 0) square.core.idx 0 (min 32 (0 + 1)) 0 (min 32 (8192 / 32)) false :=
  ⟨vReady (by decide), fun h => absurd h (by decide), streamFits trivial trivial trivial (by decide),
    square_inSpad 0 false _ _ (by decide) (by decide)⟩

/-- Streams that each check refuses: format 15, kind GLOBAL for a V word, no rows, a pitch that is odd, a link to itself, rows
past the scratchpad, an unused tile, and accumulators that are absent. -/
def unformed : State := streamed 0xF0 0x0020002000200020 128
def global : State := streamed 2 0x0020002000200020 128
def tooFar : State := streamed 0 0x0020002000200020 0x100000
def untiled : State := streamed 1 0x0020002000200020 128
def accv : State :=
  let s := streamed 0x7F003 0x0020002000200020 0
  { s with core := { s.core with store := { s.core.store with part := 0 } } }
def noMeta : Stream → Prop := fun _ => True

theorem witness_VectorStreams_refused : cpu.core.cleared = false ∧
    StreamFails unformed.core 0 True True True true noMeta (0 + 256 * 1) ∧
    StreamFails global.core 0 True ((global.core.stream 0).kind ≠ 2) True true noMeta (0 + 256 * 2) ∧
    StreamFails (streamed 0 0 128).core 0 True True True true noMeta (0 + 256 * 3) ∧
    StreamFails (streamed 0 0x0020002000200020 2).core 0 True True True true noMeta (0 + 256 * 4) ∧
    StreamFails (streamed 0x1000000 0x0020002000200020 128).core 0 True True True true noMeta (0 + 256 * 5) ∧
    PastSpad tooFar.core (tooFar.core.stream 0) Idx.zero 0 32 0 32 (0x100000 * 2) ∧
    TileAbsent untiled.core (untiled.core.stream 0) ∧ PastAccs accv.core (accv.core.stream 0) Idx.zero 32 127 :=
  ⟨by decide, .format (.inl (by decide)), .kind (by decide) (by decide), .shape (by decide) trivial (by decide),
    .aligned (by decide) trivial (by decide) (by decide),
    .link (by decide) trivial (by decide) (by decide) (by decide) (.inl (by decide)),
    ⟨by decide, 2, 0, by decide, by decide, by decide, by decide, by decide, by decide, by decide, by decide⟩,
    ⟨by decide, .inl (by decide)⟩, by decide, by decide, by decide, 0, by decide, by decide, .inl (by decide)⟩

/-- A stream that is read, whose metadata stream has no rows, and one whose metadata stream is misaligned. -/
def withMeta (geom pitch : Word) : State :=
  let m : Stream := ((Stream.zero.set 0 0x90).set 2 geom).set 3 pitch
  let a : Stream := ((Stream.zero.set 0 0x1100070).set 2 0x0000000000800020).set 3 128
  { cpu with core := { cpu.core with active := { cpu.core.active with streams := (Vector.replicate 16 a).set 1 m } } }

theorem metaFits {c : Core} {n : BitVec 4} (h : (c.stream n).fmt ≠ 15 ∧ (c.stream n).geomOk = true ∧ (c.stream n).aligned = true ∧
    (c.stream n).mq ≠ n ∧ (c.stream (c.stream n).mq).fmt = 9 ∧ (c.stream (c.stream n).mq).kind ≤ 1) :
    StreamFits c n True True True false noMeta :=
  ⟨⟨h.1, trivial⟩, trivial, ⟨h.2.1, trivial⟩, h.2.2.1, fun _ => h.2.2.2.1, fun _ => h.2.2.2.2, fun k => absurd k (by decide),
    fun k => absurd k (by decide)⟩

theorem witness_VectorStreams_metadata :
    StreamFails (withMeta 0 128).core 0 True True True true noMeta (1 + 256 * 3) ∧
    StreamFits (withMeta 0x0000000000800020 128).core 0 True True True true noMeta :=
  ⟨.metaShape (metaFits (by decide)) rfl (by decide) (fun h => absurd h.1 (by decide)),
    { metaFits (by decide) with sized := fun _ _ => ⟨by decide, trivial⟩, even := fun _ _ => by decide }⟩

/-- A V result that falls due, and one of a replay buffer. -/
def landing (again : Bool) : State :=
  { cpu with core := { cpu.core with vec := { cpu.core.vec with
      flights := [{ flight 0 (.mask 1 5) 0 with again := again, sig2 := 1 }] } } }

theorem witness_VectorOrder : VReady cpu.core 0 0 ∧ VReady (landing false).core 0 0 ∧ (0 : BitVec 3).toNat < cpu.core.store.windows ∧
    cpu.core.store.windows ≤ (5 : BitVec 3).toNat ∧
    cpu.core.vec.flights = [] ∧ (landing false).core.vec.flights ≠ [] ∧ sigMask 5 ≠ 0 :=
  ⟨vReady (by decide), vReady (by decide), by decide, by decide, rfl, by decide, by decide⟩

theorem witness_VectorResultsLand : (landing true).core.landsV = true ∧ ∀ f ∈ (landing true).core.scalar.flights, f.remain = 0 → f.again = false ∨ f.dest = none := by
  decide

theorem mReady {c : Core} {t : BitVec 3} (h : c.walk = none ∧ c.pushPending .m = false ∧ c.slipOk .m = true ∧
    c.tokensOk .m t 0 = true ∧ c.mat.queue.length < 8) : MReady c t := ⟨⟨h.1, h.2.1, h.2.2.1, h.2.2.2.1⟩, h.2.2.2.2⟩

theorem xReady {c : Core} {t : BitVec 3} (h : c.walk = none ∧ c.pushPending .x = false ∧ c.slipOk .x = true ∧
    c.tokensOk .x t 0 = true ∧ c.journalLoad < 32) : XReady c t := ⟨⟨h.1, h.2.1, h.2.2.1, h.2.2.2.1⟩, h.2.2.2.2⟩

theorem square_tile (n : BitVec 4) : TileReady square.core (square.core.stream n) := by
  rw [square_stream]
  exact fun h => absurd h (by decide)

theorem square_accs (n : BitVec 4) (hi : Nat) : InAccs square.core (square.core.stream n) Idx.zero hi := by
  rw [square_stream]
  exact fun h => absurd h (by decide)

/-- MMA of two FP32 streams into the first and the last accumulator; MOUT, MLOAD, MBIAS and MSCALE with them. -/
theorem witness_MatrixWords : MReady square.core 0 ∧
    StreamFits square.core 0 ((mmaClass 0).isSome = true) True (kOf 0 ≤ 32) true ∧
    StreamFits square.core 1 True True (kOf 0 ≤ 32) true ∧ TileReady square.core (square.core.stream 1) ∧
    InSpad square.core (square.core.stream 0) square.core.idx 0 32 0 (kOf 0) true ∧
    InSpad square.core (square.core.stream 1) square.core.idx 0 (kOf 0) 0 32 true ∧
    InAccs square.core (square.core.stream 0) square.core.idx (kOf 0) ∧ 31 < square.core.store.accs ∧
    moutOk 0 0 = true ∧ vecFmtOk 0 0 = true ∧ CanIssue square.core .m 0 0 :=
  ⟨mReady (by decide), streamFits (by decide) trivial (by decide) (by decide),
    streamFits trivial trivial (by decide) (by decide), square_tile 1,
    square_inSpad 0 true _ _ (by decide) (by decide), square_inSpad 1 true _ _ (by decide) (by decide), square_accs 0 _,
    by decide, by decide, by decide, (mReady (t := 0) (by decide)).issue⟩

/-- A sparse product of FP8: stream 0 is A with its metadata in stream 1 and no valid element, stream 2 is B. -/
def sparse : State :=
  let a : Stream := ((Stream.zero.set 0 0x1100070).set 2 0x0000000000800020).set 3 128
  let m : Stream := ((Stream.zero.set 0 0x90).set 2 0x0000000000800020).set 3 128
  let b : Stream := ((Stream.zero.set 0 0x70).set 2 0x0000000000200200).set 3 32
  { cpu with core := { cpu.core with active := { cpu.core.active with
      streams := ((Vector.replicate 16 Stream.zero).set 0 a).set 1 m |>.set 2 b } },
             dev := { cpu.dev with reduced := false } }

theorem witness_MatrixWords_sparse : MReady sparse.core 0 ∧ sparse.dev.reduced = false ∧
    2 ≤ classOf (sparse.core.stream 0).fmt ∧ (sparse.core.stream 0).men = true ∧ (sparse.core.stream 0).mq = 1 ∧
    kOf (sparse.core.stream 0).fmt * 12 / 4 ≤ (sparse.core.stream 2).rows ∧ (sparse.core.stream 0).vrows = 0 ∧
    (sparse.core.stream 1).fmt = 9 ∧ kOf (sparse.core.stream 0).fmt ≤ (sparse.core.stream 0).cols ∧
    (sparse.core.stream 2).vrows = 0 ∧ (sparse.core.stream 0).geomOk = true ∧ (sparse.core.stream 1).geomOk = true ∧
    (sparse.core.stream 2).geomOk = true ∧ (sparse.core.stream 0).aligned = true :=
  ⟨mReady (by decide), by decide, by decide, by decide, by decide, by decide, by decide, by decide, by decide, by decide,
    by decide, by decide, by decide, by decide⟩

/-- A word at the head of M's queue. -/
def queued (i : Instr) : State :=
  { square with core := { square.core with mat := { square.core.mat with
      queue := [⟨i, square.core.stream 0, square.core.stream 0, [], Idx.zero, 0, []⟩] } } }

theorem witness_MatrixResults (i : Instr) : (queued i).core.mat.queue =
    ⟨i, square.core.stream 0, square.core.stream 0, [], Idx.zero, 0, []⟩ :: [] ∧ (square.core.stream 0).fmt ≠ 3 ∧
    fmtScaled (square.core.stream 0).fmt = false ∧ (square.core.stream 0).kind = 0 ∧
    (∀ k < kOf 0, 12 * (k / 4) + 0 < kOf 0 * 12 / 4) ∧ ∀ k < kOf 0, 12 * (k / 8) + 0 < kOf 0 * 12 / 8 :=
  ⟨rfl, by decide, by decide, by decide, by decide, by decide⟩

theorem square_place : ∀ i < 32, ∀ j < 32, (square.core.stream 0).elemOff Idx.zero i j = 128 * i + 4 * j := by
  decide

theorem witness_MatrixOutput : MemoryOk (queued (.mout 0 3 0 0 0)) ∧ fmtScaled (square.core.stream 0).fmt = false ∧
    8 ≤ (square.core.stream 0).width ∧
    ∀ i j k l, i < 32 → j < 32 → k < 32 → l < 32 → (i, j) ≠ (k, l) →
      (square.core.stream 0).elemOff Idx.zero i j + 4 ≤ (square.core.stream 0).elemOff Idx.zero k l ∨
      (square.core.stream 0).elemOff Idx.zero k l + 4 ≤ (square.core.stream 0).elemOff Idx.zero i j := by
  refine ⟨memoryOk (by decide), by decide, by decide, fun i j k l hi hj hk hl hn => ?_⟩
  rw [square_place i hi j hj, square_place k hk l hl]
  have : i ≠ k ∨ j ≠ l := by
    rw [Ne, Prod.mk.injEq] at hn
    omega
  omega

/-- A copy within the scratchpad, a reduction of it into handle 1, whose last element is the last word of the handle, a
gather by indices that are all 0, and a fill of a READY tile. -/
def copying (form : Word) : State :=
  let q : Stream := (Stream.zero.set 2 0x0020002000200020).set 3 128
  let s := mapped .device cpu
  { s with core := { s.core with active := { s.core.active with
      streams := ((Vector.replicate 16 q).set 1 (q.set 0 form)).set 2 (q.set 0 0x40) } } }

theorem copying_offset : ∀ r < 32, ∀ k < 32, ((copying 0x102).core.stream 1).elemOff Idx.zero r k + 4 ≤ 0x1000 := by
  decide

theorem noBound {s : State} (h : s.dev.planes = []) (k : BitVec 4) (o n : Nat) (p : Plane) : p ∉ s.boundOver k o n := by
  simp only [State.boundOver, h, List.filter_nil, ite_self, List.mem_flatten, List.mem_map]
  rintro ⟨l, ⟨_, _, rfl⟩, hp⟩
  exact absurd hp (by simp)

theorem copying_index : ∀ r < 32, ∀ k < 32,
    (copying 0).core.elemBits (copying 0).core.store.spad ((copying 0).core.stream 2) Idx.zero r k = 0 := by
  decide +kernel

theorem witness_TransferWords : XReady (copying 0x102).core 0 ∧
    StreamFits (copying 0x102).core 0 (xredOk 0 0 = true) (((copying 0x102).core.stream 0).kind ≠ 3) True true ∧
    StreamFits (copying 0x102).core 1 (((copying 0x102).core.stream 1).fmt = ((copying 0x102).core.stream 0).fmt)
      (((copying 0x102).core.stream 1).kind = 2)
      (((copying 0x102).core.stream 1).rows = ((copying 0x102).core.stream 0).rows ∧
        ((copying 0x102).core.stream 1).cols = ((copying 0x102).core.stream 0).cols) true ∧
    InHandle (copying 0x102).core ((copying 0x102).core.stream 1) Idx.zero 32 32 true ∧
    (∀ (o n : Nat) (p : Plane), p ∉ (copying 0x102).boundOver 1 o n) ∧
    StreamFits (copying 0).core 1 (((copying 0).core.stream 1).fmt = ((copying 0).core.stream 0).fmt)
      (((copying 0).core.stream 1).kind ≠ 3) True false ∧
    StreamFits (copying 0).core 2 (((copying 0).core.stream 2).fmt = 4) (((copying 0).core.stream 2).kind ≤ 1)
      (((copying 0).core.stream 2).rows = ((copying 0).core.stream 1).rows ∧
        ((copying 0).core.stream 2).cols = ((copying 0).core.stream 1).cols) true ∧
    ((copying 0).core.stream 1).valid 0 0 = true ∧
    ((copying 0).core.stream 1).elemOff Idx.zero 0 0 + 4 ≤ (copying 0).core.spadLimit ((copying 0).core.stream 1) ∧
    ((tiled tile).core.tile 3).state = .ready ∧ (tiled tile).core.tileInUse 3 = false ∧
    ((tiled tile).core.handle ((tiled tile).core.tile 3).handle).state = .valid ∧ CanIssue cpu.core .x 0 0 := by
  refine ⟨xReady (by decide), streamFits (by decide) (by decide) trivial (by decide),
    streamFits (by decide) (by decide) (by decide) (by decide),
    ⟨by decide, by decide, fun _ r k hr _ hk _ => ?_⟩, fun o n p => noBound (by decide) 1 o n p,
    streamFits (by decide) (by decide) trivial (by decide), streamFits (by decide) (by decide) (by decide) (by decide), by decide,
    by decide, by decide, by decide, by decide, (xReady (t := 0) (by decide)).issue⟩
  exact copying_offset r hr k hk

/-- A copy into a bound plane region, by a core that is no member and by one that is. -/
def planing (form : Word) (members : List Member) : State :=
  let q : Stream := (Stream.zero.set 2 0x0020002000200020).set 3 128
  let s := planed members
  { s with core := { s.core with active := { s.core.active with
      streams := (Vector.replicate 16 (q.set 0 (form &&& 0xF0))).set 1 (q.set 0 form) } } }

theorem witness_TransferWords_planes :
    (⟨0, 0, .priority, 0x200000, 0x1000, some (1, 0), []⟩ : Plane) ∈ (planing 0x102 []).boundOver 1 0 128 ∧
    (planing 0x102 []).dev.isMember ⟨0, 0, .priority, 0x200000, 0x1000, some (1, 0), []⟩ 0 = false ∧
    (planing 0x102 [member]).dev.isMember ⟨0, 0, .priority, 0x200000, 0x1000, some (1, 0), []⟩ 0 = true ∧
    ((planing 0x102 []).core.stream 1).width = 32 ∧ ((planing 0x112 []).core.stream 1).width = 16 ∧
    (readOnly.core.handle 1).fn = 0 ∧ (revoked.core.handle 1).state = .revoked := by
  decide

/-- A command at the head of the journal: its word, over streams of one element. -/
def dot (form : Word) : Stream := ((Stream.zero.set 0 form).set 2 0x0001000100010001).set 3 4
def moving (word : W32) (s : State) (qd : Word := 0) : State :=
  { s with core := { s.core with xfer := { s.core.xfer with
      journal := [⟨word, 0, Idx.zero, dot 0, dot qd, dot 0x40, 0, 0, none, 0, false⟩] } } }

/-- XFILL of tile 3 from page 1's handle, XDRAIN of it, the same with an INVALID handle, and a drain to a plane region of
another core. -/
theorem witness_TransferChunks : MemoryOk (moving 0xC0C18000 (tiled { tile with block := 0 })) ∧
    wordOp 0xC0C18000 = 6 ∧ wordOp 0xC0E18000 = 7 ∧ fld (0xC0E18000 : W32) 0 1 = 0 ∧
    ((tiled tile).core.handle 1).state = .valid ∧ (∀ j < 4096, (tiled tile).core.handlePage 1 (0 + j) = some (page .device)) ∧
    (∀ l ∈ linesOf 0x10000 4096, (tiled tile).core.pageOf 1 (64 * l) = some (page .device)) ∧
    ((tiled tile).dev.readPage (page .device) 0x10000 4096).2 = none ∧
    (moving 0xC0C18000 (tiled { tile with handle := 2 })).core.usedHandles
      ⟨0xC0C18000, 0, Idx.zero, dot 0, dot 0, dot 0x40, 0, 0, none, 0, false⟩ = [2] ∧
    ((tiled { tile with handle := 2 }).core.handle 2).state = .invalid ∧
    (moving 0xC0202000 (planed []) 0x102).core.usesKind
      ⟨0xC0202000, 0, Idx.zero, dot 0, dot 0x102, dot 0x40, 0, 0, none, 0, false⟩ .plane = true ∧
    (1, 0, 4) ∈ (moving 0xC0202000 (planed []) 0x102).core.chunkSpans
      ⟨0xC0202000, 0, Idx.zero, dot 0, dot 0x102, dot 0x40, 0, 0, none, 0, false⟩ ∧
    (⟨0, 0, .priority, 0x200000, 0x1000, some (1, 0), []⟩ : Plane) ∈ (planed []).boundOver 1 0 4 := by
  refine ⟨memoryOk (by decide), by decide, by decide, by decide, by decide, ?_, ?_, by decide +kernel, by decide, by decide,
    by decide, by decide, by decide⟩
  · intro j hj
    have : (tiled tile).core.handle 1 = handle .device := by decide
    unfold Core.handlePage
    rw [this]
    simp [handle, page]
    omega
  · decide +kernel

/-- The one element of a copy in the scratchpad, and of one into handle 1: its page, its bytes and its place. -/
theorem witness_TransferChunks_elements : wordOp 0xC0202000 = 1 ∧ (dot 0).kind = 0 ∧ (dot 0x102).kind = 2 ∧
    (dot 0).fmt = (dot 0x102).fmt ∧ (dot 0).Apart Idx.zero ∧ (dot 0x102).Apart Idx.zero ∧
    ([0, 1, 2, 3] : List Nat).Nodup ∧ (∀ y, y ∈ [0, 1, 2, 3] ↔ ∃ r k, (dot 0).valid r k = true ∧
      (dot 0).elemOff Idx.zero r k ≤ y ∧ y < (dot 0).elemOff Idx.zero r k + (dot 0).elemSize) ∧
    InPage (moving 0xC0202000 dev1 0x102) (dot 0x102) Idx.zero (page .device) (fun r k => (dot 0x102).valid r k = true) ∧
    CleanIn (moving 0xC0202000 dev1 0x102) (dot 0x102) Idx.zero (page .device) (fun r k => (dot 0x102).valid r k = true) := by
  have one : ∀ (f : Word) (r k : Nat), (dot f).valid r k = true → r = 0 ∧ k = 0 := fun f r k h => by
    have : (dot f).vrows = 1 ∧ (dot f).vcols = 1 := by
      simp [dot, Stream.vrows, Stream.vcols, Stream.geom]
    simp only [Stream.valid, this.1, this.2, Bool.and_eq_true, decide_eq_true_eq] at h
    omega
  have apart : ∀ f, (dot f).Apart Idx.zero := fun f r k r' k' h h' n => by
    obtain ⟨rfl, rfl⟩ := one f r k h
    obtain ⟨rfl, rfl⟩ := one f r' k' h'
    exact absurd rfl n
  refine ⟨by decide, by decide, by decide, by decide, apart 0, apart 0x102, by decide, fun y => ⟨fun h => ?_, ?_⟩, ?_, ?_⟩
  · refine ⟨0, 0, by decide, ?_⟩
    revert h
    revert y
    decide
  · rintro ⟨r, k, h, lo, hi⟩
    obtain ⟨rfl, rfl⟩ := one 0 r k h
    have e : (dot 0).elemOff Idx.zero 0 0 = 0 ∧ (dot 0).elemSize = 4 := by decide
    rw [e.1, e.2] at hi
    simp only [List.mem_cons, List.not_mem_nil, or_false]
    omega
  · refine ⟨by decide, fun _ r k h => ?_, fun _ r k h => ?_⟩ <;> obtain ⟨rfl, rfl⟩ := one _ r k h <;> decide +kernel
  · intro _ r k h
    obtain ⟨rfl, rfl⟩ := one _ r k h
    decide +kernel

theorem witness_TransfersComplete : (moving 0xC0202E00 cpu).core.xfer.journal =
      ⟨0xC0202E00, 0, Idx.zero, dot 0, dot 0, dot 0x40, 0, 0, none, 0, false⟩ :: [] ∧
    (moving 0xC0202E00 cpu).core.scalar.handler = false ∧ fld (0xC0202E00 : W32) 11 1 = 1 ∧
    (moving 0xC0202E00 cpu).lostGate (fld (0xC0202E00 : W32) 9 2) = .go :=
  ⟨rfl, by decide, by decide, by decide⟩

/-- A fault is recorded, with and without a handler. -/
def failing (tvec : Word) : State :=
  { cpu with core := { cpu.core with scalar := { cpu.core.scalar with tvec := tvec }, fails := [⟨.v, 0x06, 1, 0x100⟩] } }
/-- A pending interrupt. -/
def interrupted (pend : BitVec 3) : State :=
  { cpu with core := { cpu.core with scalar := { cpu.core.scalar with tvec := 0x800, ipend := pend } } }

theorem witness_TrapsEnter : MemoryOk (failing 0x800) ∧ (failing 0x800).core.cause = some ⟨.v, 0x06, 1, 0x100⟩ ∧
    (failing 0x800).core.handlerAt ≠ 0 ∧ (failing 0).core.cause = some ⟨.v, 0x06, 1, 0x100⟩ ∧ (failing 0).core.handlerAt = 0 ∧
    InterruptDue (interrupted 1).core 0 ∧ InterruptDue (interrupted 4).core 2 ∧ (interrupted 4).core.handlerAt ≠ 0 ∧
    (interrupted 4).core.fails = [] ∧ (interrupted 4).core.scalar.late = [] ∧ (interrupted 4).settled = true ∧
    (flying (.fence 2)).settled = false :=
  ⟨memoryOk (by decide), by decide, by decide, by decide, by decide,
    ⟨by decide, by decide, by decide, by decide, by decide, by decide, by decide⟩,
    ⟨by decide, by decide, by decide, by decide, by decide, by decide, by decide⟩, by decide, rfl, rfl, by decide, by decide⟩

/-- A core in its handler: with a frame of zeros, and with one whose WINDOW is out of range. -/
def handling (window : BitVec 8) : State :=
  let c := cpu.core
  { cpu with core := { c with scalar := { c.scalar with handler := true },
                              store := { c.store with spad := if window = 0 then [] else [(c.store.tsave + 0x98, window)] } } }
def fatal : State :=
  { cpu with core := { cpu.core with fatal := some ⟨.s, 0x83, 0, 0⟩ } }

theorem witness_TrapsReturn : SReady (handling 0).core 0 0 [] ∧ (handling 0).core.scalar.handler = true ∧
    (handling 0).core.frameOk (handling 0).core.saveArea = true ∧ SReady (handling 7).core 0 0 [] ∧
    (handling 7).core.frameOk (handling 7).core.saveArea = false ∧ cpu.core.scalar.handler = false ∧
    cpu.core.cleared = false ∧ (encode (.tret 0)).isSome = true :=
  ⟨sReady (by decide), by decide, by decide, sReady (by decide), by decide, by decide, by decide, by decide⟩

theorem witness_TrapsReturn_fatal : (hosted region fatal).core.fatalFail = some ⟨.s, 0x83, 0, 0⟩ ∧
    (hosted region fatal).dev.regionOf (hosted region fatal).core = some region ∧ region.domain = 0 ∧ region.ending = none ∧
    (∀ q ∈ (hosted region fatal).dev.peerReqs, q.region = some region.key → q.isWrite = false) ∧
    (∀ x ∈ (hosted region fatal).dev.regions, x.parent ≠ some region.key) ∧
    ∀ c ∈ (hosted region fatal).dev.ccbs, c.heldArgs = none := by
  decide

/-- A nest of one row at address 0 in CODE memory, its line in the instruction caches: from bit 32 on, the words of S, V, M
and X. -/
def coded (s : State) (words : BitVec 128) : State :=
  { s with dev := { s.dev with pages := [{ page .code true with va := 0, frame := 0 }],
                               icache := [⟨0, 0, words.setWidth 1024 <<< 32⟩] } }
def nops : BitVec 128 := 0xC1400000816000004500000003400000
def nestOf : Nest := ⟨1, 1, 0, Idx.zero, false, false, [0x00291E68, 0x45000000, 0x81600000, 0xC1400000], 0⟩
def nesting : State := { cpu with core := { cpu.core with nest := some nestOf } }

/-- A body of one row meets R30 where its four words do. -/
theorem oneRow {a b c d : W32} (h : wordEngine a = .s ∧ wordEngine b = .v ∧ wordEngine c = .m ∧ wordEngine d = .x)
    (k : (decodeWord a).toOption.isSome = true ∧ (decodeWord b).toOption.isSome = true ∧ (decodeWord c).toOption.isSome = true ∧
      (decodeWord d).toOption.isSome = true)
    (p : isPathWord a = false ∧ isNestWord a = false ∧ (wordOp a = 0x1A → fld a 0 3 ≠ 1 ∧ fld a 0 3 ≠ 2 ∧ fld a 0 3 ≠ 3)) :
    BodyOk [a, b, c, d] 1 := by
  have four : ∀ {k : Nat} {w : W32}, [a, b, c, d][k]? = some w → k < 4 := fun h => (List.getElem?_eq_some_iff.mp h).1
  have ok : ∀ {w : W32}, (decodeWord w).toOption.isSome = true → ∃ i, decodeWord w = .ok i := fun {w} h => by
    cases e : decodeWord w with
    | error x => simp [e, Except.toOption] at h
    | ok i => exact ⟨i, rfl⟩
  refine ⟨fun n w e => ?_, fun n w e => ?_, fun n w e hn => ?_, fun i j v w e f lt m => ?_⟩
  · obtain rfl | rfl | rfl | rfl : n = 0 ∨ n = 1 ∨ n = 2 ∨ n = 3 := by have := four e; omega
    all_goals
      simp only [List.getElem?_cons_zero, List.getElem?_cons_succ, Option.some.injEq] at e
      subst e
    · exact h.1
    · exact h.2.1
    · exact h.2.2.1
    · exact h.2.2.2
  · obtain rfl | rfl | rfl | rfl : n = 0 ∨ n = 1 ∨ n = 2 ∨ n = 3 := by have := four e; omega
    all_goals
      simp only [List.getElem?_cons_zero, List.getElem?_cons_succ, Option.some.injEq] at e
      subst e
    · exact ok k.1
    · exact ok k.2.1
    · exact ok k.2.2.1
    · exact ok k.2.2.2
  · obtain rfl : n = 0 := by have := four e; omega
    simp only [List.getElem?_cons_zero, Option.some.injEq] at e
    subst e
    exact p
  · have := four e
    have := four f
    omega

theorem nops_ok : BodyOk [0x03400000, 0x45000000, 0x81600000, 0xC1400000] 1 := oneRow (by decide) (by decide) (by decide)
theorem body_ok : BodyOk nestOf.body nestOf.ii := oneRow (by decide) (by decide) (by decide)

/-- A body of NOPs is fetched and checks; one whose S slot holds a word of V does not. -/
theorem witness_Nests : BodyOk [0x03400000, 0x45000000, 0x81600000, 0xC1400000] 1 ∧
    (coded cpu nops).nestBody 0 = some [0x03400000, 0x45000000, 0x81600000, 0xC1400000] ∧
    (∀ k < 4, (coded cpu nops).fetchWord ((coded cpu nops).core.engS.pc + 4 + BitVec.ofNat 64 (4 * k)) =
      [(0x03400000 : W32), 0x45000000, 0x81600000, 0xC1400000][k]?) ∧
    bodyFault [0x45000000, 0x45000000, 0x81600000, 0xC1400000] 1 = some (0, 0x02) ∧
    (coded cpu nops).core.tokensOk .s 0 0 = true ∧ (coded cpu nops).core.scalar.hold = .none ∧
    (coded cpu nops).core.scalar.late = [] ∧ (coded cpu nops).core.faultComing = false ∧ (coded cpu nops).core.walk = none ∧
    (coded cpu nops).core.scalar.handler = false ∧ (coded cpu nops).core.pushPending .s = false ∧
    (coded cpu nops).core.nest = none ∧ (∀ e, ((coded cpu nops).core.eng e).pc = (coded cpu nops).core.engS.pc) ∧
    (coded cpu nops).core.queues.pushes = [] ∧ (coded cpu nops).core.queues.held = [] ∧ (coded cpu nops).core.vec.busy = 0 :=
  ⟨nops_ok, by decide +kernel, by decide +kernel, by decide, by decide, rfl, rfl, by decide, rfl, rfl, by decide, rfl,
    fun e => by cases e <;> rfl, rfl, rfl, rfl⟩

/-- A nest cycle with one word due, which can issue; one that lacks its token; one that is held by a barrier. -/
def waiting : State :=
  { cpu with core := { cpu.core with nest := some { nestOf with body := [0x08291E68, 0x45000000, 0x81600000, 0xC1400000] } } }
theorem witness_Nests_due : BodyOk nestOf.body nestOf.ii ∧ 0 < nestOf.ii ∧
    nestOf.cycle = 0 * nestOf.ii + 0 ∧ 0 < nesting.core.iterations ∧ 0 < nestOf.rows ∧ nestOf.body[4 * 0 + 0]? = some 0x00291E68 ∧
    isNop 0x00291E68 = false ∧ nesting.core.masked 0 (nesting.core.indices 0) = false :=
  ⟨body_ok, by decide, by decide, by decide, by decide, by decide, by decide, by decide⟩

/-- The state in which a nest cycle looks whether its words can issue. -/
def looking (s : State) (n : Nest) : State := ({ s with core := s.core.setNest n } : State).onCore Core.landed
/-- The AMOADD of s2 at s1 through handle 1 at SYSTEM scope, and a nest of it over host memory without CXL.cache. -/
def amoAdd : Instr := .amoadd 0 2 1 1 1 0 3
def adding : Nest := { nestOf with body := [(encode amoAdd).getD 0, 0x45000000, 0x81600000, 0xC1400000] }
def sending : State :=
  let s := mapped .host (regs [(1, 0xFF8), (2, 1)])
  { s with core := { s.core with nest := some adding } }

theorem witness_Nests_atomic : sending.core.nest = some adding ∧ sending.core.nestBlocked = false ∧ adding.body ≠ [] ∧
    (∀ g ∈ (looking sending adding).dueGates adding, g.2.2.2 = .go) ∧
    (looking sending adding).nestAtomic ((looking sending adding).dueGates adding) = some amoAdd := by
  decide +kernel

theorem witness_Nests_cycle : nesting.core.dueWord nestOf .s = some (0, 0x00291E68, Idx.zero) ∧
    (∀ g ∈ (looking nesting nestOf).dueGates nestOf, g.2.2.2 = .go) ∧
    (looking nesting nestOf).nestAtomic ((looking nesting nestOf).dueGates nestOf) = none ∧
    nesting.core.nestBlocked = false ∧ nestOf.body ≠ [] ∧
    (∃ g ∈ (looking waiting { nestOf with body := [0x08291E68, 0x45000000, 0x81600000, 0xC1400000] }).dueGates
      { nestOf with body := [0x08291E68, 0x45000000, 0x81600000, 0xC1400000] }, g.2.2.2 ≠ .go) ∧
    ({ released with core := { released.core with nest := some nestOf } } : State).core.nestBlocked = true := by
  decide

/-- A compare that could not retire, and a core at the close of its cycle with a token to push. -/
def late : State :=
  { cpu with core := { cpu.core with scalar := { cpu.core.scalar with late := [⟨0, 0, .cond true⟩] } } }
def closing : State :=
  { cpu with core := { cpu.core with phase := .close, queues := { cpu.core.queues with pushes := retirePush 0 0 1 .none } },
             dev := { cpu.dev with turn := false } }

theorem witness_CoreEvents : late.core.scalar.late = ⟨0, 0, .cond true⟩ :: [] ∧ late.core.queues.cond.length < 16 ∧
    decided.core.scalar.late = [] ∧ decided.core.queues.held = [] ∧ (List.replicate 16 true).length = 16 ∧
    ({ cpu with core := { cpu.core with scalar := { cpu.core.scalar with hold := .pause 0 1 } } } : State).core.scalar.hold =
      .pause 0 1 ∧ decided.core.queues.tok[0] < 15 ∧ 15 ≤ (clogged cpu).core.queues.tok[3] ∧
    ((cpu.core.pushTokens .s 1).pushTokens .s 0).queues.pend = cpu.core.queues.pend ∧
    ∀ p : Fin 3, cpu.core.queues.pend[3 * (p.val + 1)]'(by have := p.isLt; omega) = 0 := by
  decide

theorem witness_CoreEvents_close : closing.dev.powered = true ∧ closing.dev.inbox = [] ∧ closing.dev.turn = false ∧
    closing.dev.live closing.core = true ∧ closing.core.phase = .close ∧ closing.closeEvent = none := by
  decide +kernel

def walking (s : State) : State :=
  { s with core := { s.core with walk := some ⟨0, 0x10000, 0x10FFF, 0, 1, true, 0⟩ } }

/-- A walk of the restore of handle 3. -/
def restoringWalk : State := { walking cpu with core := { (walking cpu).core with restoring := [3] } }
def local0 : Page := { page .device with dieLocal := some 0 }

/-- A fetch that no page grants, one of a marked line, one of a poisoned one and one that goes well; a walk that finds its
page and one that does not. -/
theorem witness_FetchesAndWalks : findPage cpu.dev.pages cpu.pasid 0 = none ∧
    findPage (coded cpu nops).dev.pages (coded cpu nops).pasid 0 = some { page .code true with va := 0, frame := 0 } ∧
    ({ page .code true with va := 0, frame := 0 } : Page).canExec = true ∧
    ({ page .code true with va := 0, frame := 0 } : Page).frame % 128 = 0 ∧ (coded cpu nops).dev.marks = [] ∧
    (coded cpu nops).dev.remote = [] ∧
    ((coded cpu nops).dev.readPage { page .code true with va := 0, frame := 0 } (0 + (128 * 0 - 0)) 128).2 = none ∧
    (({ (coded cpu nops).dev with poison := [0] } : Device).readPage { page .code true with va := 0, frame := 0 }
      (0 + (128 * 0 - 0)) 128).2 = some 0 ∧
    findPage (walking dev1).dev.pages (walking dev1).pasid 0x10000 = some (page .device) ∧ (walking dev1).core.restoring = [] ∧
    findPage (walking cpu).dev.pages (walking cpu).pasid 0x10000 = none ∧ restoringWalk.core.restoring = 3 :: [] ∧
    (walking cpu).dev.apertures = [] ∧ local0.dieLocal = some 0 ∧
    findPage ((walking cpu).dev.pages ++ [{ local0 with readOnly := false }]) (walking cpu).pasid 0x10000 =
      some { local0 with readOnly := false } := by
  decide +kernel

/-- A region with an index to dispatch and a free core to take it. -/
def dispatching : State :=
  { cpu with core := Core.idle 0, dev := { cpu.dev with cycle := 100000, wall := 100000000, regions := [region] } }

theorem witness_Regions : dispatching.dev.region? 5 = some region ∧ region.gang = false ∧ dispatching.takes region = [0] ∧
    (dispatching.coreOf 0).job.region ≠ some 5 ∧ dispatching.freeSlot region = some 0 := by
  decide +kernel

/-- A gang of two cores. -/
def ganged : Region := { region with gang := true, maxCores := 2 }
def mustering : State := { dispatching with dev := { dispatching.dev with regions := [ganged] } }
theorem witness_Regions_gang : mustering.dev.region? 5 = some ganged ∧ mustering.takes ganged = [0, 1] ∧
    mustering.usedSlots ganged = [] ∧ (mustering.coreOf 0).job.region ≠ some 5 ∧ (mustering.coreOf 1).job.region ≠ some 5 := by
  decide +kernel

/-- A region whose work is done, one that joins no more children, and one that waits for a core of a lower region. -/
def finished : State := { dispatching with dev := { dispatching.dev with regions := [{ region with dispatched := 2 }] } }
def joined : Region := { region with state := .joining, chained := true }
theorem witness_Regions_end : finished.workDone { region with dispatched := 2 } = true ∧ region.chain = [] ∧
    joined.state = .joining ∧ joined.chained = true ∧ joined.children = 0 ∧ joined.ending = none ∧ finished.dev.peerReqs = [] ∧
    (∀ q ∈ finished.dev.regions, q.parent ≠ some joined.key) ∧ (∀ c ∈ finished.dev.ccbs, c.heldArgs = none) ∧
    finished.dev.region? 5 = some { region with dispatched := 2 } := by
  decide +kernel

/-- A write of the region to a peer that is not acknowledged, and the two ways in which a region ends later. -/
def writing : PeerReq := ⟨7, none, 0, some 5, true, 0, 0x10000, .write, .write 0 0 0 [true] [1] 0, 0⟩
def ending (s : RState) : Region := { joined with ending := some ⟨s, 0, ⟨0, 0, 0, 0, 0, 0, 0⟩, false⟩ }
theorem witness_Regions_ending : writing.region = some region.key ∧ writing.isWrite = true ∧ (ending .faulted).state = .joining ∧
    (ending .faulted).chained = true ∧ (ending .faulted).ending = some ⟨.faulted, 0, ⟨0, 0, 0, 0, 0, 0, 0⟩, false⟩ ∧
    (ending .pending).ending = some ⟨.pending, 0, ⟨0, 0, 0, 0, 0, 0, 0⟩, false⟩ := by
  decide

/-- A pending region whose parameter block's pointer cannot be read. -/
def pendingRegion : Region := { region with state := .pending }
theorem witness_Regions_params : pendingRegion.state = .pending ∧ pendingRegion.ending = none ∧
    ({ dispatching with dev := { dispatching.dev with regions := [pendingRegion] } } : State).takes pendingRegion ≠ [] ∧
    dispatching.dev.readParams pendingRegion = none := by
  decide +kernel

/-- A core of a region of low priority with an image area, and a region of high priority that needs more cores than are
free. -/
def urgent : Region := { region with key := 6, prio := 7, maxCores := 256, counts := [256, 1, 1], total := 256 }
def contended : State :=
  let s := hosted { region with imageBase := 0x20000, maxCores := 1, dispatched := 2 } cpu
  { s with dev := { s.dev with regions := s.dev.regions ++ [urgent] } }
theorem witness_Regions_preempt : contended.dev.region? 6 = some urgent ∧ (contended.preemptPick urgent).isSome = true ∧
    ({ urgent with readySince := some 0 } : Region).readySince = some 0 ∧
    usUnits 20 ≤ ({ contended with dev := { contended.dev with wall := usUnits 20 } } : State).dev.wall - 0 := by
  decide +kernel

/-- Core 0 has been pre-empted for the urgent region, which still needs cores. -/
def reserved : State :=
  { contended with core := { contended.core with job := { contended.core.job with preemptFor := some 6 } } }
theorem witness_Regions_reserved : (∀ x ∈ reserved.dev.regions, x.key = region.key → x = { region with imageBase := 0x20000, maxCores := 1, dispatched := 2 }) ∧
    (reserved.coreOf 0).job.preemptFor = some 6 ∧ reserved.dev.region? 6 = some urgent ∧ region.prio ≤ urgent.prio ∧
    0 < reserved.need urgent := by
  decide +kernel

/-- The current core comes to a boundary with its pre-emption asked for; an image that cannot be read is due, and one that
gives a core. -/
def wide : Page := { page .device with bits := 16 }
def preempting : State :=
  let s := hosted { region with imageBase := 0x11000 } cpu
  { s with core := { s.core with job := { s.core.job with preempt := true } }, dev := { s.dev with pages := [wide] } }
def kept (base : Word) : Region := { region with images := [0], imageBase := base, dispatched := 2 }
def restoring (base : Word) : State :=
  { dispatching with dev := { dispatching.dev with regions := [kept base], pages := [page .device],
                                                   mem := [(0x200020, 0x28)] } }
theorem witness_Preemptions : preempting.preemptable = [preempting.core.id] ∧
    preempting.dev.regionOf preempting.core = some { region with imageBase := 0x11000 } ∧
    (restoring 0x10000).takes (kept 0x10000) = [0] ∧ (restoring 0x20000).takes (kept 0x20000) = [0] ∧
    (restoring 0x20000).dev.readVa 0 (0x20000 + 0x20) 8 = none ∧
    (((((restoring 0x10000).dev.readVa 0 (0x10000 + 0x20) 8).bind
        (fun bs => (restoring 0x10000).dev.readVa 0 0x10000 (leNat bs))).bind
      ((restoring 0x10000).dev.restoreCore 0 (Core.idle 0) (kept 0x10000).classes ⟨0, [], [], [], [], [], none, none⟩)).map (·.id)) = some 0 := by
  decide +kernel

theorem preempting_length : preempting.restNow.core.image.length = 0x2C00 := by
  have h : preempting.restNow.core.usedSlots = [] ∧ preempting.restNow.core.store.dirty = 0 := by decide +kernel
  simp only [Core.image, h.1, h.2, List.length_append, Mem.length_bytes]
  decide +kernel

theorem preempting_page : ∀ x < 0x2C00, findPage preempting.dev.pages 0 (0x11000 + x) = some wide ∧
    preempting.dev.reachable .device (wide.addr (0x11000 + x)) wide.dieLocal = true := by
  intro x hx
  have whole : ∀ k, bitOf preempting.dev.isolated k = false := fun k => by
    have : preempting.dev.isolated = Vector.replicate 8 false := rfl
    by_cases hk : k < 8 <;> simp [bitOf, this, hk]
  constructor
  · have : preempting.dev.pages = [wide] := rfl
    rw [this, findPage, List.find?_cons]
    have hw : wide.va = 0x10000 ∧ wide.bits = 16 ∧ wide.pasid = 0 := ⟨rfl, rfl, rfl⟩
    have : (wide.pasid == 0 && decide (wide.va ≤ 0x11000 + x) && decide (0x11000 + x < wide.va + 2 ^ wide.bits)) = true := by
      rw [hw.1, hw.2.1, hw.2.2]
      simp
      omega
    rw [this]
  · have hw : wide.addr (0x11000 + x) = 0x201000 + x := by
      have : wide.va = 0x10000 ∧ wide.frame = 0x200000 := ⟨rfl, rfl⟩
      rw [Page.addr, this.1, this.2]
      omega
    have hb : preempting.dev.hbmBytes = 8 * 96 * 2 ^ 30 := by decide
    rw [Device.reachable, hw, whole, hb]
    simp
    omega

theorem witness_Preemptions_image : MemoryOk preempting ∧
    OnePage preempting.dev 0 0x11000 preempting.restNow.core.image.length wide ∧
    0x11000 + preempting.restNow.core.image.length < 2 ^ 64 ∧ preempting.restNow.dev.mem = preempting.dev.mem ∧
    wide.addr 0x100FF < wide.addr 0x11000 ∧ FrameFits cpu.core ∧ cpu.core.usedSlots.length ≤ 96 := by
  rw [preempting_length]
  exact ⟨memoryOk (by decide), onePage (by decide) preempting_page, by decide, by decide, by decide,
    ⟨by decide, by decide, by decide, by decide, by decide⟩, by decide⟩

/-- A machine with one continuation, whose block is at the start of the CCB window: its state, the SEQ it has acknowledged
and its owner's policy word. -/
def continued (st ack : Nat) (policy : Nat) (root : Option Nat) (check : Option Nat) : State :=
  { cpu with dev := { cpu.dev with
      hostCxl := false,
      ccbs := [⟨3, 0, 0, false, check, none, root⟩],
      mem := (if st = 0 then [] else [(windowBase, BitVec.ofNat 8 st)]) ++
        (if policy = 0 then [] else (List.range 8).map (fun k => (windowBase + 8 + k, 0xFF))) ++
        (if ack = 0 then [] else [(windowBase + 0x18, BitVec.ofNat 8 ack)]) } }
def rooted : State :=
  let s := continued 2 0 0 (some 5) none
  { s with dev := { s.dev with regions := [{ region with ccb := some 3 }] } }

/-- A block at rest with a new and with an old SEQ, one whose root is at work, one that is terminal, and owners that are and
are not descheduled. -/
theorem witness_Continuations : MemoryOk (continued 0 0 0 none none) ∧ (continued 0 0 0 none none).dev.hostCxl = false ∧
    (continued 0 0 0 none none).dev.ccb? 3 = some ⟨3, 0, 0, false, none, none, none⟩ ∧
    (∀ x ∈ (continued 0 0 0 none none).dev.ccbs, x.heldArgs = none) ∧
    (continued 0 0 0 none none).dev.ccbGet ⟨3, 0, 0, false, none, none, none⟩ 0x18 4 ≠ (1 : BitVec 32).toNat ∧
    (continued 0 1 0 none none).dev.ccbGet ⟨3, 0, 0, false, none, none, none⟩ 0x18 4 = (1 : BitVec 32).toNat ∧
    ccbAtRest ((continued 0 0 0 none none).dev.ccbState ⟨3, 0, 0, false, none, none, none⟩) = true ∧
    ((continued 0 0 0 none none).dev.region? (regionKey 0 0)).isSome = false ∧
    ccbAtRest (rooted.dev.ccbState ⟨3, 0, 0, false, none, none, some 5⟩) = false ∧
    rooted.dev.region? 5 = some { region with ccb := some 3 } :=
  ⟨memoryOk (by decide), by decide, by decide, by decide, by decide, by decide, by decide, by decide, by decide, by decide⟩

theorem witness_Continuations_busy :
    (({ (continued 0 0 0 none none).dev with regions := [{ region with key := regionKey 0 0 }] } : Device).region?
      (regionKey 0 0)).isSome = true := by decide

theorem witness_Continuations_policy :
    let c : Ccb := ⟨3, 0, 0, true, some 5, none, none⟩
    (continued 2 0 1 none (some 5)).dev.ccbState c = 2 ∧ (continued 2 0 1 none (some 5)).dev.ccbGet c 8 8 = 2 ^ 64 - 1 ∧
    (continued 3 0 0 none (some 5)).dev.ccbState c = 3 ∧ (continued 3 0 0 none (some 5)).dev.ccbGet c 8 8 ≠ 2 ^ 64 - 1 ∧
    (continued 4 0 0 none (some 5)).dev.ccbTerminal c = true ∧ (continued 2 0 0 none (some 5)).dev.ccbTerminal c = false := by
  decide

/-- A machine with a segment descriptor, a plane region and a continuation at rest. -/
def driven : State :=
  let s := continued 0 0 0 none none
  { s with dev := { s.dev with
      segcnt := 1, reduced := false, planeMib := s.dev.planeMib.set 0 1, planes := [⟨0, 0, .priority, planeBase 0, 4096, none, []⟩],
      mem := [(1, 0x10), (8, 16), (12, 1), (17, 0x10), (24, 1)] } }
/-- Arguments at the ends of the ranges of the driver commands. -/
theorem witness_DriverCommands : MemoryOk driven ∧ (1 : Word).toNat % 256 ≠ 0 ∧ (0x0FFF00 : Word).toNat % 256 = 0 ∧
    decide ((0x0FFF00 : Word).toNat < 0x100000) = true ∧ driven.dev.ccb? 0 = none ∧ (∀ k < 0, driven.dev.ccb? k ≠ none) ∧
    4096 ≤ (4096 : Word).toNat ∧ driven.dev.ccb? 4095 = none ∧ (driven.dev.ccb? 3).isSome = true ∧
    driven.dev.segment 0 = some ⟨0x1000, 16, 1, 0, 0x1000, true⟩ ∧
    driven.dev.planeRoom 0 4096 = some (planeBase 0 + 4096) ∧ driven.dev.planeRoom 0 (2 ^ 20) = none ∧
    (∀ p ∈ driven.dev.planes, p.num ≠ 1) ∧ (∀ k < 1, ∃ p ∈ driven.dev.planes, p.num = k) ∧
    driven.dev.planes.find? (fun p => p.num = (0 : Word).toNat) = some ⟨0, 0, .priority, planeBase 0, 4096, none, []⟩ :=
  ⟨memoryOk (by decide), by decide, by decide, by decide, by decide, by decide, by decide, by decide, by decide, by decide,
    by decide, by decide, by decide, by decide, by decide⟩

/-- A command behind which another write of DCMD waits; every slot taken. -/
theorem witness_DriverCommands_overwritten : driven.dev.inbox.any isDcmd = false ∧
    ({ driven.dev with inbox := [.regccb 1 0 0 0 0] } : Device).inbox.any isDcmd = true := by decide

theorem witness_DriverCommands_full (n : Nat) (h : n < 4096) :
    ({ driven.dev with ccbs := (List.range 4096).map (fun k => ⟨k, 0, 0, false, none, none, none⟩) } : Device).ccb? n ≠ none := by
  intro e
  simp only [Device.ccb?, List.find?_eq_none, List.mem_map, List.mem_range, decide_eq_true_eq] at e
  exact e ⟨n, 0, 0, false, none, none, none⟩ ⟨n, h, rfl⟩ rfl

theorem witness_DriverCommands_segment : (⟨0x1000, 16, 1, 0, 0x1000, true⟩ : Segment).base.toNat % 4096 = 0 ∧
    (3 : Word).toNat % 256 < 4 ∧ 4 ≤ (4 : Word).toNat % 256 ∧ driven.dev.segcnt ≤ (1 : Word).toNat := by decide

/-- A host write to a bound plane region and one elsewhere; a page that may move and one that may not; a remote write. -/
def settledPage : State :=
  { dev1 with dev := { dev1.dev with moves := [⟨0, 0x10000, [], some (10 ^ 15)⟩] } }
def remote : State := { cpu with dev := { cpu.dev with remote := [⟨0, 1, 5, Vector.replicate 8 0⟩] } }
/-- The AMOADD has sent its AtomicOp, with an answer or none, or is still to send it. -/
def hostAsk (x : Option Path) : AtomicReq := ⟨0, 0, page .host, 0x10FF8, .add, 8, 1, 0, x.map (fun p => (p, 5, none))⟩
def hostWord (cxlc : Bool) (sent : Option AtomicReq) : State :=
  let s := mapped .host (regs [(1, 0xFF8), (2, 1)])
  { s with core := { s.core with scalar := { s.core.scalar with sent := sent.map (fun r => ⟨r.id, amoAdd, 0, none⟩) } },
           dev := { s.dev with windows := [⟨0, 0x200000, 0x1000, cxlc, .untried⟩], atomics := sent.toList, atomicNext := 1 } }
/-- A load through handle 1 is in flight. -/
def accessing : State :=
  { dev1 with core := { dev1.core with scalar := { dev1.core.scalar with
      flights := [⟨9, .load 5 0 none [], 0, 0, false, some 1⟩] } } }
theorem witness_HostAccess : MemoryOk (planed [member]) ∧ (planed [member]).dev.meetsBound 0x200000 8 = true ∧
    dev1.dev.meetsBound 0x200000 8 = false ∧ dev1.dev.touched 0x200000 8 = [] ∧
    dev1.dev.reachable (dev1.dev.kindAt 0x200000) 0x200000 none = true ∧ findPage dev1.dev.pages 0 0 = none ∧
    findPage dev1.dev.pages 0 0x10FFF = some (page .device) ∧ dev1.dev.mayMove (dev1.dev.movesOf 0 0x10000) = true ∧
    ({ dev1.dev with reduced := false } : Device).mayMap (dev1.dev.pageAt (page .device) 0x400000) = true ∧
    dev1.dev.mayMap (dev1.dev.pageAt (page .device) 0x400000) = false ∧
    dev1.invalOpen ⟨page .device, dev1.holders (page .device), dev1.dev.cycle, none⟩ = false ∧
    accessing.invalOpen ⟨page .device, accessing.holders (page .device), accessing.dev.cycle, none⟩ = true ∧
    settledPage.dev.mayMove (settledPage.dev.movesOf 0 0x10000) = false ∧ cpu.dev.nextRemote 1 = none ∧
    remote.dev.nextRemote 1 = some ⟨0, 1, 5, Vector.replicate 8 0⟩ := by
  refine ⟨memoryOk (by decide), ?_⟩
  decide

theorem witness_HostAccess_atomic : MemoryOk (hostWord true (some (hostAsk none))) ∧
    (hostWord true (some (hostAsk none))).dev.atomics.find? (fun q => q.core = 0 && q.answer.isNone) = some (hostAsk none) ∧
    (hostAsk none).page.kind = .host ∧ (hostAsk none).page.addr (hostAsk none).va + 8 ≤ enumPage ∧
    (hostWord true (some (hostAsk none))).dev.reachable .host ((hostAsk none).page.addr (hostAsk none).va) none = true ∧
    (hostWord true (some (hostAsk none))).awaits 0 = true ∧ (hostWord true none).awaits 0 = false ∧
    (((hostWord true none).dev.windowOf (hostBase + 0x200FF8)).map (fun x => x.cxlc)).getD false = true ∧
    (((hostWord false none).dev.windowOf (hostBase + 0x200FF8)).map (fun x => x.cxlc)).getD false = false :=
  ⟨memoryOk (by decide), by decide, by decide, by decide, by decide, by decide, by decide, by decide, by decide⟩

/-- The AMOADD that is to send its AtomicOp, waits for it, and has its answer. -/
theorem witness_HostAccess_sends : (hostWord true none).core.nest = none ∧ amoAdd.gate (hostWord true none) = .go ∧
    (hostWord true none).sentOp amoAdd = none ∧ (hostWord true none).core.handlePage 1 0xFF8 = some (page .host) ∧
    (hostWord true none).dev.route ((page .host).addr 0x10FF8) .add 3 = .atomicOp ∧
    (∀ x ∈ [none, some Path.atomicOp, some Path.cache, some Path.none],
      (hostWord true (some (hostAsk x))).sentOp amoAdd = some (hostAsk x) ∧
      amoAdd.gate (hostWord true (some (hostAsk x))) = .go) := by
  decide +kernel

/-- A route to device 9 over link 2; a load of the current core that waits for tag 4. -/
def asking (kind : PeerKind) (tag : Option (BitVec 8)) : PeerReq :=
  ⟨7, tag, 0, none, true, 0, 0x10000, kind, .read 0 0 0 8, 0⟩
def peered : State :=
  { flying (.peer (some 5) 7 8 false false) with
    dev := { cpu.dev with routes := [(9, 2)], peerReqs := [asking .load (some 4)] } }
theorem witness_Peers : MemoryOk peered ∧
    peered.dev.routes.find? (fun r => r.1 = (9 : BitVec 8).toNat && bitOf peered.dev.peerLinks r.2) = some (9, 2) ∧
    peered.dev.meetsBound 0 8 = false ∧ (planed [member]).dev.meetsBound 0x200000 64 = true ∧
    peered.dev.reachable (peered.dev.kindAt 0) 0 none = true ∧
    peered.dev.peerReqs.find? (fun r => r.tag = some 4) = some (asking .load (some 4)) ∧
    peered.dev.peerReqs.find? (fun r => r.tag = some 5) = none ∧
    (∀ r ∈ peered.dev.peerReqs, r.tag ≠ none) ∧ (asking .load (some 4)).core = peered.core.id ∧
    peered.core.scalar.flights = [] ++ ⟨0, .peer (some 5) 7 8 false false, 1, 0, false, none⟩ :: [] ∧
    bitOf peered.dev.peerLinks 11 = true ∧
    bitOf ({ peered.dev with peerLinks := peered.dev.peerLinks.set 11 false } : Device).peerLinks 11 = false ∧
    (peered.dev.peerSeq[11]?).getD 0 = 0 ∧ (2047 - (0 : BitVec 12)).toNat < 2048 ∧ 2048 ≤ (4095 - (0 : BitVec 12)).toNat := by
  refine ⟨memoryOk (by decide), ?_⟩
  decide

/-- A write that waits for its tag behind one that has it, and what a failing link meets: a request that no route reaches, and
a flit that takes another link. -/
def toNine (id : Nat) (tag : Option (BitVec 8)) : PeerReq :=
  ⟨id, tag, 0, none, true, (peerBase + 9 * 2 ^ 52) / 64, 0x10000, .write, .write 0 0 0 [true] [1] 0, 0⟩
theorem witness_Peers_waiting :
    let d := { peered.dev with peerReqs := [toNine 1 (some 4), toNine 2 none] }
    d.peerReqs.find? (fun r => r.tag = some 4) = some (toNine 1 (some 4)) ∧ (toNine 2 none).tag = none ∧
    d.linkTo (toNine 2 none).dev = some 2 := by
  decide
/-- A release is deferred on line 0, and the write to a peer that it covers is not acknowledged. -/
def deferring : State := { peered with dev := { peered.dev with peerReqs := [toNine 1 (some 4)], lazy := [⟨0, 1, 65576, 2, [0]⟩] } }
theorem witness_Peers_held : (linesOf 0 8).any (deferring.dev.lineHeld none) = true ∧
    (linesOf 0 8).any (peered.dev.lineHeld none) = false ∧ deferring.dev.meetsBound 0 8 = false := by
  decide
theorem witness_Peers_failing :
    peered.dev.routes.any (fun x => x.1 = (toNine 1 (some 4)).dev && bitOf (peered.dev.peerLinks.setIfInBounds 2 false) x.2) = false ∧
    (∀ x ∈ peered.dev.unacked, x.link ≠ 2) ∧
    ([(9, 2), (9, 3)] : List (Nat × Nat)).find? (fun y => y.1 = 9 && bitOf (peered.dev.peerLinks.setIfInBounds 2 false) y.2) =
      some (9, 3) := by
  decide

/-- Links in each of their states, and a die with and without a region. -/
theorem witness_PackageEvents : cpu.dev.hasLink 0 = true ∧ cpu.dev.hasLink 9 = true ∧ (cpu.dev.links[9]?).getD .up = .up ∧
    (((cpu.dev.links.set 9 .retraining)[9]?).getD .up) = .retraining ∧ (((cpu.dev.links.set 9 .down)[9]?).getD .up) = .down ∧
    cpu.regionsOn 7 = [] ∧ ((hosted region cpu).regionsOn 0).map (·.1) = [5] ∧
    (hosted region cpu).dev.region? 5 = some region ∧ region.domain = 0 ∧ region.ending = none ∧
    (∀ q ∈ (hosted region cpu).dev.peerReqs, q.region = some 5 → q.isWrite = false) ∧
    (∀ x ∈ (hosted region cpu).dev.regions, x.parent ≠ some 5) := by
  decide +kernel

/-- Port 1 holds the semaphore; or nobody does. -/
def managed (p : Option Port) : State := { cpu with dev := { cpu.dev with glaes := { cpu.dev.glaes with holder := p } } }
theorem witness_Management : Port.hostLink ≠ Port.i3c ∧ (managed (some .hostLink)).dev.glaes.holder = some .hostLink ∧
    (managed none).dev.glaes.holder = none ∧ rivalLease .hostLink (managed none).dev.inbox = none ∧
    rivalLease .i3c [.semget .hostLink 5] = some (.hostLink, 5) ∧
    (managed (some .i3c)).dev.glaes.holder = some .i3c ∧ (0 < 4095 ∧ 4095 < 4096) ∧
    0 < (managed none).dev.liveCores ∧ (managed none).dev.liveCores ≤ 1000 ∧ MemoryOk cpu ∧ cpu.dev.reduced = true ∧
    (∀ r ∈ ([⟨0, 1, 10⟩] : List Tolerant), tolerantFmt r.fmt = true) :=
  ⟨by decide, rfl, rfl, by decide, by decide, rfl, by decide, by decide, by decide, memoryOk (by decide), rfl, by decide⟩

theorem witness_StepKeepsMemoryCanonical : MemoryOk State.reset ∧
    (match step State.reset with | .next _ => true | _ => false) = true :=
  ⟨memoryOk (by decide), by decide +kernel⟩

theorem witness_DecodeOfEncode : encode (.add 0 18 15 13) = some 0x00291E68 ∧ (Instr.add 0 18 15 13).wellFormed = true := by
  decide
theorem witness_EncodeOfDecode : decodeWord 0x00291E68 = .ok (.add 0 18 15 13) := by
  rfl

/-- The current core at the turn of S. -/
def turning (words : BitVec 128) : State :=
  let s := coded cpu words
  { s with core := { s.core with phase := issuePhase .s, engS := ⟨4, 0, 0, 0⟩ }, dev := { s.dev with turn := false } }
/-- Its own word, one of V, NEST and HALT. -/
theorem witness_StepRunsDecoded : (turning nops).dev.powered = true ∧ (turning nops).dev.inbox = [] ∧
    (turning nops).core.job.started ≤ (turning nops).dev.cycle ∧ (turning nops).core.scalar.late = [] ∧
    (turning nops).core.faultComing = false ∧ (turning nops).core.fetchHeld = false ∧ (turning nops).missingBody 1 = none ∧
    (turning nops).core.stopped = false ∧ (turning nops).core.failed .s = false ∧ (turning nops).core.walk = none ∧
    (turning nops).fetchWord ((turning nops).core.eng .s).pc = some 0x03400000 ∧
    (turning 0x45000000).fetchWord 4 = some 0x45000000 ∧ wordEngine 0x45000000 ≠ .s ∧
    isNestWord 0x03E38F00 = true ∧ isHaltWord 0x03400002 = true ∧ isPathWord 0x02600000 = true ∧
    (turning 0x45000000).core.slipOk .s = true ∧ (decodeTableWord 32 0x03E38F00).isSome = true := by
  decide +kernel
/-- Before S's turn: a control write that retires in this cycle; a line that is not fetched, and one that V waits for. -/
theorem witness_StepRunsDecoded_waits :
    ({ (turning nops).core with queues := { (turning nops).core.queues with
        pushes := [⟨0, .retire ⟨0, 0, .control 5 1⟩⟩] } } : Core).earlyDue = true ∧
    (turning nops).core.earlyDue = false ∧ (turning nops).core.returning = false ∧ (turning nops).core.scalar.handler = false ∧
    cpu.fetchWord 4 = none ∧ (turning nops).core.unfetched = [] ∧
    ({ (turning nops).core with unfetched := [0] } : Core).unfetched = [(4 : Word) &&& ~~~127] := by
  decide +kernel
theorem witness_StepRunsDecoded_nest : nesting.core.nest = some nestOf ∧ nesting.core.cleared = false ∧
    ({ nesting.core with nest := some { nestOf with checked := true } } : Core).cleared = true ∧
    ({ nesting.core with nest := some { nestOf with checked := true } } : Core).dueWord { nestOf with checked := true } .s =
      some (0, 0x00291E68, Idx.zero) := by
  decide

/-! ### Single steps, with results worked out by hand from the rules cited -/

def ones : Word := BitVec.allOnes 64
/-- The value and cycles of the one S word in flight. -/
def work (u : State) : Option (Nat × SWork) := u.core.scalar.flights.head?.map (fun f => (f.remain, f.work))

/-- R134: sums wrap; s0 discards. -/
theorem test_add_wraps : after (.add 0 5 1 2) (regs [(1, ones), (2, 2)]) (fun u => (u.core.reg 5, u.core.engS.pc)) = some (1, 4) := by
  decide
theorem test_add_s0 : after (.add 0 0 1 2) (regs [(1, 3), (2, 2)]) (·.core.reg 0) = some 0 := by decide
theorem test_sub : after (.sub 0 1 1 2) (regs [(1, 3), (2, 5)]) (·.core.reg 1) = some (ones - 1) := by decide
theorem test_sra_modulo : after (.sra 0 5 1 2) (regs [(1, 1 <<< 63), (2, 65)]) (·.core.reg 5) = some (3 <<< 62) := by decide
theorem test_shr : after (.shr 0 5 1 2) (regs [(1, 1 <<< 63), (2, 63)]) (·.core.reg 5) = some 1 := by decide
theorem test_slt_signed : after (.slt 0 5 1 2) (regs [(1, ones), (2, 0)]) (·.core.reg 5) = some 1 := by decide
theorem test_sltu : after (.sltu 0 5 1 2) (regs [(1, ones), (2, 0)]) (·.core.reg 5) = some 0 := by decide
theorem test_minu : after (.minu 0 5 1 2) (regs [(1, ones), (2, 7)]) (·.core.reg 5) = some 7 := by decide
theorem test_min : after (.min 0 5 1 2) (regs [(1, ones), (2, 7)]) (·.core.reg 5) = some ones := by decide
/-- R135: nine bits, sign-extended. -/
theorem test_addi_negative : after (.addi 0 5 1 0x1FF) (regs [(1, 8)]) (·.core.reg 5) = some 7 := by decide
theorem test_andi_sign : after (.andi 0 5 1 0x1FE) (regs [(1, ones)]) (·.core.reg 5) = some (ones - 1) := by decide
/-- R136: LUI shifts its signed field by 9; LSH by 15 and adds; ADDPC counts words from its own. -/
theorem test_lui : after (.lui 0 5 0x4000) cpu (·.core.reg 5) = some 0xFFFFFFFFFF800000 := by decide
theorem test_lsh : after (.lsh 0 5 0x7FFF) (regs [(5, 1)]) (·.core.reg 5) = some 0xFFFF := by decide
theorem test_addpc : after (.addpc 0 5 0x7FFF) { cpu with core := { cpu.core with engS := ⟨0x100, 0, 0, 0⟩ } } (·.core.reg 5) =
    some 0xFC := by decide
/-- R134: the corners of division and of the high products. -/
theorem test_div_zero : after (.div 0 5 1 2) (regs [(1, 7)]) work = some (some (18, .muldiv 5 ones true)) := by decide
theorem test_div_wraps : after (.div 0 5 1 2) (regs [(1, 1 <<< 63), (2, ones)]) work = some (some (18, .muldiv 5 (1 <<< 63) true)) := by
  decide
theorem test_rem_sign : after (.rem 0 5 1 2) (regs [(1, 0 - 7), (2, 2)]) work = some (some (18, .muldiv 5 ones true)) := by decide
theorem test_remu_zero : after (.remu 0 5 1 2) (regs [(1, 7)]) work = some (some (18, .muldiv 5 7 true)) := by decide
theorem test_mulh : after (.mulh 0 5 1 2) (regs [(1, ones), (2, ones)]) work = some (some (3, .muldiv 5 0 false)) := by decide
theorem test_mulhu : after (.mulhu 0 5 1 2) (regs [(1, ones), (2, ones)]) work = some (some (3, .muldiv 5 (ones - 1) false)) := by
  decide
/-- R137: a compare pushes its bit in the next cycle. -/
theorem test_cge_signed : after (.cge 0 1 2) (regs [(1, ones)]) (·.core.queues.pushes) = some [⟨1, .retire ⟨0, 0, .cond false⟩⟩] := by decide
theorem test_cgeu : after (.cgeu 0 1 2) (regs [(1, ones)]) (·.core.queues.pushes) = some [⟨1, .retire ⟨0, 0, .cond true⟩⟩] := by decide
/-- R20, R138: BCQ takes the branch on a 1, BCQN does not; the offset counts words and may be negative. -/
theorem test_bcq_taken : after (.bcq 0 0x1FFFFE) { decided with core := { decided.core with engS := ⟨0x100, 0, 0, 0⟩ } }
    (fun u => (u.core.engS.pc, u.core.queues.cond)) = some (0xF8, []) := by decide
theorem test_bcqn_not_taken : after (.bcqn 0 16) decided (fun u => (u.core.engS.pc, u.core.scalar.hold)) = some (4, .none) := by
  decide
/-- R139: CALLR reads its target before it writes the link, and drops its low bits. -/
theorem test_callr_link : after (.callr 0 62) (regs [(62, 0x203)]) (fun u => (u.core.engS.pc, u.core.reg 62)) = some (0x200, 4) := by
  decide
/-- R19, R146: SLIP is clamped. -/
theorem test_slip_clamp : ((cpu.core.writeControl 4 7).scalar.slip, (cpu.core.writeControl 4 2000).scalar.slip) = (16, 1024) := by
  decide
theorem test_timer_disarms : ((interrupted 7).core.writeControl 0x0C 0).scalar.ipend = 6 := by decide
/-- R149: TRAP records BREAK and retires. -/
theorem test_trap : after (.trap 0 5) cpu (fun u => (u.core.fails, u.core.engS.pc)) = some ([⟨.s, 0x20, 5, 0⟩], 4) := by decide
/-- R144: TWAIT takes one token of each masked partner, and waits while one is missing. -/
theorem test_twait_takes : after (.twait 0 5) signalled (fun u => (u.core.queues.tok[0], u.core.engS.pc)) = some (0, 4) := by decide
theorem test_twait_waits : after (.twait 0 7) signalled (fun u => (u.core.queues.tok[0], u.core.engS.pc)) = some (1, 0) := by decide
/-- R82, R83: shadow fields only. -/
theorem test_scfg : after (.scfg 0 3 1 2) (regs [(1, 8)]) (fun u => ((u.core.shadow.streams[3])[2], (u.core.active.streams[3])[2])) =
    some (8, 0) := by decide
theorem test_ncfg : after (.ncfg 0 1 2) (regs [(1, 8)]) (fun u => (u.core.shadow.levels[2]).trip) = some 8 := by decide

/-- R219: the bytes are little-endian; LDB sign-extends. -/
def filled : State := { dev1 with dev := { dev1.dev with mem := [(0x200FF8, 0x80), (0x200FF9, 0x01)] } }
theorem test_ldb_sign : after (.ldb 0 5 1 1 0) filled (fun u => (work u).map (·.2)) =
    some (some (.load 5 (ones - 0x7F) none [])) := by decide
theorem test_ldh_unsigned : after (.ldhu 0 5 1 1 0) filled (fun u => (work u).map (·.2)) = some (some (.load 5 0x180 none [])) := by decide
theorem test_std : after (.std 0 2 1 1 0) dev1 (fun u => (u.dev.byteAt 0x200FF8, u.dev.byteAt 0x200FFF)) = some (0x88, 0x11) := by
  decide
theorem test_sth_only : after (.sth 0 2 1 1 0) dev1 (fun u => (u.dev.byteAt 0x200FF9, u.dev.byteAt 0x200FFA)) = some (0x77, 0) := by
  decide
/-- R218: past the end is HANDLEBOUNDS, an INVALID handle NOHANDLE, with the handle's number. -/
theorem test_ldd_bounds : after (.ldd 0 5 1 1 1) dev1 (·.core.fails) = some [⟨.s, 0x80, 1, 0⟩] := by decide
theorem test_ldd_nohandle : after (.ldd 0 5 1 2 0) dev1 (·.core.fails) = some [⟨.s, 0x82, 2, 0⟩] := by decide
/-- R221: the old value returns and the new one is stored. -/
theorem test_amoadd : after (.amoadd 0 2 1 1 1 0 0) filled (fun u => ((work u).map (·.2), u.dev.byteAt 0x200FF8, u.dev.byteAt 0x200FF9)) =
    some (some (.load 2 0x180 none []), 0x08, 0x79) := by decide
theorem test_amocas_fails : after (.amocas 0 1 1 1 1 0 0) filled (fun u => u.dev.byteAt 0x200FF8) = some 0x80 := by decide
/-- R205: STS writes the scratchpad. -/
theorem test_sts : after (.sts 0 2 0 1) dev1 (fun u => (u.core.store.spad.get 8, u.core.store.spad.get 15)) = some (0x88, 0x11) := by
  decide
/-- R209: a hit pins and falls through; a miss claims and is taken. -/
theorem test_probe_hit : after (.probe 0 5 2 16 0) (tiled tile) (fun u => (u.core.reg 5, (u.core.tile 3).pin, u.core.engS.pc)) =
    some (3, 2, 4) := by decide +kernel
theorem test_probe_miss : after (.probe 0 5 2 16 0) (tiled { tile with state := .empty, pin := 0 })
    (fun u => (u.core.reg 5, (u.core.tile 3).state, u.core.engS.pc)) = some (0x8000000000000003, .filling, 64) := by decide +kernel
theorem test_trel : after (.trel 0 1) (tiled tile) (fun u => (u.core.tile 3).pin) = some 0 := by decide
/-- R212: a range past 2^26 bytes is refused with HANDLEBOUNDS. -/
theorem test_hrel : after (.hrel 0 1) dev1 (fun u => (u.core.handle 1).state) = some .invalid := by decide
theorem test_hqry : after (.hqry 0 2 1) dev1 (fun u => (u.core.reg 4, u.core.reg 5)) =
    some (0x10000, 0x10200001000) := by decide
/-- R238: an arrival adds its bytes and registers later. -/
theorem test_bara : after (.bara 0 1 1) (barred member (regs [(1, 64)])) (fun u => (u.member 1).map (fun m => (m.count, m.arriving))) =
    some (some (64, true)) := by decide
theorem test_bar_illegal : after (.bar 0 2) cpu (fun u => u.core.fails.map (·.cause)) = some [0x01] := by decide
/-- R265: a pop takes the newest record, and a push the record's 64 bytes. -/
theorem test_qpop_newest : after (.qpop 0 5 1) (dequed [7, 9]) (fun u => u.core.deque.bank) = some [7] := by decide +kernel
theorem test_qpush_full : after (.qpush 0 1) (dequed (List.replicate 32 7)) (fun u => u.core.fails.map (·.cause)) = some [0x11] := by decide

/-- Element 0 of the register that the first V result in flight will write. -/
def element (w : Nat) (u : State) : Option (Nat × Nat × Flags) :=
  match u.core.vec.flights.head? with
  | some ⟨n, .vreg _ v _ _, _, _, fl, _, _, _⟩ => some (n, bitsAt v w 0, fl)
  | _ => none
/-- Registers v1, v2 and v3 hold the values in element 0. -/
def vregs (a b c : BitVec 8192) : State :=
  { cpu with core := { cpu.core with vec := { cpu.core.vec with regs := ((cpu.core.vec.regs.set 1 a).set 2 b).set 3 c } } }

/-- R161: 1.0 + 2.0 = 3.0 in FP32, four cycles later. -/
theorem test_vadd : after (.vadd 0 0 0 3 1 2) (vregs 0x3F800000 0x40000000 0) (element 32) = some (some (4, 0x40400000, 0)) := by
  decide +kernel
/-- R45: infinity less infinity is the canonical NaN, with INVALID (bit 0). -/
theorem test_vsub_invalid : after (.vsub 0 0 0 3 1 2) (vregs 0x7F800000 0x7F800000 0) (fun u => ((element 32) u).map (·.2.1)) =
    some (some 0x7FC00000) := by decide +kernel
/-- 1.5 × 2 − 1 = 2 in one rounding. -/
theorem test_vfms : after (.vfms 0 0 0 3 1 2) (vregs 0x3FC00000 0x40000000 0x3F800000) (element 32) = some (some (4, 0x40000000, 0)) := by
  decide +kernel
/-- R162: INT8 sums saturate with f = 1 and wrap without. -/
theorem test_viadd_clamp : after (.viadd 0 0 2 3 1 2 1) (vregs 0x7F 1 0) (fun u => ((element 8) u).map (·.2.1)) =
    some (some 0x7F) := by decide +kernel
theorem test_viadd_wraps : after (.viadd 0 0 2 3 1 2 0) (vregs 0x7F 1 0) (fun u => ((element 8) u).map (·.2.1)) =
    some (some 0x80) := by decide +kernel
theorem test_vsra : after (.vsra 0 0 0 3 1 2) (vregs 0x80000000 0x21 0) (element 32) = some (some (2, 0xC0000000, 0)) := by
  decide +kernel
/-- R165: VCQ.ANY of an empty mask pushes 0 when it lands. -/
theorem test_vcq_any : after (.vcqAny 0 1) cpu (fun u => u.core.vec.flights.map (·.result)) = some [.cond false] := by decide +kernel
theorem test_vxs_sign : after (.vxs 0 0 5 1) (vregs 0x80000000 0 0) (fun u => u.core.vec.flights.map (·.result)) =
    some [.sreg 5 0xFFFFFFFF80000000] := by decide +kernel
/-- R171: FP32 1.0 to INT32. -/
theorem test_vcvt_int : after (.vcvt 0 0 0 3 1 4 0) (vregs 0x3F800000 0 0) (fun u => ((element 32) u).map (·.2.1)) = some (some 1) := by
  decide +kernel

/-- R97, R113: MZERO clears; MADD of an accumulator to itself doubles: 1.5 + 1.5 = 3. -/
def accumulating (i : Instr) : State :=
  { queued i with core := { (queued i).core with mat := { (queued i).core.mat with accs := (queued i).core.mat.accs.set 1 0x3FC00000 } } }
theorem test_mzero : after .mWordComplete (accumulating (.mzero 0 0 2)) (fun u => u.core.accum 1) = some 0 := by decide +kernel
theorem test_mcopy : after .mWordComplete (accumulating (.mcopy 0 4 1 0)) (fun u => u.core.accum 4) = some 0x3FC00000 := by decide +kernel
theorem test_msig : after .mWordComplete (accumulating (.msig 0 4)) (fun u => u.core.queues.pushes) =
    some [⟨0, .token .m .x⟩] := by decide +kernel
/-- R222: a command enters the journal. -/
theorem test_xmov : after (.xmov 0 0 1 0 0 0 0 0) square (fun u => u.core.xfer.journal.map (fun e => (e.word, e.next))) =
    some [(0xC0202000, 0)] := by decide +kernel
theorem test_xset_kind : after (.xset 0 0 1 0 0 0 0 0) (streamed 3 0x0020002000200020 128) (fun u => u.core.fails.map (·.cause)) =
    some [0x06] := by decide +kernel

/-- R121, R181: the handler starts at TVEC with the cause; without one the cause is fatal. -/
theorem test_trap_entry : after .trapEntry (failing 0x800) (fun u => (u.core.engS.pc, u.core.scalar.tcause, u.core.scalar.handler)) =
    some (0x800, 0x06, true) := by decide +kernel
theorem test_trap_fatal : after .trapEntry (failing 0) (fun u => u.core.fatal) = some (some ⟨.v, 0x06, 1, 0x100⟩) := by decide +kernel
theorem test_interrupt_lowest : after .interruptTake (interrupted 6) (fun u => (u.core.scalar.tcause, u.core.scalar.ipend)) =
    some (0x31, 4) := by decide +kernel
theorem test_tret : after (.tret 0) (handling 0) (fun u => u.core.scalar.handler) = some false := by decide +kernel
theorem test_tret_doubletrap : after (.tret 0) (handling 7) (fun u => u.core.fails.map (·.cause)) = some [0x87] := by decide +kernel
/-- R86, R90: NEST starts at cycle 0; the exit passes the body: 1 + 4 words. -/
theorem test_nest : after (.nest 0 0 0 0) (coded cpu nops) (fun u => u.core.nest.map (fun n => (n.rows, n.ii, n.cycle))) =
    some (some (1, 1, 0)) := by decide +kernel
theorem test_nest_exit : after .nestExit nesting (fun u => (u.core.engV.pc, u.core.engV.walk)) = some (20, 5) := by decide
/-- R239: the phase counts up. -/
theorem test_phase : after (.phaseComplete 1) (barred arrived cpu) (fun u => (u.dev.tag 1).phase) = some 8 := by decide
theorem test_timer : after .timer cpu (fun u => u.core.scalar.ipend) = some 1 := by decide
theorem test_watchdog : after (.watchdog .v) cpu (fun u => u.core.fails.map (fun f => (f.engine, f.cause))) = some [(.v, 0x85)] := by decide
/-- R295: an unassigned code sets ERR 1 with the SEQ. -/
theorem test_dcmd : after (.dcmdReservedOp 11 3 0 0 0 0) cpu (fun u => u.dev.dstat) = some 0x300000001 := by decide +kernel
theorem test_regccb : after (.regccb 3 0x10 0 0 0) cpu (fun u => u.dev.dstat) = some 0x300000002 := by decide +kernel
/-- R297: a NOOP with a new SEQ is acknowledged. -/
theorem test_ccb_noop : after (.ccbNoop 3 9) (continued 0 0 0 none none) (fun u => u.dev.mem.load (windowBase + 0x18) 8) = some 9 := by
  decide
/-- R313: an ACK ends its request. -/
theorem test_ack : after (.ack 4 0) peered (fun u => u.dev.peerReqs) = some [] := by decide
theorem test_readdata : after (.readdata 4 [1, 2, 0, 0, 0, 0, 0, 0] false) peered (fun u => u.core.reg 5) = some 0x201 := by decide
/-- R335: the semaphore, and a command without it. -/
theorem test_semget : after (.semget .i3c 100) (managed none) (fun u => (u.dev.glaes.holder, u.dev.glaes.reply.head?)) =
    some (some .i3c, some 0) := by decide
theorem test_nosem : after (.reset .i3c) (managed none) (fun u => u.dev.glaes.reply) = some [1] := by decide
end Sys2Proof.Tests
end

section
/-! PROOFS. The trap of a core whose journal is empty while a retirement on its way queues a release (O42). -/
namespace Sys2Proof.Machine.Traps

/-- An XFILL at DEVICE scope with a release, all of whose one chunk counts as written. -/
def writtenRelease : JEntry :=
  ⟨0xC0C00C00, 1, Idx.zero, Stream.zero, Stream.zero, Stream.zero, 0, 0, none, 0, false⟩

/-- A core with a handler and a fault of V. Its journal is empty, and the retirement that falls due at the end of the
cycle queues that command; core 0 owns line 7. -/
def releaseOnItsWay : State :=
  let c := Core.idle 0
  { State.reset with
    core := { c with
      running := true, scalar := { c.scalar with tvec := 0x800 }, fails := [⟨.v, 0x06, 1, 0x100⟩],
      queues := { c.queues with pushes := [⟨0, .retire ⟨0, 0, .journal writtenRelease⟩⟩] } },
    dev := { State.reset.dev with owned := [(7, 0)] } }

theorem releaseOnItsWay_memoryOk : MemoryOk releaseOnItsWay := ⟨rfl, rfl, by simp [releaseOnItsWay, State.reset]⟩

/-- The trap performs the release: core 0 owns nothing any more. -/
theorem trapFault_releaseOnItsWay : releaseOnItsWay.trapFault.dev.owned = [] := by decide

/-- Refutes O42: the device is said to stay where no entry of the journal releases, but the end of the cycle (R187) queues
the entries on their way before the head completes. No run leads to such an entry, since PROBE queues its own with no
chunk written (R209); the statement asks for any state, and in this one the trap clears the line that core 0 owns. -/
theorem not_trapsEnter : ¬ Obligations.TrapsEnter := by
  intro h
  obtain ⟨-, faults, -, -⟩ := h
  obtain ⟨-, handled⟩ := faults releaseOnItsWay ⟨.v, 0x06, 1, 0x100⟩ releaseOnItsWay_memoryOk (by decide)
  obtain ⟨u, hu, -, keeps⟩ := handled (by decide)
  have hu : releaseOnItsWay.trapFault = u := Host.Outcome.next.inj hu
  have stays : u.dev = releaseOnItsWay.dev :=
    keeps.device (fun f hf => absurd hf List.not_mem_nil) (fun e es he => absurd he (List.cons_ne_nil e es).symm)
  have owned : releaseOnItsWay.dev.owned = [] := by
    rw [← stays, ← hu, trapFault_releaseOnItsWay]
  exact absurd owned (List.cons_ne_nil _ _)

end Sys2Proof.Machine.Traps
end

section
/-! PROOFS. TRET (R126, R185): what it answers where the frame is in range, and where it is not. -/
namespace Sys2Proof.Machine.Traps

/-! ### TRET issues -/

theorem tret_gate {s : State} {t : BitVec 3} (h : s.core.scalar.handler = true) (r : SReady s.core t 0 []) :
    Instr.gate (.tret t) s = .go := (if_pos h).trans r.gate

theorem tret_gate_outside {s : State} {t : BitVec 3} {w : W32} (h : s.core.scalar.handler = false)
    (e : encode (.tret t) = some w) : Instr.gate (.tret t) s = .fail 0x01 (w.setWidth 64) := by
  show (if s.core.scalar.handler then s.core.sGate t 0 [] else illegalWord (.tret t)) = _
  simp [h, illegalWord, e]

/-- The core as TRET finds it once the word has its tokens and S has passed it. -/
def atTret (s : State) (t : BitVec 3) : Core := (s.core.takeTokens .s t 0).pass .s

@[simp] theorem atTret_scalar (s : State) (t : BitVec 3) : (atTret s t).scalar = s.core.scalar := by simp [atTret]
@[simp] theorem atTret_vec (s : State) (t : BitVec 3) : (atTret s t).vec = s.core.vec := by simp [atTret]
@[simp] theorem atTret_mat (s : State) (t : BitVec 3) : (atTret s t).mat = s.core.mat := by simp [atTret]
@[simp] theorem atTret_xfer (s : State) (t : BitVec 3) : (atTret s t).xfer = s.core.xfer := by simp [atTret]
@[simp] theorem atTret_store (s : State) (t : BitVec 3) : (atTret s t).store = s.core.store := by simp [atTret]
@[simp] theorem atTret_active (s : State) (t : BitVec 3) : (atTret s t).active = s.core.active := by simp [atTret]
@[simp] theorem atTret_shadow (s : State) (t : BitVec 3) : (atTret s t).shadow = s.core.shadow := by simp [atTret]
@[simp] theorem atTret_fails (s : State) (t : BitVec 3) : (atTret s t).fails = s.core.fails := by simp [atTret]

@[simp] theorem atTret_reg (s : State) (t : BitVec 3) (r : BitVec 6) : (atTret s t).reg r = s.core.reg r :=
  Core.reg_eq _ _ (by rw [atTret_scalar]) r

@[simp] theorem atTret_saveArea (s : State) (t : BitVec 3) : (atTret s t).saveArea = s.core.saveArea := by
  funext off n
  rw [Core.saveArea, Core.saveArea, atTret_store]

@[simp] theorem atTret_frameOk (s : State) (t : BitVec 3) (rd : Nat → Nat → Nat) :
    (atTret s t).frameOk rd = s.core.frameOk rd := by
  rw [Core.frameOk, Core.frameOk, atTret_store]

theorem exec_tret {s : State} {t : BitVec 3} (h : s.core.scalar.handler = true) (r : SReady s.core t 0 []) :
    exec (.tret t) s = .next ((((s.onCore (fun _ => atTret s t)).returnFromTrap s.core.engS.pc).onCore
      (·.signal 1 .s 0 t)).onCore (·.endTurn .s)) := by
  show execTret t s = _
  rw [execTret, State.issue_go _ _ _ _ _ _ (tret_gate h r)]
  rfl

/-! ### The frame comes back (R126, R185) -/

/-- Of an AMO's AtomicOp that was refused, only S's note of it goes. -/
theorem dropRefused_eq (s : State) : ∃ x, s.dropRefused = s.onCore (·.setSent x) := by
  unfold State.dropRefused
  split
  · split
    · exact ⟨s.core.scalar.sent, rfl⟩
    · exact ⟨s.core.scalar.sent, rfl⟩
    · exact ⟨none, rfl⟩
  · exact ⟨s.core.scalar.sent, rfl⟩

/-- The core at the end of TRET's turn, for a frame read by rd; x is the AMO whose AtomicOp is out. -/
def returned (c : Core) (rd : Nat → Nat → Nat) (t : BitVec 3) (x : Option Sent) : Core :=
  (((c.loadFrame rd 2).retTrap.setSent x).signal 1 .s 0 t).endTurn .s

theorem exec_tret_frameOk {s : State} {t : BitVec 3} (h : s.core.scalar.handler = true) (r : SReady s.core t 0 [])
    (f : s.core.frameOk s.core.saveArea = true) :
    ∃ x, exec (.tret t) s = .next (s.onCore (fun _ => returned (atTret s t) s.core.saveArea t x)) := by
  obtain ⟨x, hx⟩ := dropRefused_eq ((s.onCore (fun _ => atTret s t)).onCore
    (fun c => (c.loadFrame s.core.saveArea 2).retTrap))
  refine ⟨x, (exec_tret h r).trans ?_⟩
  rw [State.returnFromTrap]
  simp only [State.onCore_core, atTret_saveArea, atTret_frameOk, f, if_true, hx]
  rfl

section
variable (c : Core) (rd : Nat → Nat → Nat) (t : BitVec 3) (x : Option Sent)

theorem returned_eng (e : Engine) : (returned c rd t x).eng e =
    ⟨BitVec.ofNat 64 (rd (0x10 + 8 * e.num) 8 / 4 * 4), rd (0x30 + 8 * e.num) 8, 0, 0⟩ := by
  cases e <;> rfl

theorem returned_scalar : (returned c rd t x).scalar =
    { (c.loadFrame rd 2).scalar with hold := .tret 1, sent := x } := rfl
theorem returned_vec : (returned c rd t x).vec = (c.loadFrame rd 2).vec := rfl
theorem returned_queues : (returned c rd t x).queues =
    { (c.loadFrame rd 2).queues with pushes := retires 1 t .none } := rfl
theorem returned_nest : (returned c rd t x).nest = readNest rd := rfl
theorem returned_accs : (returned c rd t x).mat.accs = c.mat.accs := rfl
theorem returned_store : (returned c rd t x).store = c.store := rfl
theorem returned_active : (returned c rd t x).active = c.active := rfl
theorem returned_shadow : (returned c rd t x).shadow = c.shadow := rfl
theorem returned_fails : (returned c rd t x).fails = c.fails := rfl
theorem returned_reg (r : BitVec 6) : (returned c rd t x).reg r = c.reg r := rfl

/-- While TRET retires no chunk spends a cycle (R126). -/
theorem endTurn_returning (h : c.returning = true) : (c.endTurn .s).xfer.journal = c.xfer.journal := by
  rw [Core.endTurn, Core.enterDrain]
  cases c.xfer.journal with
  | nil => rfl
  | cons e es => simp [h]

theorem returned_journal : (returned c rd t x).xfer.journal = (c.loadFrame rd 2).xfer.journal := endTurn_returning _ rfl

end

/-- Where a command stands: its word and its next chunk. -/
def progress (e : JEntry) : Nat × Nat := (e.word.toNat, e.next)

theorem readEntry_word (c : Core) (rd : Nat → Nat → Nat) (k : Nat) :
    (c.readEntry rd k).word = BitVec.ofNat 32 (rd (0xA00 + 32 * k) 4) := by
  unfold Core.readEntry
  rw [apply_ite JEntry.word]
  exact ite_self _

theorem readEntry_next (c : Core) (rd : Nat → Nat → Nat) (k : Nat) :
    (c.readEntry rd k).next = rd (0xA00 + 32 * k + 4) 4 := by
  unfold Core.readEntry
  rw [apply_ite JEntry.next]
  exact ite_self _

theorem readEntry_progress (c : Core) (rd : Nat → Nat → Nat) (k : Nat) :
    progress (c.readEntry rd k) = (rd (0xA00 + 32 * k) 4 % 2 ^ 32, rd (0xA00 + 32 * k + 4) 4) := by
  rw [progress, readEntry_word, readEntry_next, BitVec.toNat_ofNat]

theorem startHead_progress (es : List JEntry) : (startHead es).map progress = es.map progress := by
  cases es <;> rfl

theorem loadFrame_progress (c : Core) (rd : Nat → Nat → Nat) (n : Nat) :
    (c.loadFrame rd n).xfer.journal.map progress =
      (List.range (rd 0xB0 8 % 64)).map (fun k => (rd (0xA00 + 32 * k) 4 % 2 ^ 32, rd (0xA00 + 32 * k + 4) 4)) ++
        c.xfer.journal.map progress := by
  show (startHead ((List.range (rd 0xB0 8 % 64)).map (c.readEntry rd) ++ c.xfer.journal)).map progress = _
  rw [startHead_progress, List.map_append, List.map_map]
  simp [Function.comp_def, readEntry_progress]

theorem readNest_cases (rd : Nat → Nat → Nat) :
    if rd 0x00 8 / 2 ^ 10 % 2 = 1 then ∃ n, readNest rd = some n ∧ n.rows = rd 0x50 8 % 64 + 1 ∧
      n.ii = rd 0x50 8 / 2 ^ 6 % 64 + 1 ∧ n.cycle = rd 0x58 8
    else readNest rd = none := by
  unfold readNest
  split
  · exact ⟨_, rfl, rfl, rfl, rfl⟩
  · rfl

/-! ### A field of the frame is out of range (R185) -/

/-- The core at the end of the turn of a TRET whose frame is refused. -/
def refused (s : State) (t : BitVec 3) : Core :=
  (((atTret s t).record ⟨.s, 0x87, 0, s.core.engS.pc⟩).signal 1 .s 0 t).endTurn .s

section
variable (s : State) (t : BitVec 3)

theorem refused_scalar : (refused s t).scalar = s.core.scalar := atTret_scalar s t
theorem refused_vec : (refused s t).vec = s.core.vec := atTret_vec s t
theorem refused_accs : (refused s t).mat.accs = s.core.mat.accs := congrArg (·.accs) (atTret_mat s t)
theorem refused_store : (refused s t).store = s.core.store := atTret_store s t
theorem refused_active : (refused s t).active = s.core.active := atTret_active s t
theorem refused_shadow : (refused s t).shadow = s.core.shadow := atTret_shadow s t
theorem refused_fails : (refused s t).fails = s.core.fails ++ [⟨.s, 0x87, 0, s.core.engS.pc⟩] :=
  congrArg (· ++ _) (atTret_fails s t)
theorem refused_reg (r : BitVec 6) : (refused s t).reg r = s.core.reg r := atTret_reg s t r

end

theorem exec_tret_frameBad {s : State} {t : BitVec 3} (h : s.core.scalar.handler = true) (r : SReady s.core t 0 [])
    (f : s.core.frameOk s.core.saveArea = false) : exec (.tret t) s = .next (s.onCore (fun _ => refused s t)) := by
  rw [exec_tret h r, State.returnFromTrap]
  simp only [State.onCore_core, atTret_saveArea, atTret_frameOk, f]
  rfl

end Sys2Proof.Machine.Traps
end

section
/-! PROOFS. A fatal error (R192, R193): the core stops, and a region that CONTAINs it ends. -/
namespace Sys2Proof.Machine.Traps

/-! ### What the device's own writes leave as it was -/

/-- The regions and the tags stay; no START comes to be held, and no write of a region goes out to a peer. -/
structure Quiet (d e : Device) : Prop where
  regions : e.regions = d.regions
  tags    : e.tags = d.tags
  held    : (∀ c ∈ d.ccbs, c.heldArgs = none) → ∀ c ∈ e.ccbs, c.heldArgs = none
  writes  : ∀ key, e.writesOut key = d.writesOut key

theorem Quiet.refl (d : Device) : Quiet d d := ⟨rfl, rfl, id, fun _ => rfl⟩

theorem Quiet.trans {a b c : Device} (h : Quiet a b) (k : Quiet b c) : Quiet a c :=
  ⟨k.regions.trans h.regions, k.tags.trans h.tags, fun n => k.held (h.held n), fun y => (k.writes y).trans (h.writes y)⟩

/-- A device whose regions, tags, continuations and requests are the same. -/
theorem Quiet.of_eq {d e : Device} (r : e.regions = d.regions) (t : e.tags = d.tags) (c : e.ccbs = d.ccbs)
    (p : e.peerReqs = d.peerReqs) : Quiet d e :=
  ⟨r, t, fun h => c ▸ h, fun key => by rw [Device.writesOut, Device.writesOut, p]⟩

theorem Quiet.foldl {α : Type} {f : Device → α → Device} (h : ∀ d a, Quiet d (f d a)) (as : List α) (d : Device) :
    Quiet d (as.foldl f d) := by
  induction as generalizing d with
  | nil => exact .refl d
  | cons a as ih => exact (h d a).trans (ih (f d a))

/-- Requests that keep their region and kind. -/
theorem Quiet.of_map {d e : Device} (g : PeerReq → PeerReq) (r : e.regions = d.regions) (t : e.tags = d.tags)
    (c : e.ccbs = d.ccbs) (p : e.peerReqs = d.peerReqs.map g) (hr : ∀ q, (g q).region = q.region)
    (hk : ∀ q, (g q).kind = q.kind) : Quiet d e := by
  refine ⟨r, t, fun h => c ▸ h, fun key => ?_⟩
  have same : ∀ q : PeerReq, (g q).isWrite = q.isWrite := fun q => by rw [PeerReq.isWrite, PeerReq.isWrite, hk]
  simp [Device.writesOut, p, Function.comp_def, hr, same]

/-! Memory -/

theorem quiet_raiseEvent (d : Device) (v : Nat) : Quiet d (d.raiseEvent v) := by
  unfold Device.raiseEvent
  split
  · exact .of_eq rfl rfl rfl rfl
  · exact .of_eq rfl rfl rfl rfl

theorem quiet_noteError (d : Device) (e : ErrorNote) : Quiet d (d.noteError e) := by
  unfold Device.noteError
  split
  · exact .of_eq rfl rfl rfl rfl
  · exact .trans (b := d.onCounters _) (.of_eq rfl rfl rfl rfl) (quiet_raiseEvent _ _)

theorem quiet_mendLine (d : Device) (k : PageKind) (key : Nat) (l : Option Nat) (line : Nat) (full : Bool) :
    Quiet d (d.mendLine k key l line full) := by
  have filled : Quiet d (if full then d else d.noteErrors (d.fillNote k key l line).toList) := by
    split
    · exact .refl d
    · exact .foldl quiet_noteError _ d
  unfold Device.mendLine
  generalize (if full then d else d.noteErrors (d.fillNote k key l line).toList) = e at filled ⊢
  refine filled.trans ?_
  dsimp only
  split
  · exact .of_eq rfl rfl rfl rfl
  · exact .of_eq rfl rfl rfl rfl

theorem quiet_keyWrite (d : Device) (key line : Nat) (full : Bool) : Quiet d (d.keyWrite key line full) := by
  unfold Device.keyWrite
  split
  · exact .of_eq rfl rfl rfl rfl
  · split
    · exact .of_eq rfl rfl rfl rfl
    · split
      · exact .refl d
      · exact .of_eq rfl rfl rfl rfl

theorem quiet_ownLine (d : Device) (w : Writer) (l : Option Nat) (line : Nat) : Quiet d (d.ownLine w l line) := by
  unfold Device.ownLine
  split
  · split
    · exact .of_eq rfl rfl rfl rfl
    · exact .of_eq rfl rfl rfl rfl
  · exact .of_eq rfl rfl rfl rfl

theorem quiet_markLine (d : Device) (die : Option Nat) (line : Nat) : Quiet d (d.markLine die line) := by
  cases die with
  | none => exact .of_eq rfl rfl rfl rfl
  | some w => exact .of_eq rfl rfl rfl rfl

/-- A write of DEVICE or CODE memory: what was in error is mended, and the line takes its key and its owner. -/
theorem quiet_mended (d : Device) (w : Writer) (k : PageKind) (key : Nat) (l : Option Nat) (line : Nat) (full : Bool) :
    Quiet d (((d.mendLine k key l line full).keyWrite key line full).ownLine w l line) :=
  ((quiet_mendLine _ _ _ _ _ _).trans (quiet_keyWrite _ _ _ _)).trans (quiet_ownLine _ _ _ _)

theorem quiet_touchLine (d : Device) (w : Writer) (k : PageKind) (key : Nat) (l : Option Nat) (line : Nat) (full : Bool) :
    Quiet d (d.touchLine w k key l line full) := by
  have asked : Quiet d (d.request w.core (64 * line) 64) := .of_eq rfl rfl rfl rfl
  unfold Device.touchLine
  refine asked.trans ?_
  split
  · dsimp only
    split
    · exact (quiet_mended ..).trans (quiet_markLine ..)
    · exact quiet_mended ..
  · dsimp only
    split
    · exact (quiet_mended ..).trans (quiet_markLine ..)
    · exact quiet_mended ..
  · split
    · exact .of_eq rfl rfl rfl rfl
    · exact .refl _

/-- The device as a writer: it stands in no region, so that no undo record is made. -/
theorem quiet_writePage (d : Device) (p : Page) (va : Nat) (bs : List Byte) :
    Quiet d (d.writePage ⟨none, none⟩ p va bs) := by
  unfold Device.writePage
  split
  · exact .refl d
  · unfold Device.writeAt
    split
    · exact .refl d
    · refine .trans (.foldl (fun d l => ?_) _ d) (.of_eq rfl rfl rfl rfl)
      exact quiet_touchLine d _ _ _ _ l _

/-! Requests to peers -/

theorem quiet_sendTo (d : Device) (dev : Nat) (ps : List Packet) : Quiet d (d.sendTo dev ps) := by
  unfold Device.sendTo
  split
  · exact .of_eq rfl rfl rfl rfl
  · exact .refl d

theorem quiet_pumpList (rs : List PeerReq) (d : Device) : Quiet d (Device.pumpList rs d) := by
  induction rs generalizing d with
  | nil => exact .refl d
  | cons r rs ih =>
    unfold Device.pumpList
    split
    · exact .refl d
    · next t _ =>
      refine .trans (.trans ?_ (quiet_sendTo _ _ _)) (ih _)
      refine .of_map (fun x => if x.id = r.id then { x with tag := some t } else x) rfl rfl rfl rfl (fun q => ?_) (fun q => ?_)
      · split <;> rfl
      · split <;> rfl

theorem quiet_pump (d : Device) : Quiet d d.pump := quiet_pumpList _ d

theorem quiet_queueReq (d : Device) (core : Nat) (p : Page) (a : Nat) (k : PeerKind) (pk : Packet) :
    Quiet d (d.queueReq core none p a k pk) :=
  ⟨rfl, rfl, id, fun key => by simp [Device.writesOut, Device.queueReq]⟩

theorem quiet_ownSend (d : Device) (p : Page) (va : Nat) (bs : List Byte) : Quiet d (d.ownSend p va bs) := by
  unfold Device.ownSend
  dsimp only
  split
  · refine .trans ?_ (quiet_pump _)
    refine (quiet_queueReq d 0 p (p.addr va) .write _).trans (.of_map _ rfl rfl rfl rfl (fun q => ?_) (fun q => ?_))
    · split <;> rfl
    · split <;> rfl
  · exact .refl d

theorem quiet_writeVaLine (d : Device) (pasid : BitVec 20) (va : Nat) (bs : List Byte) :
    Quiet d (d.writeVaLine pasid va bs) := by
  unfold Device.writeVaLine
  split
  · split
    · exact .refl d
    · split
      · exact quiet_ownSend ..
      · exact quiet_writePage ..
  · exact .refl d

theorem quiet_writeVa (d : Device) (pasid : BitVec 20) (va : Nat) (bs : List Byte) : Quiet d (d.writeVa pasid va bs) :=
  .foldl (fun d _ => quiet_writeVaLine d _ _ _) _ d

/-! Control blocks -/

theorem quiet_rcbPut (d : Device) (pasid : BitVec 20) (rcb : Word) (off n v : Nat) : Quiet d (d.rcbPut pasid rcb off n v) :=
  quiet_writeVa ..

theorem quiet_putStatus (d : Device) (pasid : BitVec 20) (rcb : Word) (st : RState) (n k : Nat) (b l : Bool) :
    Quiet d (d.putStatus pasid rcb st n k b l) := quiet_rcbPut ..

theorem quiet_signalWrite (d : Device) (pasid : BitVec 20) (rcb addr v : Word) : Quiet d (d.signalWrite pasid rcb addr v) := by
  unfold Device.signalWrite
  split
  · exact .refl d
  · split
    · exact quiet_writeVa ..
    · exact quiet_rcbPut ..

theorem quiet_recordFault (d : Device) (r : Region) (f : FaultRec) : Quiet d (d.recordFault r f) :=
  ((quiet_rcbPut ..).trans (quiet_rcbPut ..)).trans (quiet_rcbPut ..)

theorem quiet_ccbPut (d : Device) (c : Ccb) (off n v : Nat) : Quiet d (d.ccbPut c off n v) := by
  unfold Device.ccbPut
  split
  · exact quiet_writeVa ..
  · exact .of_eq rfl rfl rfl rfl

theorem quiet_ccbFault (d : Device) (c : Ccb) (f : FaultRec) : Quiet d (d.ccbFault c f) :=
  (((quiet_ccbPut ..).trans (quiet_ccbPut ..)).trans (quiet_ccbPut ..)).trans (quiet_ccbPut ..)

theorem quiet_unchecked (d : Device) (slot : Nat) : Quiet d (d.onCcb slot (fun c => { c with check := none })) := by
  refine ⟨rfl, rfl, fun h c hc => ?_, fun _ => rfl⟩
  obtain ⟨b, hb, rfl⟩ := List.mem_map.mp hc
  split
  · exact h b hb
  · exact h b hb

theorem quiet_notify (d : Device) (c : Ccb) (st cause : Nat) : Quiet d (d.notify c st cause) := by
  have told : Quiet d ((d.ccbPut c 0 8 (st + 16 + cause * 2 ^ 8)).onCcb c.slot (fun c => { c with check := none })) :=
    (quiet_ccbPut ..).trans (quiet_unchecked ..)
  unfold Device.notify
  refine told.trans ?_
  dsimp only
  split
  · exact .trans (quiet_ccbPut ..) (.of_eq rfl rfl rfl rfl)
  · exact quiet_ccbPut ..

theorem quiet_endCcb (d : Device) (r : Region) (st : RState) (reason : Nat) (f : FaultRec) :
    Quiet d (d.endCcb r st reason f) := by
  unfold Device.endCcb
  split
  · split
    · exact quiet_notify ..
    · exact quiet_notify ..
    · exact (quiet_ccbFault ..).trans (quiet_notify ..)
    · exact (quiet_ccbFault ..).trans (quiet_notify ..)
    · exact (quiet_ccbFault ..).trans (quiet_notify ..)
  · exact .refl d

theorem quiet_orphanReqs (d : Device) (p : Nat → Bool) : Quiet d (d.orphanReqs p) := by
  refine .of_map _ rfl rfl rfl rfl (fun q => ?_) (fun q => ?_)
  · split <;> rfl
  · split <;> rfl

/-- Without a held START none is launched (R283). -/
theorem startHeld_none {d : Device} (h : ∀ c ∈ d.ccbs, c.heldArgs = none) : d.startHeld = d := by
  unfold Device.startHeld
  generalize d.ccbs = cs at h ⊢
  induction cs with
  | nil => rfl
  | cons c cs ih =>
    rw [List.foldl_cons, h c (List.mem_cons_self ..)]
    exact ih (fun b hb => h b (List.mem_cons_of_mem _ hb))

/-! ### Cores that stop (R192) -/

/-- The current core is the one of that number, it runs no more, and no fault of its is left. -/
structure Stands (id : Nat) (s : State) : Prop where
  still : s.core.running = false
  same  : s.core.id = id
  clean : s.core.fails = []

theorem Stands.mapCores {id : Nat} {s : State} (h : Stands id s) (p : Core → Bool) (f : Core → Core)
    (hr : (f s.core).running = s.core.running) (hi : (f s.core).id = s.core.id) (hf : (f s.core).fails = s.core.fails) :
    Stands id (s.mapCores p f) := by
  have e : (s.mapCores p f).core = if p s.core then f s.core else s.core := rfl
  constructor <;> rw [e] <;> split <;> simp [*, h.still, h.same, h.clean]

theorem Stands.dev {id : Nat} {s : State} (h : Stands id s) (d : Device) : Stands id { s with dev := d } :=
  ⟨h.still, h.same, h.clean⟩

theorem Stands.dropOut {id : Nat} {s : State} (h : Stands id s) (p : Core → Bool) : Stands id (s.dropOut p) := h.dev _

theorem Stands.stopRegion {id : Nat} {s : State} (h : Stands id s) (key : Nat) : Stands id (s.stopRegion key) := by
  unfold State.stopRegion State.stopWhere
  exact (h.dropOut _).mapCores _ _ h.still.symm rfl h.clean.symm

theorem Stands.freeRegion {id : Nat} {s : State} (h : Stands id s) (key : Nat) : Stands id (s.freeRegion key) :=
  (h.stopRegion key).mapCores _ _ rfl rfl rfl

theorem Stands.endRegion {id : Nat} {s : State} (h : Stands id s) (key : Nat) (st : RState) (n : Nat) (f : FaultRec) :
    Stands id (s.endRegion key st n f) := by
  unfold State.endRegion
  split
  · exact h
  · split
    · exact h
    · dsimp only
      split
      · exact (h.freeRegion key).dev _
      · exact (h.freeRegion key).dev _

theorem Stands.abortBelow {id : Nat} {s : State} (h : Stands id s) (key : Nat) : Stands id (s.abortBelow key) := by
  unfold State.abortBelow
  generalize (s.dev.below key (s.dev.regions.length + 1)).reverse = ks
  induction ks generalizing s with
  | nil => exact h
  | cons k ks ih => exact ih (h.endRegion ..)

theorem Stands.relaunch {id : Nat} {s : State} (h : Stands id s) (r : Region) (f : FaultRec) : Stands id (s.relaunch r f) := by
  unfold State.relaunch
  dsimp only
  split
  · exact (h.freeRegion _).dev _
  · exact (h.freeRegion _).dev _

theorem Stands.faultRegion {id : Nat} {s : State} (h : Stands id s) (n key : Nat) (f : FaultRec) :
    Stands id (State.faultRegion n s key f) := by
  induction n generalizing s key f with
  | zero => exact h
  | succ n ih =>
    unfold State.faultRegion
    split
    · exact h
    · next r _ =>
      split
      · exact h
      · have aborted := (((h.stopRegion key).dev
          ((s.stopRegion key).dev.recordFault r { f with rcb := r.rcb })).abortBelow key)
        dsimp only
        split
        · exact aborted.relaunch ..
        · split
          · split
            · exact ih (aborted.endRegion ..) ..
            · exact aborted.endRegion ..
          · exact aborted.endRegion ..

/-- The state in which a fatal error has stopped the current core (R192). -/
def stoppedCore (s : State) : State := (s.dropOut (fun c => c.id = s.core.id)).onCore (fun c => c.stop s.dev.cycle)

theorem stands_stoppedCore (s : State) : Stands s.core.id (stoppedCore s) := ⟨rfl, rfl, rfl⟩

theorem stands_fatalStop {s : State} {f : Fail} (h : s.core.fatalFail = some f) : Stands s.core.id s.fatalStop := by
  unfold State.fatalStop
  rw [h]
  dsimp only
  split
  · exact stands_stoppedCore s
  · exact (stands_stoppedCore s).faultRegion ..

/-! ### A region that CONTAINs the error (R193) -/

theorem fatalStop_region {s : State} {f : Fail} {r : Region} (h : s.core.fatalFail = some f)
    (hr : s.dev.regionOf s.core = some r) : s.fatalStop =
      State.faultRegion (s.dev.regions.length + 1) (stoppedCore s) r.key (f.record s.core.id r.rcb) := by
  unfold State.fatalStop
  rw [h, hr]
  rfl

theorem region?_key {d : Device} {k : Nat} {r : Region} (h : d.region? k = some r) : r.key = k := by
  simpa using List.find?_some h

/-- The region of a core is the one that its key names. -/
theorem regionOf_region? {d : Device} {c : Core} {r : Region} (h : d.regionOf c = some r) : d.region? r.key = some r := by
  obtain ⟨k, -, hk⟩ := Option.bind_eq_some_iff.mp h
  rw [region?_key hk, hk]

theorem Quiet.region? {d e : Device} (h : Quiet d e) (k : Nat) : e.region? k = d.region? k := by
  rw [Device.region?, Device.region?, h.regions]

theorem quiet_dropOut (s : State) (p : Core → Bool) : Quiet s.dev (s.dropOut p).dev :=
  quiet_orphanReqs s.dev (fun id => s.cores.any (fun c => c.id = id && p c))

theorem quiet_stopRegion (s : State) (key : Nat) : Quiet s.dev (s.stopRegion key).dev :=
  quiet_dropOut s (fun c => c.running && decide (c.job.region = some key))

theorem quiet_freeRegion (s : State) (key : Nat) : Quiet s.dev (s.freeRegion key).dev := quiet_stopRegion ..

theorem abortBelow_childless {s : State} {key : Nat} (h : ∀ x ∈ s.dev.regions, x.parent ≠ some key) :
    s.abortBelow key = s := by
  have none : s.dev.regions.filter (fun r => r.parent = some key) = [] := List.filter_eq_nil_iff.mpr (by simpa using h)
  simp [State.abortBelow, Device.below, none]

/-- The cores of a region have stopped, and its block records the error. -/
def recorded (s : State) (r : Region) (f : FaultRec) : State :=
  { s.stopRegion r.key with dev := (s.stopRegion r.key).dev.recordFault r f }

theorem quiet_recorded (s : State) (r : Region) (f : FaultRec) : Quiet s.dev (recorded s r f).dev :=
  (quiet_stopRegion s r.key).trans (quiet_recordFault ..)

/-- A region that CONTAINs a fatal error, without children, ends FAULTED and takes no other with it. -/
theorem faultRegion_contained {s : State} {r : Region} (n : Nat) (f : FaultRec) (hr : s.dev.region? r.key = some r)
    (hd : r.domain = 0) (he : r.ending = none) (hc : ∀ x ∈ s.dev.regions, x.parent ≠ some r.key) :
    State.faultRegion (n + 1) s r.key f =
      (recorded s r { f with rcb := r.rcb }).endRegion r.key .faulted f.cause { f with rcb := r.rcb } := by
  have childless : (recorded s r { f with rcb := r.rcb }).abortBelow r.key = recorded s r { f with rcb := r.rcb } :=
    abortBelow_childless (by rw [(quiet_recorded ..).regions]; exact hc)
  rw [recorded] at childless
  simp [State.faultRegion, hr, hd, he, childless, recorded]

theorem endRegion_finishes {s : State} {r : Region} (st : RState) (n : Nat) (f : FaultRec)
    (hr : s.dev.region? r.key = some r) (he : r.ending = none) (hc : (s.freeRegion r.key).dev.canEnd r.key = true) :
    ∃ left, s.endRegion r.key st n f = (s.freeRegion r.key).finishRegion r ⟨st, n, f, left⟩ :=
  ⟨(s.coresOf r.key).any (fun c => c.deque.bank ≠ [] || c.deque.spill ≠ 0), by simp [State.endRegion, hr, he, hc]⟩

/-- No core is left in a region that is freed (R274). -/
theorem freeRegion_cores (s : State) (key : Nat) : ∀ c ∈ (s.freeRegion key).cores, c.job.region ≠ some key := by
  have left : ∀ b : Core, (if decide (b.job.region = some key) then b.leave s.dev.cycle else b).job.region ≠ some key := by
    intro b
    split
    · simp [Core.leave]
    · next h => simpa using h
  intro c hc
  rcases List.mem_cons.mp hc with rfl | hc
  · exact left _
  · obtain ⟨b, -, rfl⟩ := List.mem_map.mp hc
    exact left b

/-- The device with a region gone: its tags are released, its plane regions unbound, its records discarded (R272). -/
def released (d : Device) (r : Region) : Device :=
  { d.dropStores r.key with
    tags := d.tags.map (fun t => if t.owner = some r.key then Tag.reset else t)
    planes := d.planes.map (fun p => if p.boundBy r.key then { p with bound := none, next := [] } else p)
    undo := d.undo.filter (fun u => u.region ≠ r.key)
    regions := (d.regions.filter (fun x => x.key ≠ r.key)).map (fun x =>
      if r.parent = some x.key then { x with children := x.children - 1 } else x) }

/-- What a region's end writes to memory and tells leaves the released device quiet (R272). -/
theorem finishRegion_quiet {s : State} (r : Region) (x : Ending) (h : ∀ c ∈ s.dev.ccbs, c.heldArgs = none) :
    Quiet (released s.dev r) (s.finishRegion r x).dev := by
  have ends : ∃ v, (s.finishRegion r x).dev = ((((released s.dev r).putStatus r.pasid r.rcb x.state x.reason r.restarts
      false x.left).signalWrite r.pasid r.rcb r.sigAddr v).endCcb r x.state x.reason x.fault).startHeld := ⟨_, rfl⟩
  obtain ⟨v, e⟩ := ends
  have told := ((quiet_putStatus (released s.dev r) r.pasid r.rcb x.state x.reason r.restarts false x.left).trans
    (quiet_signalWrite _ r.pasid r.rcb r.sigAddr v)).trans (quiet_endCcb _ r x.state x.reason x.fault)
  rw [e, startHeld_none (told.held h)]
  exact told

theorem released_keys (d : Device) (r : Region) :
    (released d r).regions.map (·.key) = (d.regions.map (·.key)).filter (fun k => k ≠ r.key) := by
  have same : ∀ x : Region, (if r.parent = some x.key then { x with children := x.children - 1 } else x).key = x.key := by
    intro x
    split <;> rfl
  simp [released, List.filter_map, Function.comp_def, same]

theorem released_tag (d : Device) (r : Region) (g : BitVec 3) : ((released d r).tag g).owner ≠ some r.key := by
  have e : (released d r).tag g = if (d.tag g).owner = some r.key then Tag.reset else d.tag g := Vector.getElem_map ..
  rw [e]
  split
  · simp [Tag.reset]
  · next h => exact h

/-- Of a region that CONTAINs a fatal error, has no children and waits for no write to a peer, no key, tag or core is left. -/
theorem faultRegion_contained_clears {s : State} {r : Region} (n : Nat) (f : FaultRec) (hr : s.dev.region? r.key = some r)
    (hd : r.domain = 0) (he : r.ending = none) (hc : ∀ x ∈ s.dev.regions, x.parent ≠ some r.key)
    (hw : s.dev.writesOut r.key = false) (hh : ∀ c ∈ s.dev.ccbs, c.heldArgs = none) :
    let u := State.faultRegion (n + 1) s r.key f
    u.dev.regions.map (·.key) = (s.dev.regions.map (·.key)).filter (fun k => k ≠ r.key) ∧
    (∀ g, (u.dev.tag g).owner ≠ some r.key) ∧ ∀ c ∈ u.cores, c.job.region ≠ some r.key := by
  have quiet := quiet_recorded s r { f with rcb := r.rcb }
  have free := quiet.trans (quiet_freeRegion _ r.key)
  have ends : ((recorded s r { f with rcb := r.rcb }).freeRegion r.key).dev.canEnd r.key = true := by
    simpa [Device.canEnd, free.writes, hw, free.regions] using hc
  obtain ⟨left, e⟩ := endRegion_finishes .faulted f.cause { f with rcb := r.rcb } ((quiet.region? _).trans hr) he ends
  have done := finishRegion_quiet r ⟨.faulted, f.cause, { f with rcb := r.rcb }, left⟩ (free.held hh)
  dsimp only
  rw [faultRegion_contained n f hr hd he hc, e]
  refine ⟨?_, fun g => ?_, freeRegion_cores _ _⟩
  · rw [done.regions, released_keys, free.regions]
  · rw [Device.tag, done.tags]
    exact released_tag _ r g

end Sys2Proof.Machine.Traps
end

section
/-! PROOFS. TRET and fatal errors, put together (O43). -/
namespace Sys2Proof.Machine.Traps

/-- Settles O43: TRET by the fields of the frame's core, a fatal error by what each step of the region's end leaves. -/
theorem trapsReturn : Obligations.TrapsReturn := by
  unfold Obligations.TrapsReturn
  refine ⟨fun s t ready inside => ⟨fun ok => ?_, fun bad => ?_⟩, fun s t w outside waits enc => ?_,
    fun s f fatal => ⟨?_, ?_⟩⟩
  · obtain ⟨x, e⟩ := exec_tret_frameOk inside ready ok
    have journal := congrArg (List.map progress) (returned_journal (atTret s t) s.core.saveArea t x)
    rw [loadFrame_progress, atTret_xfer] at journal
    refine ⟨_, e, ?_⟩
    simp only [State.onCore_core, State.onCore_dev, State.onCore_others, returned_eng, returned_scalar, returned_vec,
      returned_queues, returned_nest, returned_accs, returned_store, returned_active, returned_shadow, returned_fails,
      returned_reg, Core.loadFrame, Vector.getElem_ofFn, atTret_scalar, atTret_vec, atTret_mat, atTret_store,
      atTret_active, atTret_shadow, atTret_fails, atTret_reg, and_self, true_and, and_true, implies_true]
    exact ⟨rfl, rfl, rfl, readNest_cases _, ⟨rfl, rfl, rfl⟩, journal⟩
  · refine ⟨_, exec_tret_frameBad inside ready bad, ?_⟩
    simp only [State.onCore_core, State.onCore_dev, State.onCore_others, refused_scalar, refused_vec, refused_accs,
      refused_store, refused_active, refused_shadow, refused_fails, refused_reg, inside, and_self, implies_true]
  · have e : exec (.tret t) s = .next (s.onCore (fun c => (c.addFail .s 0x01 (w.setWidth 64)).endTurn .s)) := by
      show execTret t s = _
      rw [execTret, tret_gate_outside outside enc, State.issue_fail _ _ _ _ _ _ _ waits]
    refine ⟨_, e, ?_⟩
    simp [Core.addFail, Core.record]
  · have stands := stands_fatalStop fatal
    exact ⟨_, rfl, stands.still, stands.same, stands.clean⟩
  · intro r hr domain ending childless writes held
    have quiet : Quiet s.dev (stoppedCore s).dev := quiet_dropOut ..
    have out : s.dev.writesOut r.key = false := by
      simpa [Device.writesOut] using writes
    have named := (quiet.region? r.key).trans (regionOf_region? hr)
    have ends := faultRegion_contained_clears s.dev.regions.length (f.record s.core.id r.rcb) named domain ending
      (by rwa [quiet.regions]) ((quiet.writes _).trans out) (quiet.held held)
    rw [← fatalStop_region fatal hr, quiet.regions] at ends
    obtain ⟨keys, tags, cores⟩ := ends
    exact ⟨_, rfl, keys, tags, fun c hc _ => cores c hc⟩

end Sys2Proof.Machine.Traps
end
